-- ==== Sys2Proof/Word.lean ====
section
/-!
DEFINITION. The plain types of the Z4: register words, bytes, lane masks and cache lines
(03_state R67, R40, R72; 05_memory R134). Multi-byte values are little-endian (00_scope R3).
-/
namespace Sys2Proof

/-- A 32-bit register or instruction word. -/
abbrev Word := BitVec 32
/-- One byte of memory. -/
abbrev Byte := BitVec 8
/-- A 64-bit value held in an even/odd register pair (R68). -/
abbrev DWord := BitVec 64
/-- One bit per lane, 32 mask words of 32 bits (R40). -/
abbrev LaneMask := BitVec 1024
/-- The 128 bytes of a cache line, byte 0 in the lowest bits (R134). -/
abbrev Line := BitVec 1024

end Sys2Proof
end

