-- ==== Sys2Proof/Syntax.lean ====
section
/-!
DEFINITION. The instruction set as syntax: registers, the data that device events carry, and one constructor of
`Instr` for every row of the opcode table: 187 instruction words (11_encoding, R284) and 123 operations and events
of the device that have no word (95_what_each_step_holds).
-/
namespace Sys2Proof

/-- A register field decoded under R67: v0 to v191, or s0 to s63 (s63 reads as zero). -/
inductive Reg where
  | v (j : Fin 192)
  | s (j : Fin 64)
  deriving DecidableEq, Repr

/-- The 8-bit field value that names a register (R67). -/
def Reg.code : Reg → Nat
  | .v j => j.val
  | .s j => 192 + j.val

/-- The register that an 8-bit field value names (R67). -/
def Reg.ofCode (c : Nat) : Reg :=
  if h : c < 192 then .v ⟨c, h⟩ else .s (Fin.ofNat 64 (c - 192))

theorem Reg.code_lt (r : Reg) : r.code < 256 := by
  cases r with
  | v j => simp only [Reg.code]; omega
  | s j => simp only [Reg.code]; omega

theorem Reg.ofCode_code (r : Reg) : Reg.ofCode r.code = r := by
  cases r with
  | v j => simp [Reg.code, Reg.ofCode]
  | s j => simp [Reg.code, Reg.ofCode]

/-- One lane's access of a request: its byte address and up to two operand values (store data; compare value). For a plain
store the second is 1 where the writer's L1 held the line and did not take the store at issue. -/
structure LaneAcc where
  lane  : Nat
  va    : Nat
  data  : Nat := 0
  data2 : Nat := 0
  deriving DecidableEq, Repr, Inhabited

/-- The operation of an atomic request (R355). -/
inductive AtomOp where
  | add | min | max | minu | maxu | and | or | xor | xch | cas | faddF32 | faddBf16
  deriving DecidableEq, Repr

/-- A lane of a sink packet: its anchor address as the program computed it, the next word to run, its registers by code
(vector j as j, scalar j as 192 + j, predicate p as 256 + p), and the SUB and address at which it stopped (R460). -/
structure SinkEnv where
  lane : Nat
  va   : Nat
  next : Nat
  regs : List (Nat × Nat)
  stop : Option (Nat × Nat)
  deriving DecidableEq, Repr, Inhabited

/-- The run of a sink packet: site (0 before one is chosen), lanes, and its writes not yet acknowledged (R146). -/
structure SinkRun where
  site  : Nat
  lanes : List SinkEnv
  wids  : List Nat
  /-- Where its line lies in device memory (R472). -/
  pa    : Nat := 0
  deriving DecidableEq, Repr, Inhabited

/-- What a request asks of its home slice. Sizes are in bytes. -/
inductive HomeOp where
  /-- Plain load of `size` bytes per lane (R344); `fill` asks for the line in L1. -/
  | load (size : Nat)
  /-- Instruction fetch of a line (R134). -/
  | fetch
  /-- PREFETCH to level 1 (`l1`) or level 2 (R349). -/
  | prefetch (l1 : Bool)
  /-- Plain store of `size` bytes per lane (R344). -/
  | store (size : Nat)
  /-- ST4: `data` is the nibble, `data2` says which half of the byte (R345). -/
  | store4
  /-- Aggregated or lane by lane atomic (R356); `l1` when the L1 has already performed it (R171). -/
  | atom (op : AtomOp) (l1 : Bool)
  /-- Row operations (R354) on a row of `len` bytes; lane data hold the 16 bytes of each lane. -/
  | rowLd (len : Nat)
  | rowSt (len : Nat)
  | rowAdd (len : Nat) (bf16 : Bool)
  /-- DISCARD of `n` bytes per lane (R350). -/
  | discard (n : Nat)
  /-- LOCK and UNLOCK (R359); `me` is the lock-word value of the team. -/
  | lock (me : Nat)
  | unlock
  /-- WREG (R360). -/
  | wreg (cmp : Nat)
  /-- Transaction-barrier operations (R247, R484). -/
  | tbInit (c : Nat)
  | tbExpect (b : Nat)
  | tbArrive (b : Nat)
  | tbWait (phase : Bool)
  | tbTest
  | tbAbort
  /-- A sink packet: the words of the group, the MODE at SINK, flag A, and how far its run has come (R146). -/
  | sink (words : List Word) (mode : BitVec 16) (atomic : Bool) (run : SinkRun)
  /-- REDUCE-TILE element at its destination (R242): element type and operation. -/
  | reduce (typ : Nat)
  deriving DecidableEq, Repr

/-- Who waits for the answer of a request. -/
inductive Requester where
  /-- Outstanding entry `out` of team `team`. -/
  | team (team out : Nat)
  /-- Drover packet `pid`. -/
  | drover (pid : Nat)
  /-- Channel engine `e`, reading a command block or a parameter block. -/
  | engine (e : Nat)
  /-- The inbound peer request in progress under this number. -/
  | peer (id : Nat)
  /-- A host access with the host's tag. -/
  | host (tag : Nat)
  /-- Nobody: the answer is dropped. -/
  | nobody
  deriving DecidableEq, Repr

/-- A request to a home slice. All its lane accesses lie in the 128-byte line of `va` (a row request: in one block). -/
structure HomeReq where
  who  : Requester
  core : Nat
  ctx  : Nat
  va   : Nat
  op   : HomeOp
  accs : List LaneAcc
  deriving DecidableEq, Repr

/-- A failed access: cause 0x0B or 0x0D (or 0x08 with kind as its SUB), site and kind (R469), address. -/
structure BadAccess where
  cause : Nat
  site  : Nat
  kind  : Nat
  va    : Nat
  deriving DecidableEq, Repr, Inhabited

/-- What a controller returns for a line (R523): its data and the leaf's permissions, class policy and insertion age. -/
structure FillData where
  data   : Line
  rd     : Bool
  wr     : Bool
  ex     : Bool
  policy : Nat
  age    : Nat
  pa     : Nat
  host   : Bool
  poison : Nat
  /-- Writes numbered below this one are in the data (R140). -/
  stamp  : Nat := 0
  /-- Ways in which the line may be allocated (R132). -/
  ways   : Nat := 65535
  deriving DecidableEq, Repr, Inhabited

/-- The answer of a translation (R125). -/
inductive FillResult where
  | filled (d : FillData)
  | bad (b : BadAccess)
  deriving DecidableEq, Repr

/-- A trap to deliver: TCAUSE fields, detail words and restart set (R434, R438). -/
structure TrapRec where
  cause : Nat
  sub   : Nat
  prec  : Bool
  part  : Bool
  info0 : Nat
  info1 : Nat
  lanes : LaneMask
  deriving DecidableEq, Repr

/-- Donated work (R57): control blocks as grid, crew number and the tasks of a gathered team; or a task group as spawning
grid, entry, time of its first task, and tasks. -/
structure Donation where
  crews : List (Nat × Nat × List (List Word))
  group : Option (Nat × Word × Nat × List (List Word))
  deriving DecidableEq, Repr

/-- A reply of home to a waiting team (R359, R360, R364). -/
inductive WaitReply where
  | lockGranted
  | unlocked
  | tbReleased
  | wregValue (v : Nat)
  deriving DecidableEq, Repr

/-- An inbound request from a peer chip (R250, R267): a write, a reduction or an arrival. -/
structure InboundReq where
  peer  : Nat
  tag   : Nat
  group : Nat
  reduce : Bool
  typ   : Nat
  dst   : Nat
  tb    : Nat
  bytes : List Nat
  arrive : Nat
  deriving DecidableEq, Repr

/-- Where a host request goes: an offset into the range of an HDM decoder (R256), or into BAR0, where the management
registers are (R262). -/
inductive HostTarget where
  | memory (decoder off : Nat)
  | bar0 (off : Nat)
  deriving DecidableEq, Repr

/-- A host request on the CXL link (R256, R258, R262): its target, bytes to write, or a length to read. -/
structure HostReq where
  tag    : Nat
  target : HostTarget
  write  : Option (List Nat)
  len    : Nat
  deriving DecidableEq, Repr

/-- One boot image as its verifier finds it (R268): its bytes, the LMS public key that verifies it, its signature, and
whether it cannot be read or is malformed. -/
structure BootStage where
  image : List Byte
  key   : List Byte
  sig   : List Byte
  bad   : Bool
  deriving DecidableEq, Repr


inductive Instr where
  /-- SETMODE (R308): Writes MODE from the immediate under R73. -/
  | setmode (imm : BitVec 16)
  /-- BR (R296): Uniform branch to a J24 target when the guard holds in an active lane. -/
  | br (off : BitVec 24)
  /-- BRI (R296): Branches to the PC held in a scalar register. -/
  | bri (a : Reg)
  /-- CALL (R296): Writes the return PC to s61 and branches to a J24 target. -/
  | call (off : BitVec 24)
  /-- CALLI (R296): Writes the return PC to s61 and branches to a scalar target. -/
  | calli (a : Reg)
  /-- SPLIT (R298): Pushes a SPLIT entry and narrows the active mask by a predicate. -/
  | split (p : Fin 8)
  /-- LBRK (R298): Removes lanes whose predicate holds from the mask and from SPLIT entries above the innermost LOOP. -/
  | lbrk (p : Fin 8)
  /-- LEND (R298): Branches back while lanes remain active, otherwise pops the LOOP entry. -/
  | lend (off : BitVec 24)
  /-- CONT (R304): Declares a continuation PC for the next yield. -/
  | cont (off : BitVec 24)
  /-- ICINV (R306): Invalidates the core's instruction-cache lines over a code range after earlier releases complete. -/
  | icinv (d : Reg) (a : Reg)
  /-- TRAP (R309): Raises the precise software trap with the immediate as its code. -/
  | trap (imm : BitVec 16)
  /-- SLEEP (R305): Makes the team not ready for a count of clk. -/
  | sleep (a : Reg)
  /-- MOV (R311): Copies a register. -/
  | mov (d : Reg) (a : Reg)
  /-- MOVI (R311): Writes a sign-extended 16-bit immediate. -/
  | movi (d : Reg) (imm : BitVec 16)
  /-- MOVHI (R311): Writes the immediate to bits 31:16 keeping the low half. -/
  | movhi (d : Reg) (imm : BitVec 16)
  /-- ADD (R312): Integer add per element under ETYPE and SAT. -/
  | add (d : Reg) (a : Reg) (b : Reg)
  /-- ADDI (R312): Adds a sign-extended immediate to the destination register. -/
  | addi (d : Reg) (imm : BitVec 16)
  /-- SUB (R312): Integer subtract per element. -/
  | sub (d : Reg) (a : Reg) (b : Reg)
  /-- MUL (R312): Integer multiply per element. -/
  | mul (d : Reg) (a : Reg) (b : Reg)
  /-- MULHI (R313): High 32 bits of a signed 32-bit product. -/
  | mulhi (d : Reg) (a : Reg) (b : Reg)
  /-- MULHU (R313): High 32 bits of an unsigned 32-bit product. -/
  | mulhu (d : Reg) (a : Reg) (b : Reg)
  /-- MAD (R312): Integer multiply-add into the destination with one narrowing. -/
  | mad (d : Reg) (a : Reg) (b : Reg)
  /-- MIN (R314): Signed minimum per element. -/
  | min (d : Reg) (a : Reg) (b : Reg)
  /-- MAX (R314): Signed maximum per element. -/
  | max (d : Reg) (a : Reg) (b : Reg)
  /-- MINU (R314): Unsigned minimum per element. -/
  | minu (d : Reg) (a : Reg) (b : Reg)
  /-- MAXU (R314): Unsigned maximum per element. -/
  | maxu (d : Reg) (a : Reg) (b : Reg)
  /-- ABS (R314): Wrapping absolute value per element. -/
  | abs (d : Reg) (a : Reg)
  /-- NEG (R314): Wrapping negation per element. -/
  | neg (d : Reg) (a : Reg)
  /-- AND (R315): Bitwise AND. -/
  | and (d : Reg) (a : Reg) (b : Reg)
  /-- OR (R315): Bitwise OR. -/
  | or (d : Reg) (a : Reg) (b : Reg)
  /-- XOR (R315): Bitwise XOR. -/
  | xor (d : Reg) (a : Reg) (b : Reg)
  /-- ANDN (R315): AND with the complement of b. -/
  | andn (d : Reg) (a : Reg) (b : Reg)
  /-- NOT (R315): Bitwise complement. -/
  | not (d : Reg) (a : Reg)
  /-- SHL (R316): Logical shift left. -/
  | shl (d : Reg) (a : Reg) (b : Reg)
  /-- SHR (R316): Logical shift right. -/
  | shr (d : Reg) (a : Reg) (b : Reg)
  /-- SAR (R316): Arithmetic shift right. -/
  | sar (d : Reg) (a : Reg) (b : Reg)
  /-- ROL (R316): Rotate left. -/
  | rol (d : Reg) (a : Reg) (b : Reg)
  /-- POPC (R315): Counts 1 bits. -/
  | popc (d : Reg) (a : Reg)
  /-- CLZ (R315): Counts leading zero bits. -/
  | clz (d : Reg) (a : Reg)
  /-- BREV (R315): Reverses bit order. -/
  | brev (d : Reg) (a : Reg)
  /-- BFX (R317): Extracts a bit field. -/
  | bfx (d : Reg) (a : Reg) (b : Reg)
  /-- BFI (R317): Inserts a bit field into the destination. -/
  | bfi (d : Reg) (a : Reg) (b : Reg)
  /-- ADD64 (R318): 64-bit add on register pairs. -/
  | add64 (d : Reg) (a : Reg) (b : Reg)
  /-- SUB64 (R318): 64-bit subtract on register pairs. -/
  | sub64 (d : Reg) (a : Reg) (b : Reg)
  /-- MAD64 (R318): 64-bit multiply-add into the destination pair. -/
  | mad64 (d : Reg) (a : Reg) (b : Reg)
  /-- LEA (R318): Adds a sign-extended 32-bit offset to a 64-bit pair. -/
  | lea (d : Reg) (a : Reg) (b : Reg)
  /-- CMP (R319): Signed compare into a predicate with a combine mode. -/
  | cmp (cond : Fin 8) (comb : Fin 4) (pd : Fin 8) (a : Reg) (b : Reg)
  /-- CMPU (R319): Unsigned compare into a predicate with a combine mode. -/
  | cmpu (cond : Fin 8) (comb : Fin 4) (pd : Fin 8) (a : Reg) (b : Reg)
  /-- SEL (R320): Selects a or b by the guard. -/
  | sel (d : Reg) (a : Reg) (b : Reg)
  /-- PAND (R321): Predicate AND. -/
  | pand (d : Fin 8) (a : Fin 8) (b : Fin 8)
  /-- POR (R321): Predicate OR. -/
  | por (d : Fin 8) (a : Fin 8) (b : Fin 8)
  /-- PXOR (R321): Predicate XOR. -/
  | pxor (d : Fin 8) (a : Fin 8) (b : Fin 8)
  /-- PNOT (R321): Predicate NOT. -/
  | pnot (d : Fin 8) (a : Fin 8)
  /-- PTOV (R321): Writes 1 or 0 per lane from a predicate into a vector register. -/
  | ptov (d : Reg) (p : Fin 8)
  /-- VTOP (R321): Sets a predicate where a register is non-zero. -/
  | vtop (p : Fin 8) (a : Reg)
  /-- FADD (R323): Float add per element rounded under RND. -/
  | fadd (d : Reg) (a : Reg) (b : Reg)
  /-- FSUB (R323): Float subtract per element. -/
  | fsub (d : Reg) (a : Reg) (b : Reg)
  /-- FMUL (R323): Float multiply per element. -/
  | fmul (d : Reg) (a : Reg) (b : Reg)
  /-- FFMA (R323): Fused multiply-add into the destination with one rounding. -/
  | ffma (d : Reg) (a : Reg) (b : Reg)
  /-- FMIN (R324): Float minimum under R99. -/
  | fmin (d : Reg) (a : Reg) (b : Reg)
  /-- FMAX (R324): Float maximum under R99. -/
  | fmax (d : Reg) (a : Reg) (b : Reg)
  /-- FABS (R324): Clears the sign bit of each element. -/
  | fabs (d : Reg) (a : Reg)
  /-- FNEG (R324): Inverts the sign bit of each element. -/
  | fneg (d : Reg) (a : Reg)
  /-- FCMP (R325): Float compare into a predicate with NaN-aware conditions. -/
  | fcmp (cond : Fin 8) (comb : Fin 4) (pd : Fin 8) (a : Reg) (b : Reg)
  /-- FRCP (R326): Correctly rounded reciprocal. -/
  | frcp (d : Reg) (a : Reg)
  /-- FRSQ (R326): Correctly rounded reciprocal square root. -/
  | frsq (d : Reg) (a : Reg)
  /-- FSQRT (R326): Correctly rounded square root. -/
  | fsqrt (d : Reg) (a : Reg)
  /-- FEXP2 (R326): Correctly rounded base-2 exponential. -/
  | fexp2 (d : Reg) (a : Reg)
  /-- FLOG2 (R326): Correctly rounded base-2 logarithm. -/
  | flog2 (d : Reg) (a : Reg)
  /-- FTANH (R326): Correctly rounded hyperbolic tangent. -/
  | ftanh (d : Reg) (a : Reg)
  /-- FRND (R327): Rounds each element to an integral value under RND. -/
  | frnd (d : Reg) (a : Reg)
  /-- CVT (R329): Converts between the formats named in SUB. -/
  | cvt (d : Reg) (a : Reg) (tgt : Fin 16) (src : Fin 16)
  /-- PACK (R330): Narrows two values into one packed register. -/
  | pack (d : Reg) (a : Reg) (b : Reg)
  /-- UNPACKL (R330): Widens element 0 of a packed register. -/
  | unpackl (d : Reg) (a : Reg)
  /-- UNPACKH (R330): Widens element 1 of a packed register. -/
  | unpackh (d : Reg) (a : Reg)
  /-- FCLASS (R331): Writes a class mask per element. -/
  | fclass (d : Reg) (a : Reg)
  /-- SHFL (R333): Reads a from the lane that b names. -/
  | shfl (d : Reg) (a : Reg) (b : Reg)
  /-- SHFLUP (R333): Reads a from lane l minus b. -/
  | shflup (d : Reg) (a : Reg) (b : Reg)
  /-- SHFLDN (R333): Reads a from lane l plus b. -/
  | shfldn (d : Reg) (a : Reg) (b : Reg)
  /-- SHFLX (R333): Reads a from lane l XOR b. -/
  | shflx (d : Reg) (a : Reg) (b : Reg)
  /-- BCAST (R333): Broadcasts one lane's value to every active lane. -/
  | bcast (d : Reg) (a : Reg) (b : Reg)
  /-- RDFL (R334): Reads the lowest active lane's value. -/
  | rdfl (d : Reg) (a : Reg)
  /-- RDLANE (R335): Reads one lane by number into a scalar. -/
  | rdlane (d : Reg) (a : Reg) (b : Reg)
  /-- WRLANE (R335): Writes a scalar into one active lane by number. -/
  | wrlane (d : Reg) (a : Reg) (b : Reg)
  /-- VOTE (R336): ANY, ALL or BALLOT over a predicate in the active lanes. -/
  | vote (d : Reg) (p : Fin 8) (pass : Fin 32) (op : Fin 4)
  /-- RED (R337): Reduces the active lanes in the tree order of R117. -/
  | red (d : Reg) (a : Reg) (op : Fin 16)
  /-- SCAN (R338): Inclusive or exclusive prefix over the active lanes. -/
  | scan (d : Reg) (a : Reg) (excl : Bool) (op : Fin 16)
  /-- MOVSR (R339): Reads a special register, latching CLOCKH on a CLOCK read. -/
  | movsr (d : Reg) (sr : BitVec 8)
  /-- MOVRS (R339): Writes a RW special register from a scalar. -/
  | movrs (sr : BitVec 8) (a : Reg)
  /-- LD8 (R344): Loads a zero-extended byte per lane. -/
  | ld8 (d : Reg) (a : Reg) (b : Reg)
  /-- LD8S (R344): Loads a sign-extended byte per lane. -/
  | ld8s (d : Reg) (a : Reg) (b : Reg)
  /-- LD16 (R344): Loads a zero-extended halfword per lane. -/
  | ld16 (d : Reg) (a : Reg) (b : Reg)
  /-- LD16S (R344): Loads a sign-extended halfword per lane. -/
  | ld16s (d : Reg) (a : Reg) (b : Reg)
  /-- LD32 (R344): Loads a word per lane. -/
  | ld32 (d : Reg) (a : Reg) (b : Reg)
  /-- LD64 (R344): Loads 8 bytes into a pair per lane. -/
  | ld64 (d : Reg) (a : Reg) (b : Reg)
  /-- LD128 (R344): Loads 16 bytes into a quadruple per lane as one access. -/
  | ld128 (d : Reg) (a : Reg) (b : Reg)
  /-- ST4 (R345): Stores one nibble per lane as a masked read-modify-write at home. -/
  | st4 (d : Reg) (a : Reg) (b : Reg)
  /-- ST8 (R344): Stores a byte per lane. -/
  | st8 (d : Reg) (a : Reg) (b : Reg)
  /-- ST16 (R344): Stores a halfword per lane. -/
  | st16 (d : Reg) (a : Reg) (b : Reg)
  /-- ST32 (R344): Stores a word per lane. -/
  | st32 (d : Reg) (a : Reg) (b : Reg)
  /-- ST64 (R344): Stores a pair per lane. -/
  | st64 (d : Reg) (a : Reg) (b : Reg)
  /-- ST128 (R344): Stores a quadruple per lane as one access. -/
  | st128 (d : Reg) (a : Reg) (b : Reg)
  /-- LDL32 (R347): Loads a word from local memory. -/
  | ldl32 (d : Reg) (a : Reg) (b : Reg)
  /-- LDL128 (R347): Loads 16 bytes from local memory. -/
  | ldl128 (d : Reg) (a : Reg) (b : Reg)
  /-- STL32 (R347): Stores a word to local memory. -/
  | stl32 (d : Reg) (a : Reg) (b : Reg)
  /-- STL128 (R347): Stores 16 bytes to local memory. -/
  | stl128 (d : Reg) (a : Reg) (b : Reg)
  /-- PREFETCH (R349): Requests lines into L2, or L2 and L1. -/
  | prefetch (lvl : Bool) (a : Reg) (b : Reg)
  /-- DISCARD (R350): Discards a 32 to 128 byte range per lane under R182. -/
  | discard (d : Reg) (a : Reg) (b : Reg)
  /-- SINK (R351): Issues the next 1 to 16 words as a sink group. -/
  | sink (h : Bool) (flagA : Bool) (cntm1 : Fin 16)
  /-- ROWLD (R354): Reads whole rows per row group. -/
  | rowld (d : Reg) (a : Reg) (b : Reg)
  /-- ROWST (R354): Writes whole rows per row group. -/
  | rowst (d : Reg) (a : Reg) (b : Reg)
  /-- ROWADD (R354): Adds lane data into whole rows at home. -/
  | rowadd (d : Reg) (a : Reg) (b : Reg)
  /-- AADD (R356): Atomic add returning the old value. -/
  | aadd (d : Reg) (a : Reg) (b : Reg)
  /-- AMIN (R356): Atomic signed minimum. -/
  | amin (d : Reg) (a : Reg) (b : Reg)
  /-- AMAX (R356): Atomic signed maximum. -/
  | amax (d : Reg) (a : Reg) (b : Reg)
  /-- AMINU (R356): Atomic unsigned minimum. -/
  | aminu (d : Reg) (a : Reg) (b : Reg)
  /-- AMAXU (R356): Atomic unsigned maximum. -/
  | amaxu (d : Reg) (a : Reg) (b : Reg)
  /-- AAND (R356): Atomic AND. -/
  | aand (d : Reg) (a : Reg) (b : Reg)
  /-- AOR (R356): Atomic OR. -/
  | aor (d : Reg) (a : Reg) (b : Reg)
  /-- AXOR (R356): Atomic XOR. -/
  | axor (d : Reg) (a : Reg) (b : Reg)
  /-- AXCH (R356): Atomic exchange. -/
  | axch (d : Reg) (a : Reg) (b : Reg)
  /-- ACAS (R356): Atomic compare-and-swap, lanes one by one. -/
  | acas (d : Reg) (a : Reg) (b : Reg)
  /-- AFADD (R120): Atomic float add with pre-summed aggregation. -/
  | afadd (d : Reg) (a : Reg) (b : Reg)
  /-- LOCK (R359): Takes a lock word or waits registered in the WFT. -/
  | lock (a : Reg)
  /-- UNLOCK (R359): Releases and hands a lock to the highest-priority waiter. -/
  | unlock (a : Reg)
  /-- WREG (R360): Waits until a word differs from a value. -/
  | wreg (d : Reg) (a : Reg) (b : Reg)
  /-- WHOLD (R361): Records a WFT holding on an address. -/
  | whold (a : Reg)
  /-- WDROP (R361): Removes a WFT holding on an address. -/
  | wdrop (a : Reg)
  /-- BAR (R363): Arrives and waits at a crew or cluster barrier as one PHASE. -/
  | bar (lvl : Bool)
  /-- BARARR (R363): Arrives at a barrier and returns the phase token. -/
  | bararr (d : Reg) (lvl : Bool)
  /-- BARWAIT (R363): Waits for a barrier phase to complete. -/
  | barwait (a : Reg) (lvl : Bool)
  /-- TBINIT (R364): Sends init to a transaction barrier. -/
  | tbinit (a : Reg) (b : Reg)
  /-- TBEXP (R364): Sends expect to a transaction barrier. -/
  | tbexp (a : Reg) (b : Reg)
  /-- TBARR (R364): Releases and sends arrive to a transaction barrier. -/
  | tbarr (a : Reg) (b : Reg)
  /-- TBWAIT (R364): Waits for a transaction barrier phase. -/
  | tbwait (a : Reg) (b : Reg)
  /-- TBTEST (R364): Reads word 0 of a transaction barrier. -/
  | tbtest (d : Reg) (a : Reg)
  /-- PIN (R366): Writes a name into a pin slot. -/
  | pin (n : Fin 4) (a : Reg)
  /-- UNPIN (R366): Clears a pin slot after earlier accesses complete. -/
  | unpin (n : Fin 4)
  /-- RECLAIM (R367): Releases and starts a Sage search to free or defer a name. -/
  | reclaim (d : Reg) (a : Reg) (b : Reg)
  /-- PINQ (R367): Searches for a pin without reclaiming. -/
  | pinq (d : Reg) (a : Reg)
  /-- TOPUP (R368): Adds units to a grid's pools. -/
  | topup (a : Reg) (b : Reg)
  /-- BGRANT (R368): Moves pool units to a child grid. -/
  | bgrant (d : Reg) (a : Reg) (b : Reg)
  /-- SPAWN (R369): Hands one task per active lane to the cluster task pool. -/
  | spawn (a : Reg) (b : Reg)
  /-- LAUNCH (R370): Hands a child launch record to the launch unit. -/
  | launch (d : Reg) (a : Reg) (b : Reg)
  /-- GWAIT (R371): Waits for a grid or graph instance to retire or complete. -/
  | gwait (a : Reg)
  /-- GIVEBACK (R372): Shrinks the register window and returns blocks to the core pool. -/
  | giveback (n : Fin 32)
  /-- CLAIM (R372): Waits for register blocks and grows the window. -/
  | claim (n : Fin 32)
  /-- CPY (R376): Hands a linear COPY packet to the Drover engine. -/
  | cpy (d : Reg) (a : Reg) (b : Reg)
  /-- CPYS (R376): Hands a strided COPY packet to the Drover engine. -/
  | cpys (d : Reg) (a : Reg) (b : Reg)
  /-- CPYT (R376): Hands a tile COPY packet to the Drover engine. -/
  | cpyt (d : Reg) (a : Reg) (b : Reg)
  /-- CPYR (R376): Hands a REDUCE-TILE packet to the Drover engine. -/
  | cpyr (d : Reg) (a : Reg) (b : Reg)
  /-- RGATH (R376): Hands a GATHER-ROWS packet to the Drover engine. -/
  | rgath (d : Reg) (a : Reg) (b : Reg)
  /-- QSUB (R377): Reads a 64-byte packet from memory and hands it to the engine. -/
  | qsub (a : Reg)
  /-- COLL (R376): Hands a COLLECTIVE-STEP packet to the Drover engine. -/
  | coll (d : Reg) (a : Reg) (b : Reg)
  /-- BSEAL (R379): Seals the open batch and returns its number. -/
  | bseal (d : Reg)
  /-- BWAIT (R249): Waits until at most n batches are unfinished. -/
  | bwait (n : Fin 32)
  /-- BWAITY (R249): Continues if at most n batches are unfinished, otherwise yields to a label. -/
  | bwaity (n : Fin 32) (a : Reg)
  /-- NMCMD (R378): Hands one command to a channel engine. -/
  | nmcmd (a : Reg) (b : Reg)
  /-- NMBLK (R376): Hands a NEARMEM-BLOCK packet to the Drover engine. -/
  | nmblk (a : Reg) (b : Reg)
  /-- GANG (R380): Arrives at a gang-forming or dissolving rendezvous. -/
  | gang (a : Reg)
  /-- ACCALLOC (R384): Allocates and zeros a run of accumulator rows. -/
  | accalloc (d : Reg) (a : Reg)
  /-- ACCWIN (R384): Sets the accumulator window. -/
  | accwin (a : Reg) (b : Reg)
  /-- MMA (R392): Multiplies tiles into a chain partial in accumulator rows. -/
  | mma (d : Reg) (a : Reg) (b : Reg)
  /-- MDRAIN (R396): Scales the last closed chain and adds it to destination rows. -/
  | mdrain (d : Reg) (a : Reg)
  /-- ACCRD (R385): Reads accumulator elements. -/
  | accrd (d : Reg) (a : Reg) (b : Reg)
  /-- ACCWR (R385): Writes accumulator elements. -/
  | accwr (d : Reg) (a : Reg) (b : Reg)
  /-- ACCZERO (R385): Zeros accumulator rows. -/
  | acczero (a : Reg) (b : Reg)
  /-- SCLD (R386): Loads a scale row into the accumulator store. -/
  | scld (d : Reg) (a : Reg) (b : Reg)
  /-- CTR (R398): Reads an event counter. -/
  | ctr (d : Reg) (a : Reg)
  /-- EVSEL (R398): Sets an event counter's source. -/
  | evsel (a : Reg) (b : Reg)
  /-- SYSCALL (R399): Performs PHASE and raises the system-call trap. -/
  | syscall (a : Reg)
  /-- PRIVW (R400): Reads and optionally writes a management register or RCT entry. -/
  | privw (d : Reg) (a : Reg) (b : Reg)
  /-- ACCEPT_LAUNCH_PACKET (R206): The launch unit takes the head packet of the highest-priority ready queue and accepts or refuses it. -/
  | acceptLaunchPacket (part : Nat)
  /-- ACCEPT_LAUNCH_RECORD (R207): The launch unit accepts a record handed over by LAUNCH at its next opportunity. -/
  | acceptLaunchRecord (part : Nat)
  /-- SINGLE_INSTANCE_ACCEPT (R211): A waiting SINGLE graph acceptance is accepted when INSTANCES returns to 0. -/
  | singleInstanceAccept (part : Nat) (queue : Nat)
  /-- NODE_START (R210): A graph node starts when all its predecessors have triggered or retired. -/
  | nodeStart (inst : Nat) (node : Nat)
  /-- INSTANCE_COMPLETE (R210): A graph instance completes when every node has retired. -/
  | instanceComplete (inst : Nat)
  /-- GRID_RETIRE (R52): A grid retires when its crews and descendants are done, releasing, writing DONEVAL and waking waiters. -/
  | gridRetire (grid : Nat)
  /-- CREW_PLACE (R213): A cluster places its head crew control block on a core with room. -/
  | crewPlace (cluster : Nat)
  /-- BUDGET_YIELD (R61): A team whose budget reached zero yields at its next boundary and is topped up or saved. -/
  | budgetYield (team : Nat)
  /-- TEAM_SAVE (R226): A struck team chosen for eviction is saved to the spill region. -/
  | teamSave (team : Nat)
  /-- CREW_RESTORE (R229): An evicted crew returns once a core can hold it. -/
  | crewRestore (crew : Nat) (core : Nat)
  /-- SELECTION_OVERDUE (R217): A team ready for 160 rounds without issuing becomes overdue. -/
  | selectionOverdue (team : Nat)
  /-- SLEEP_END (R305): A sleeping team becomes ready when its count of clk has passed. -/
  | sleepEnd (team : Nat)
  /-- CLAIM_GRANT (R88): The core pool grants a stalled claim whole. -/
  | claimGrant (core : Nat)
  /-- BWAITY_REACTIVATE (R249): A team parked in BWAITY is re-activated at its label once the condition holds. -/
  | bwaityReactivate (team : Nat)
  /-- GATHER_WINDOW_EXPIRE (R55): A gathering group is launched as a team 2,048 clk after its first task. -/
  | gatherWindowExpire (cluster : Nat) (grid : Nat) (entry : Nat)
  /-- STEAL_REQUEST (R57): A cluster with no placeable block sends a steal request to a victim. -/
  | stealRequest (cluster : Nat)
  /-- STEAL_REQUEST_RECEIVE (R57): A victim ships crews or tasks, or an empty reply. -/
  | stealRequestReceive (thief : Nat) (victim : Nat)
  /-- STEAL_REPLY (R58): The thief receives donated crews or tasks, or advances its round-robin. -/
  | stealReply (thief : Nat) (work : Donation)
  /-- SAGE_SEARCH_DONE (R233): A Sage search finishes and frees the name or records it deferred. -/
  | sageSearchDone (search : Nat)
  /-- FREE_QUEUE_RETRY (R234): A waiting free-queue append retries after a write to its RIDX line. -/
  | freeQueueRetry (append : Nat)
  /-- DEFERRED_RESCAN (R233): A rescan searches every deferred entry of a bucket and frees those no longer pinned. -/
  | deferredRescan (bucket : Nat)
  /-- PIN_SAVE_RETRY (R505): A save held for a full parked-pin bucket continues when a place frees. -/
  | pinSaveRetry (team : Nat)
  /-- LOAD_REPLY (R344): Data for a load, fill or SCLD returns and is written to its destination. -/
  | loadReply (q : HomeReq) (vals : List (Nat × Nat)) (fill : Option FillData) (unsettled : List Nat) (bad : Option BadAccess)
  /-- HOME_REQUEST (R523): A read request arrives at its home slice and is served, filled or forwarded. -/
  | homeRequest (q : HomeReq)
  /-- HOME_WRITE (R138): A write arrives at home, is applied and sent to sharers as update or invalidation. -/
  | homeWrite (q : HomeReq)
  /-- HOME_ATOMIC (R172): An aggregated atomic request is performed at home or at the bridge. -/
  | homeAtomic (q : HomeReq)
  /-- ROW_AT_HOME (R167): The home performs a row operation as one indivisible read or write. -/
  | rowAtHome (q : HomeReq)
  /-- HOME_FILL_COMPLETE (R471): A line fill returns to its home slice, or faults and fails every waiting request. -/
  | homeFillComplete (q : HomeReq) (r : FillResult)
  /-- SHARER_UPDATE (R139): A sharer L1 applies an update and acknowledges it. -/
  | sharerUpdate (core : Nat) (wid : Nat) (ctx : Nat) (cells : List (Nat × Nat))
  /-- SHARER_INVALIDATE (R138): A sharer L1 drops a line on invalidation and acknowledges. -/
  | sharerInvalidate (core : Nat) (wid : Nat) (ctx : Nat) (va : Nat)
  /-- WRITER_ACK (R138): The writer receives the acknowledgement of its write. -/
  | writerAck (q : HomeReq) (vals : List (Nat × Nat)) (bad : Option BadAccess)
  /-- SETTLE_NOTICE (R160): A sharer receives a settle notice for a written value. -/
  | settleNotice (core : Nat) (wid : Nat)
  /-- TRANSLATE_REQUEST (R125): The translating controller walks the page table and forwards or faults the request. -/
  | translateRequest (q : HomeReq)
  /-- SINK_PACKET_AT_HOME (R144): A sink packet reaches its home slice, which runs it or sends it on. -/
  | sinkPacketAtHome (q : HomeReq)
  /-- SINK_PACKET_AT_SITE (R146): A Serai unit at a controller or bridge runs a sunk group. -/
  | sinkPacketAtSite (q : HomeReq)
  /-- SINK_RESULT (R148): A sink result packet returns and writes destinations and SINKSITE. -/
  | sinkResult (q : HomeReq) (site : Nat) (lanes : List SinkEnv) (bad : Option BadAccess)
  /-- PART_TRAP (R470): An instruction whose lanes faulted raises a PART trap once its last reply returns. -/
  | partTrap (team : Nat) (t : TrapRec) (pc : Nat)
  /-- HALT_ARRIVE (R437): The crew halt reaches a sibling, which stops after its skid. -/
  | haltArrive (team : Nat) (t : TrapRec) (skid : Nat)
  /-- DROVER_ACCEPT (R236): A Drover engine accepts one packet from its instruction port or a queue and registers its ranges. -/
  | droverAccept (engine : Nat)
  /-- COPY (R240): A COPY packet moves bytes in linear, strided or tile geometry. -/
  | copy (pid : Nat)
  /-- REDUCE_TILE (R242): A REDUCE-TILE packet combines source elements into destination elements at home. -/
  | reduceTile (pid : Nat)
  /-- GATHER_ROWS (R243): A GATHER-ROWS packet copies indexed rows. -/
  | gatherRows (pid : Nat)
  /-- FILL (R244): A FILL packet writes a repeating 8-byte pattern. -/
  | fill (pid : Nat)
  /-- DISCARD_PACKET (R244): A DISCARD packet discards a range under R182. -/
  | discardPacket (pid : Nat)
  /-- COLLECTIVE_STEP (R250): A COLLECTIVE-STEP packet sends or send-reduces a piece to a peer rank. -/
  | collectiveStep (pid : Nat)
  /-- NEARMEM_BLOCK (R252): A NEARMEM-BLOCK packet submits a command block to a channel engine. -/
  | nearmemBlock (pid : Nat)
  /-- PREFETCH_L2 (R244): A PREFETCH-L2 packet fills lines into their home slices. -/
  | prefetchL2 (pid : Nat)
  /-- TB_ARRIVE (R244): A TB-ARRIVE packet makes one arrival on a barrier. -/
  | tbArrive (pid : Nat)
  /-- PACKET_COMPLETE (R237): A packet completes once its writes are acknowledged and its arrival made. -/
  | packetComplete (pid : Nat)
  /-- TB_INIT_OP (R247): The home performs init on a transaction barrier. -/
  | tbInitOp (q : HomeReq)
  /-- TB_EXPECT_OP (R247): The home performs expect, or refuses it at 2^48. -/
  | tbExpectOp (q : HomeReq)
  /-- TB_ARRIVE_OP (R247): The home performs an arrival, completing or overrunning a phase. -/
  | tbArriveOp (q : HomeReq)
  /-- TB_WAIT_OP (R247): The home registers a waiter or returns at once. -/
  | tbWaitOp (q : HomeReq)
  /-- TB_TEST_OP (R247): The home returns word 0 of a barrier. -/
  | tbTestOp (q : HomeReq)
  /-- TB_ABORT_OP (R484): The home aborts a barrier phase and releases its waiters. -/
  | tbAbortOp (q : HomeReq)
  /-- LOCK_AT_HOME (R359): The home grants a free lock or adds the team to its waiter set. -/
  | lockAtHome (q : HomeReq)
  /-- UNLOCK_AT_HOME (R359): The home frees the lock or hands it to the chosen waiter. -/
  | unlockAtHome (q : HomeReq)
  /-- MMA_FINISH (R393): An MMA finishes when its partial writes and B reads are done. -/
  | mmaFinish (core : Nat)
  /-- SUBMISSION_TAKE (R252): A channel engine takes a submission into a place and reads its command block. -/
  | submissionTake (engine : Nat)
  /-- NMCMD_ACCEPT (R180): A channel engine accepts an NMCMD and the controller starts holding requests to its rows. -/
  | nmcmdAccept (team : Nat)
  /-- NM_BIND (R253): Binds the engine to a parameter block. -/
  | nmBind (engine : Nat)
  /-- NM_RUN (R151): Runs the bound parameter block's pipeline over all steps. -/
  | nmRun (engine : Nat)
  /-- NM_SCADD (R152): Adds a scaled row into a bank accumulator. -/
  | nmScadd (engine : Nat)
  /-- NM_ACCZ (R152): Zeros a bank accumulator. -/
  | nmAccz (engine : Nat)
  /-- NM_ACCST (R152): Stores a bank accumulator to a row. -/
  | nmAccst (engine : Nat)
  /-- NM_FENCE (R253): Holds later commands until earlier writes of the block are acknowledged. -/
  | nmFence (engine : Nat)
  /-- NM_END (R253): Ends the command block. -/
  | nmEnd (engine : Nat)
  /-- ARBITRATION_WINDOW (R153): At a row boundary or exposed activation the engine goes on or suspends for waiting requests. -/
  | arbitrationWindow (engine : Nat)
  /-- ENGINE_RESUME (R153): A suspended channel engine resumes when no ordinary request waits. -/
  | engineResume (engine : Nat)
  /-- ACCUMULATOR_OP_DONE (R524): An MDRAIN, ACCRD, ACCWR, ACCZERO or ACCALLOC zeroing finishes on the matrix datapath, writes its results and lets the next operation start. -/
  | accumulatorOpDone (core : Nat)
  /-- SHARER_ACK (R139): A sharer's acknowledgement or eviction report reaches the home slice, which updates the pattern counter and directory and, once all have arrived, sends the writer acknowledgement and settle notices. -/
  | sharerAck (core : Nat) (wid : Nat) (ctx : Nat) (va : Nat) (used : Option Bool) (evict : Bool)
  /-- WAIT_RETURN (R359): A reply from home reaches a waiting team: a lock grant, an unlock completion, a TBWAIT release or a changed WREG value, and the team's WFT entries change in that clk. -/
  | waitReturn (team : Nat) (out : Nat) (r : WaitReply)
  /-- NOP (R308): Does nothing beyond its charge. -/
  | nop
  /-- RET (R296): Branches to the PC in s61. -/
  | ret
  /-- FLIP (R298): Switches the active mask to the other lanes of the top SPLIT entry. -/
  | flip
  /-- JOIN (R298): Pops the top SPLIT entry into the active mask. -/
  | join
  /-- LBEGIN (R298): Pushes a LOOP entry holding the active mask. -/
  | lbegin
  /-- EXIT (R301): Ends the team after its batches finish, with release, pin clearing and WFT removal. -/
  | exit
  /-- TRIGGER (R302): Marks the team triggered and acts as PUB at device scope. -/
  | trigger
  /-- YIELD (R303): Makes the team yield at once as if a budget had run out. -/
  | yield
  /-- IFENCE (R307): Holds fetch until earlier ICINVs complete and refetches later words. -/
  | ifence
  /-- RETT (R441): Returns from a handler, re-issues the restart set and releases the crew. -/
  | rett
  /-- PHASE (R357): Release and acquire with store-to-load order at MODE.SCOPE. -/
  | phase
  /-- PUB (R357): Release at MODE.SCOPE. -/
  | pub
  /-- ACQ (R357): Acquire at MODE.SCOPE with the settle wait. -/
  | acq
  /-- EFENCE (R357): Holds later asynchronous issues behind earlier accesses. -/
  | efence
  /-- ACCFREE (R384): Frees owned rows after earlier matrix operations finish. -/
  | accfree
  /-- HEQ_RETRY (R271): Buffered host event packets are retried after a write to RIDX or HEQ. -/
  | heqRetry
  /-- LINK_DOWN (R490): The CXL link goes down and outstanding host-bound requests fail. -/
  | linkDown
  /-- HOST_LINK_UP (R490): The CXL link trains and comes back up, so host-bound requests are no longer failed as made while the link is down. -/
  | hostLinkUp
  /-- HOST_ACCESS (R258): A host request through an HDM decoder is performed at its home slice or controller. -/
  | hostAccess (r : HostReq)
  /-- HOST_COMPLETION_TIMEOUT (R490): A host-bound request not completed within 10 ms fails with kind 0xA. -/
  | hostCompletionTimeout (id : Nat)
  /-- PEER_PORT_DOWN (R514): A peer port goes down and in-flight steps fail and abort their group. -/
  | peerPortDown (port : Nat)
  /-- CORRECTABLE_ERROR (R492): A correctable error is corrected, counted and written back. -/
  | correctableError (controller : Nat)
  /-- UNCORRECTABLE_ERROR (R493): An uncorrectable error in DRAM, L2 or a bank accumulator poisons its sector. -/
  | uncorrectableError (place : Nat) (key : Nat)
  /-- CORE_FENCE (R445): An uncorrectable core SRAM error fences the core and saves its teams. -/
  | coreFence (core : Nat) (poisoned : List Nat)
  /-- UNIT_SRAM_ERROR (R494): An uncorrectable error in another SRAM stops its unit and appends a 0x12 packet. -/
  | unitSramError (die : Nat) (kind : Nat) (unit : Nat)
  /-- THERMAL_SAMPLE (R36): Die temperatures are read and WARN or STOP actions taken. -/
  | thermalSample (temps : List Int)
  /-- THERMAL_TRIP (R36): A die above 120 °C trips the package power. -/
  | thermalTrip (die : Nat)
  /-- RESET (R268): Reset runs the verified boot chain and sets BOOTSTAT: the first-stage image, and those that verify each next. -/
  | reset (first : BootStage) (later : List BootStage)
  /-- TLBINV (R263): A write with GO invalidates a context's translations and sets DONE. -/
  | tlbinv (value : BitVec 64)
  /-- REMAP_READ (R265): REMAPIDX with GO and WR 0 reads a remap entry into the data registers. -/
  | remapRead (value : BitVec 64)
  /-- REMAP_WRITE (R265): REMAPIDX with GO and WR 1 writes a remap entry of one core. -/
  | remapWrite (value : BitVec 64)
  /-- REMAP_WRITE_ALL (R265): REMAPIDX with GO, WR and ALL writes the entry in every core. -/
  | remapWriteAll (value : BitVec 64)
  /-- ATTGO (R269): A write of ATTGO produces a signed attestation report. -/
  | attgo (value : BitVec 64)
  /-- PFRESP_RETRY (R477): Translates every joined request of the escalation again. -/
  | pfrespRetry (tag : Nat)
  /-- PFRESP_FAIL (R477): Treats each joined request as under PGFLT = 0. -/
  | pfrespFail (tag : Nat)
  /-- PFRESP_TERMINATE (R477): Terminates joined teams' crews and fails joined packets. -/
  | pfrespTerminate (tag : Nat)
  /-- DEADLK_REEXECUTE (R496): HARESP function 1 action 0 re-executes the parked wait. -/
  | deadlkReexecute (tag : Nat)
  /-- DEADLK_DELIVER (R496): HARESP function 1 action 1 delivers cause 0x0C. -/
  | deadlkDeliver (tag : Nat)
  /-- DEADLK_TERMINATE (R496): HARESP function 1 action 2 terminates the crew. -/
  | deadlkTerminate (tag : Nat)
  /-- DEADLK_ADMIT (R501): HARESP function 1 action 3 admits the wait and its edge. -/
  | deadlkAdmit (tag : Nat)
  /-- WFTOVF_ADMIT_UNTRACKED (R504): HARESP function 2 action 0 admits the wait untracked. -/
  | wftovfAdmitUntracked (tag : Nat)
  /-- WFTOVF_RETRY (R504): HARESP function 2 action 1 retries the WFT insertion. -/
  | wftovfRetry (tag : Nat)
  /-- WFTOVF_TERMINATE (R496): HARESP function 2 action 2 terminates the crew. -/
  | wftovfTerminate (tag : Nat)
  /-- PPT_RETRY (R506): HARESP function 3 action 0 retries the save into the overflow area. -/
  | pptRetry (tag : Nat)
  /-- PPT_TERMINATE (R496): HARESP function 3 action 2 terminates the crew. -/
  | pptTerminate (tag : Nat)
  /-- TOPUP_REFILL (R508): HARESP function 4 action 0 adds HAARG amounts to the pools. -/
  | topupRefill (tag : Nat)
  /-- TOPUP_LEAVE_PARKED (R496): HARESP function 4 action 1 leaves the teams parked. -/
  | topupLeaveParked (tag : Nat)
  /-- TOPUP_TERMINATE (R496): HARESP function 4 action 2 terminates every crew of the grid. -/
  | topupTerminate (tag : Nat)
  /-- FENCE_PLACE (R516): HARESP function 5 action 0 places clean crews again. -/
  | fencePlace (tag : Nat)
  /-- FENCE_TERMINATE (R496): HARESP function 5 action 2 terminates the clean crews. -/
  | fenceTerminate (tag : Nat)
  /-- COLLABT_SEND_ABORT (R514): HARESP function 6 action 0 sends ABORT for the group. -/
  | collabtSendAbort (tag : Nat)
  /-- COLLABT_SEND_NOTHING (R496): HARESP function 6 action 1 sends nothing. -/
  | collabtSendNothing (tag : Nat)
  /-- CTXKILL (R514): A write with GO kills a context's work, pins, locks and collectives and sets DONE. -/
  | ctxkill (value : BitVec 64)
  /-- ABTCLR (R515): A write removes a group from the abort filter. -/
  | abtclr (value : BitVec 64)
  /-- COUNTER_VALUE_WRITE (R263): A write sets a counter's count and may clear OVF. -/
  | counterValueWrite (off : Nat) (value : BitVec 64)
  /-- PARTMAP_WRITE (R32): A write reassigns clusters without resident work to partitions. -/
  | partmapWrite (index : Bool) (value : BitVec 64)
  /-- MANAGEMENT_WRITE (R262): A write to a management register with no row of its own takes effect in a later clk. -/
  | managementWrite (off : Nat) (value : BitVec 64)
  /-- PEER_PORT_UP (R251): A peer-fabric port comes up and becomes eligible as the lowest up port for routing steps and peer packets. -/
  | peerPortUp (port : Nat)
  /-- HOST_SNOOP (R142): The host snoops a host-memory half held by the bridge, which can leave the line half-held so accesses go to the bridge's Serai unit. -/
  | hostSnoop (half : Nat) (exclusive : Bool)
  /-- HOST_COMPLETION (R261): A completion or snoop response from the host returns to the bridge: read data, an AtomicOp result, a back-invalidate response, or an error or poison status. -/
  | hostCompletion (id : Nat) (status : Nat) (bytes : List Nat)
  /-- INBOUND_WRITE (R267): A peer's inbound write or barrier arrival from a FLAGS.PEER packet is checked against the inbound windows and performed or refused. -/
  | inboundWrite (r : InboundReq)
  /-- INBOUND_STEP (R250): A receiving chip performs an inbound collective step or refuses it. -/
  | inboundStep (r : InboundReq)
  /-- ARRIVAL_REPORT (R250): The sender receives a peer's arrival report and completes its step. -/
  | arrivalReport (pid : Nat)
  /-- REFUSAL_REPORT (R491): The sender receives a refusal report and fails its packet with SUB 3. -/
  | refusalReport (pid : Nat) (accepted : Nat)
  /-- ABORT_MESSAGE (R515): A chip receiving ABORT enters GROUP in its abort filter and stops the group's steps. -/
  | abortMessage (group : Nat)
  /-- STRIKE (R225): A strike forces both budgets of chosen teams to zero for pre-emption or a management stop. -/
  | strike (teams : List Nat)
  deriving DecidableEq, Repr

end Sys2Proof
end

