-- ==== Sys2Proof/Decode.lean ====
section
/-!
DEFINITION. Decoding and encoding of instruction words (11_encoding, R275 to R284). The decoder is total; it refuses
a word by name. It refuses exactly the words that the opcode map and the fixed fields exclude; the checks that need
register numbers, the window or MODE (R450 SUB 0x02 to 0x0A) are made when the instruction issues.
-/
namespace Sys2Proof

/-- Why a word is refused at decode; each raises cause 0x01 (R450). -/
inductive DecodeErr where
  /-- SUB 0x00: unassigned opcode (R284). -/
  | unassigned
  /-- SUB 0x01: a field that must be zero is not. -/
  | mustBeZero
  /-- SUB 0x02: a field value outside the values the instruction lists. -/
  | badValue
  deriving DecidableEq, Repr

/-- The SUB code of a decode refusal (R450). -/
def DecodeErr.sub : DecodeErr → Nat
  | .unassigned => 0
  | .mustBeZero => 1
  | .badValue => 2

/-- Row 0x0_ of the opcode map (R284). -/
def decodeRow0 (lo n D A B : Nat) : Except DecodeErr Instr :=
  match lo with
  | 0x0 => if D ≠ 0 ∨ A ≠ 0 ∨ B ≠ 0 then .error .mustBeZero else .ok .nop
  | 0x1 => if D ≠ 0 then .error .mustBeZero else .ok (.setmode (.ofNat 16 (n % 0x10000)))
  | 0x2 => .ok (.br (.ofNat 24 (n % 0x1000000)))
  | 0x3 => if D ≠ 0 ∨ B ≠ 0 then .error .mustBeZero else .ok (.bri (.ofCode A))
  | 0x4 => .ok (.call (.ofNat 24 (n % 0x1000000)))
  | 0x5 => if D ≠ 0 ∨ B ≠ 0 then .error .mustBeZero else .ok (.calli (.ofCode A))
  | 0x6 => if D ≠ 0 ∨ A ≠ 0 ∨ B ≠ 0 then .error .mustBeZero else .ok .ret
  | 0x7 => if D > 7 ∨ A ≠ 0 ∨ B ≠ 0 then .error .mustBeZero else .ok (.split (.ofNat 8 (D % 8)))
  | 0x8 => if D ≠ 0 ∨ A ≠ 0 ∨ B ≠ 0 then .error .mustBeZero else .ok .flip
  | 0x9 => if D ≠ 0 ∨ A ≠ 0 ∨ B ≠ 0 then .error .mustBeZero else .ok .join
  | 0xA => if D ≠ 0 ∨ A ≠ 0 ∨ B ≠ 0 then .error .mustBeZero else .ok .lbegin
  | 0xB => if D > 7 ∨ A ≠ 0 ∨ B ≠ 0 then .error .mustBeZero else .ok (.lbrk (.ofNat 8 (D % 8)))
  | 0xC => .ok (.lend (.ofNat 24 (n % 0x1000000)))
  | 0xD => if D ≠ 0 ∨ A ≠ 0 ∨ B ≠ 0 then .error .mustBeZero else .ok .exit
  | 0xE => if D ≠ 0 ∨ A ≠ 0 ∨ B ≠ 0 then .error .mustBeZero else .ok .trigger
  | 0xF => if D ≠ 0 ∨ A ≠ 0 ∨ B ≠ 0 then .error .mustBeZero else .ok .yield
  | _ => .error .unassigned

/-- Row 0x1_ of the opcode map (R284). -/
def decodeRow1 (lo n D A B : Nat) : Except DecodeErr Instr :=
  match lo with
  | 0x0 => .ok (.cont (.ofNat 24 (n % 0x1000000)))
  | 0x1 => if D ≠ 0 ∨ A ≠ 0 ∨ B ≠ 0 then .error .mustBeZero else .ok .ifence
  | 0x2 => if B ≠ 0 then .error .mustBeZero else .ok (.icinv (.ofCode D) (.ofCode A))
  | 0x3 => if D ≠ 0 then .error .mustBeZero else .ok (.trap (.ofNat 16 (n % 0x10000)))
  | 0x4 => if D ≠ 0 ∨ A ≠ 0 ∨ B ≠ 0 then .error .mustBeZero else .ok .rett
  | 0x5 => if D ≠ 0 ∨ B ≠ 0 then .error .mustBeZero else .ok (.sleep (.ofCode A))
  | _ => .error .unassigned

/-- Row 0x2_ of the opcode map (R284). -/
def decodeRow2 (lo n D A B : Nat) : Except DecodeErr Instr :=
  match lo with
  | 0x0 => if B ≠ 0 then .error .mustBeZero else .ok (.mov (.ofCode D) (.ofCode A))
  | 0x1 => .ok (.movi (.ofCode D) (.ofNat 16 (n % 0x10000)))
  | 0x2 => .ok (.movhi (.ofCode D) (.ofNat 16 (n % 0x10000)))
  | 0x3 => .ok (.add (.ofCode D) (.ofCode A) (.ofCode B))
  | 0x4 => .ok (.addi (.ofCode D) (.ofNat 16 (n % 0x10000)))
  | 0x5 => .ok (.sub (.ofCode D) (.ofCode A) (.ofCode B))
  | 0x6 => .ok (.mul (.ofCode D) (.ofCode A) (.ofCode B))
  | 0x7 => .ok (.mulhi (.ofCode D) (.ofCode A) (.ofCode B))
  | 0x8 => .ok (.mulhu (.ofCode D) (.ofCode A) (.ofCode B))
  | 0x9 => .ok (.mad (.ofCode D) (.ofCode A) (.ofCode B))
  | 0xA => .ok (.min (.ofCode D) (.ofCode A) (.ofCode B))
  | 0xB => .ok (.max (.ofCode D) (.ofCode A) (.ofCode B))
  | 0xC => .ok (.minu (.ofCode D) (.ofCode A) (.ofCode B))
  | 0xD => .ok (.maxu (.ofCode D) (.ofCode A) (.ofCode B))
  | 0xE => if B ≠ 0 then .error .mustBeZero else .ok (.abs (.ofCode D) (.ofCode A))
  | 0xF => if B ≠ 0 then .error .mustBeZero else .ok (.neg (.ofCode D) (.ofCode A))
  | _ => .error .unassigned

/-- Row 0x3_ of the opcode map (R284). -/
def decodeRow3 (lo _n D A B : Nat) : Except DecodeErr Instr :=
  match lo with
  | 0x0 => .ok (.and (.ofCode D) (.ofCode A) (.ofCode B))
  | 0x1 => .ok (.or (.ofCode D) (.ofCode A) (.ofCode B))
  | 0x2 => .ok (.xor (.ofCode D) (.ofCode A) (.ofCode B))
  | 0x3 => .ok (.andn (.ofCode D) (.ofCode A) (.ofCode B))
  | 0x4 => if B ≠ 0 then .error .mustBeZero else .ok (.not (.ofCode D) (.ofCode A))
  | 0x5 => .ok (.shl (.ofCode D) (.ofCode A) (.ofCode B))
  | 0x6 => .ok (.shr (.ofCode D) (.ofCode A) (.ofCode B))
  | 0x7 => .ok (.sar (.ofCode D) (.ofCode A) (.ofCode B))
  | 0x8 => .ok (.rol (.ofCode D) (.ofCode A) (.ofCode B))
  | 0x9 => if B ≠ 0 then .error .mustBeZero else .ok (.popc (.ofCode D) (.ofCode A))
  | 0xA => if B ≠ 0 then .error .mustBeZero else .ok (.clz (.ofCode D) (.ofCode A))
  | 0xB => if B ≠ 0 then .error .mustBeZero else .ok (.brev (.ofCode D) (.ofCode A))
  | 0xC => .ok (.bfx (.ofCode D) (.ofCode A) (.ofCode B))
  | 0xD => .ok (.bfi (.ofCode D) (.ofCode A) (.ofCode B))
  | 0xE => .ok (.add64 (.ofCode D) (.ofCode A) (.ofCode B))
  | 0xF => .ok (.sub64 (.ofCode D) (.ofCode A) (.ofCode B))
  | _ => .error .unassigned

/-- Row 0x4_ of the opcode map (R284). -/
def decodeRow4 (lo _n D A B : Nat) : Except DecodeErr Instr :=
  match lo with
  | 0x0 => .ok (.mad64 (.ofCode D) (.ofCode A) (.ofCode B))
  | 0x1 => .ok (.lea (.ofCode D) (.ofCode A) (.ofCode B))
  | 0x2 => .ok (.cmp (.ofNat 8 (D / 32 % 8)) (.ofNat 4 (D / 8 % 4)) (.ofNat 8 (D % 8)) (.ofCode A) (.ofCode B))
  | 0x3 => .ok (.cmpu (.ofNat 8 (D / 32 % 8)) (.ofNat 4 (D / 8 % 4)) (.ofNat 8 (D % 8)) (.ofCode A) (.ofCode B))
  | 0x4 => .ok (.sel (.ofCode D) (.ofCode A) (.ofCode B))
  | 0x5 => if D > 7 ∨ A > 7 ∨ B > 7 then .error .mustBeZero else .ok (.pand (.ofNat 8 (D % 8)) (.ofNat 8 (A % 8)) (.ofNat 8 (B % 8)))
  | 0x6 => if D > 7 ∨ A > 7 ∨ B > 7 then .error .mustBeZero else .ok (.por (.ofNat 8 (D % 8)) (.ofNat 8 (A % 8)) (.ofNat 8 (B % 8)))
  | 0x7 => if D > 7 ∨ A > 7 ∨ B > 7 then .error .mustBeZero else .ok (.pxor (.ofNat 8 (D % 8)) (.ofNat 8 (A % 8)) (.ofNat 8 (B % 8)))
  | 0x8 => if D > 7 ∨ A > 7 ∨ B ≠ 0 then .error .mustBeZero else .ok (.pnot (.ofNat 8 (D % 8)) (.ofNat 8 (A % 8)))
  | 0x9 => if A > 7 ∨ B ≠ 0 then .error .mustBeZero else .ok (.ptov (.ofCode D) (.ofNat 8 (A % 8)))
  | 0xA => if D > 7 ∨ B ≠ 0 then .error .mustBeZero else .ok (.vtop (.ofNat 8 (D % 8)) (.ofCode A))
  | _ => .error .unassigned

/-- Row 0x5_ of the opcode map (R284). -/
def decodeRow5 (lo _n D A B : Nat) : Except DecodeErr Instr :=
  match lo with
  | 0x0 => .ok (.fadd (.ofCode D) (.ofCode A) (.ofCode B))
  | 0x1 => .ok (.fsub (.ofCode D) (.ofCode A) (.ofCode B))
  | 0x2 => .ok (.fmul (.ofCode D) (.ofCode A) (.ofCode B))
  | 0x3 => .ok (.ffma (.ofCode D) (.ofCode A) (.ofCode B))
  | 0x4 => .ok (.fmin (.ofCode D) (.ofCode A) (.ofCode B))
  | 0x5 => .ok (.fmax (.ofCode D) (.ofCode A) (.ofCode B))
  | 0x6 => if B ≠ 0 then .error .mustBeZero else .ok (.fabs (.ofCode D) (.ofCode A))
  | 0x7 => if B ≠ 0 then .error .mustBeZero else .ok (.fneg (.ofCode D) (.ofCode A))
  | 0x8 => .ok (.fcmp (.ofNat 8 (D / 32 % 8)) (.ofNat 4 (D / 8 % 4)) (.ofNat 8 (D % 8)) (.ofCode A) (.ofCode B))
  | 0x9 => if B ≠ 0 then .error .mustBeZero else .ok (.frcp (.ofCode D) (.ofCode A))
  | 0xA => if B ≠ 0 then .error .mustBeZero else .ok (.frsq (.ofCode D) (.ofCode A))
  | 0xB => if B ≠ 0 then .error .mustBeZero else .ok (.fsqrt (.ofCode D) (.ofCode A))
  | 0xC => if B ≠ 0 then .error .mustBeZero else .ok (.fexp2 (.ofCode D) (.ofCode A))
  | 0xD => if B ≠ 0 then .error .mustBeZero else .ok (.flog2 (.ofCode D) (.ofCode A))
  | 0xE => if B ≠ 0 then .error .mustBeZero else .ok (.ftanh (.ofCode D) (.ofCode A))
  | 0xF => if B ≠ 0 then .error .mustBeZero else .ok (.frnd (.ofCode D) (.ofCode A))
  | _ => .error .unassigned

/-- Row 0x6_ of the opcode map (R284). -/
def decodeRow6 (lo _n D A B : Nat) : Except DecodeErr Instr :=
  match lo with
  | 0x0 => .ok (.cvt (.ofCode D) (.ofCode A) (.ofNat 16 (B / 16 % 16)) (.ofNat 16 (B % 16)))
  | 0x1 => .ok (.pack (.ofCode D) (.ofCode A) (.ofCode B))
  | 0x2 => if B ≠ 0 then .error .mustBeZero else .ok (.unpackl (.ofCode D) (.ofCode A))
  | 0x3 => if B ≠ 0 then .error .mustBeZero else .ok (.unpackh (.ofCode D) (.ofCode A))
  | 0x4 => if B ≠ 0 then .error .mustBeZero else .ok (.fclass (.ofCode D) (.ofCode A))
  | 0x8 => .ok (.shfl (.ofCode D) (.ofCode A) (.ofCode B))
  | 0x9 => .ok (.shflup (.ofCode D) (.ofCode A) (.ofCode B))
  | 0xA => .ok (.shfldn (.ofCode D) (.ofCode A) (.ofCode B))
  | 0xB => .ok (.shflx (.ofCode D) (.ofCode A) (.ofCode B))
  | 0xC => .ok (.bcast (.ofCode D) (.ofCode A) (.ofCode B))
  | 0xD => if B ≠ 0 then .error .mustBeZero else .ok (.rdfl (.ofCode D) (.ofCode A))
  | 0xE => .ok (.rdlane (.ofCode D) (.ofCode A) (.ofCode B))
  | 0xF => .ok (.wrlane (.ofCode D) (.ofCode A) (.ofCode B))
  | _ => .error .unassigned

/-- Row 0x7_ of the opcode map (R284). -/
def decodeRow7 (lo _n D A B : Nat) : Except DecodeErr Instr :=
  match lo with
  | 0x0 => if A > 7 ∨ B / 4 % 2 ≠ 0 then .error .mustBeZero else .ok (.vote (.ofCode D) (.ofNat 8 (A % 8)) (.ofNat 32 (B / 8 % 32)) (.ofNat 4 (B % 4)))
  | 0x1 => if B > 15 then .error .mustBeZero else .ok (.red (.ofCode D) (.ofCode A) (.ofNat 16 (B % 16)))
  | 0x2 => if B > 31 then .error .mustBeZero else .ok (.scan (.ofCode D) (.ofCode A) (B / 16 % 2 == 1) (.ofNat 16 (B % 16)))
  | 0x3 => if B ≠ 0 then .error .mustBeZero else .ok (.movsr (.ofCode D) (.ofNat 8 (A)))
  | 0x4 => if B ≠ 0 then .error .mustBeZero else .ok (.movrs (.ofNat 8 (D)) (.ofCode A))
  | 0x8 => .ok (.ld8 (.ofCode D) (.ofCode A) (.ofCode B))
  | 0x9 => .ok (.ld8s (.ofCode D) (.ofCode A) (.ofCode B))
  | 0xA => .ok (.ld16 (.ofCode D) (.ofCode A) (.ofCode B))
  | 0xB => .ok (.ld16s (.ofCode D) (.ofCode A) (.ofCode B))
  | 0xC => .ok (.ld32 (.ofCode D) (.ofCode A) (.ofCode B))
  | 0xD => .ok (.ld64 (.ofCode D) (.ofCode A) (.ofCode B))
  | 0xE => .ok (.ld128 (.ofCode D) (.ofCode A) (.ofCode B))
  | 0xF => .ok (.st4 (.ofCode D) (.ofCode A) (.ofCode B))
  | _ => .error .unassigned

/-- Row 0x8_ of the opcode map (R284). -/
def decodeRow8 (lo _n D A B : Nat) : Except DecodeErr Instr :=
  match lo with
  | 0x0 => .ok (.st8 (.ofCode D) (.ofCode A) (.ofCode B))
  | 0x1 => .ok (.st16 (.ofCode D) (.ofCode A) (.ofCode B))
  | 0x2 => .ok (.st32 (.ofCode D) (.ofCode A) (.ofCode B))
  | 0x3 => .ok (.st64 (.ofCode D) (.ofCode A) (.ofCode B))
  | 0x4 => .ok (.st128 (.ofCode D) (.ofCode A) (.ofCode B))
  | 0x5 => .ok (.ldl32 (.ofCode D) (.ofCode A) (.ofCode B))
  | 0x6 => .ok (.ldl128 (.ofCode D) (.ofCode A) (.ofCode B))
  | 0x7 => .ok (.stl32 (.ofCode D) (.ofCode A) (.ofCode B))
  | 0x8 => .ok (.stl128 (.ofCode D) (.ofCode A) (.ofCode B))
  | 0x9 => if D > 1 then .error .badValue else .ok (.prefetch (D % 2 == 1) (.ofCode A) (.ofCode B))
  | 0xA => .ok (.discard (.ofCode D) (.ofCode A) (.ofCode B))
  | 0xB => if D ≠ 0 ∨ A ≠ 0 ∨ B > 63 then .error .mustBeZero else .ok (.sink (B / 32 % 2 == 1) (B / 16 % 2 == 1) (.ofNat 16 (B % 16)))
  | 0xC => .ok (.rowld (.ofCode D) (.ofCode A) (.ofCode B))
  | 0xD => .ok (.rowst (.ofCode D) (.ofCode A) (.ofCode B))
  | 0xE => .ok (.rowadd (.ofCode D) (.ofCode A) (.ofCode B))
  | _ => .error .unassigned

/-- Row 0xA_ of the opcode map (R284). -/
def decodeRowA (lo _n D A B : Nat) : Except DecodeErr Instr :=
  match lo with
  | 0x0 => .ok (.aadd (.ofCode D) (.ofCode A) (.ofCode B))
  | 0x1 => .ok (.amin (.ofCode D) (.ofCode A) (.ofCode B))
  | 0x2 => .ok (.amax (.ofCode D) (.ofCode A) (.ofCode B))
  | 0x3 => .ok (.aminu (.ofCode D) (.ofCode A) (.ofCode B))
  | 0x4 => .ok (.amaxu (.ofCode D) (.ofCode A) (.ofCode B))
  | 0x5 => .ok (.aand (.ofCode D) (.ofCode A) (.ofCode B))
  | 0x6 => .ok (.aor (.ofCode D) (.ofCode A) (.ofCode B))
  | 0x7 => .ok (.axor (.ofCode D) (.ofCode A) (.ofCode B))
  | 0x8 => .ok (.axch (.ofCode D) (.ofCode A) (.ofCode B))
  | 0x9 => .ok (.acas (.ofCode D) (.ofCode A) (.ofCode B))
  | 0xA => .ok (.afadd (.ofCode D) (.ofCode A) (.ofCode B))
  | _ => .error .unassigned

/-- Row 0xB_ of the opcode map (R284). -/
def decodeRowB (lo _n D A B : Nat) : Except DecodeErr Instr :=
  match lo with
  | 0x0 => if D ≠ 0 ∨ A ≠ 0 ∨ B ≠ 0 then .error .mustBeZero else .ok .phase
  | 0x1 => if D ≠ 0 ∨ A ≠ 0 ∨ B ≠ 0 then .error .mustBeZero else .ok .pub
  | 0x2 => if D ≠ 0 ∨ A ≠ 0 ∨ B ≠ 0 then .error .mustBeZero else .ok .acq
  | 0x3 => if D ≠ 0 ∨ A ≠ 0 ∨ B ≠ 0 then .error .mustBeZero else .ok .efence
  | 0x4 => if D ≠ 0 ∨ B ≠ 0 then .error .mustBeZero else .ok (.lock (.ofCode A))
  | 0x5 => if D ≠ 0 ∨ B ≠ 0 then .error .mustBeZero else .ok (.unlock (.ofCode A))
  | 0x6 => .ok (.wreg (.ofCode D) (.ofCode A) (.ofCode B))
  | 0x7 => if D ≠ 0 ∨ B ≠ 0 then .error .mustBeZero else .ok (.whold (.ofCode A))
  | 0x8 => if D ≠ 0 ∨ B ≠ 0 then .error .mustBeZero else .ok (.wdrop (.ofCode A))
  | 0x9 => if D ≠ 0 ∨ A ≠ 0 then .error .mustBeZero else if B > 1 then .error .badValue else .ok (.bar (B % 2 == 1))
  | 0xA => if A ≠ 0 then .error .mustBeZero else if B > 1 then .error .badValue else .ok (.bararr (.ofCode D) (B % 2 == 1))
  | 0xB => if D ≠ 0 then .error .mustBeZero else if B > 1 then .error .badValue else .ok (.barwait (.ofCode A) (B % 2 == 1))
  | 0xC => if D ≠ 0 then .error .mustBeZero else .ok (.tbinit (.ofCode A) (.ofCode B))
  | 0xD => if D ≠ 0 then .error .mustBeZero else .ok (.tbexp (.ofCode A) (.ofCode B))
  | 0xE => if D ≠ 0 then .error .mustBeZero else .ok (.tbarr (.ofCode A) (.ofCode B))
  | 0xF => if D ≠ 0 then .error .mustBeZero else .ok (.tbwait (.ofCode A) (.ofCode B))
  | _ => .error .unassigned

/-- Row 0xC_ of the opcode map (R284). -/
def decodeRowC (lo _n D A B : Nat) : Except DecodeErr Instr :=
  match lo with
  | 0x0 => if B ≠ 0 then .error .mustBeZero else .ok (.tbtest (.ofCode D) (.ofCode A))
  | 0x1 => if B ≠ 0 then .error .mustBeZero else if D > 3 then .error .badValue else .ok (.pin (.ofNat 4 (D % 4)) (.ofCode A))
  | 0x2 => if A ≠ 0 ∨ B ≠ 0 then .error .mustBeZero else if D > 3 then .error .badValue else .ok (.unpin (.ofNat 4 (D % 4)))
  | 0x3 => .ok (.reclaim (.ofCode D) (.ofCode A) (.ofCode B))
  | 0x4 => if B ≠ 0 then .error .mustBeZero else .ok (.pinq (.ofCode D) (.ofCode A))
  | 0x5 => if D ≠ 0 then .error .mustBeZero else .ok (.topup (.ofCode A) (.ofCode B))
  | 0x6 => .ok (.bgrant (.ofCode D) (.ofCode A) (.ofCode B))
  | 0x7 => if D ≠ 0 then .error .mustBeZero else .ok (.spawn (.ofCode A) (.ofCode B))
  | 0x8 => .ok (.launch (.ofCode D) (.ofCode A) (.ofCode B))
  | 0x9 => if D ≠ 0 ∨ B ≠ 0 then .error .mustBeZero else .ok (.gwait (.ofCode A))
  | 0xA => if A ≠ 0 ∨ B ≠ 0 then .error .mustBeZero else if D > 31 then .error .badValue else .ok (.giveback (.ofNat 32 (D % 32)))
  | 0xB => if A ≠ 0 ∨ B ≠ 0 then .error .mustBeZero else if D > 31 then .error .badValue else .ok (.claim (.ofNat 32 (D % 32)))
  | _ => .error .unassigned

/-- Row 0xD_ of the opcode map (R284). -/
def decodeRowD (lo _n D A B : Nat) : Except DecodeErr Instr :=
  match lo with
  | 0x0 => .ok (.cpy (.ofCode D) (.ofCode A) (.ofCode B))
  | 0x1 => .ok (.cpys (.ofCode D) (.ofCode A) (.ofCode B))
  | 0x2 => .ok (.cpyt (.ofCode D) (.ofCode A) (.ofCode B))
  | 0x3 => .ok (.cpyr (.ofCode D) (.ofCode A) (.ofCode B))
  | 0x4 => .ok (.rgath (.ofCode D) (.ofCode A) (.ofCode B))
  | 0x5 => if D ≠ 0 ∨ B ≠ 0 then .error .mustBeZero else .ok (.qsub (.ofCode A))
  | 0x6 => .ok (.coll (.ofCode D) (.ofCode A) (.ofCode B))
  | 0x7 => if A ≠ 0 ∨ B ≠ 0 then .error .mustBeZero else .ok (.bseal (.ofCode D))
  | 0x8 => if A ≠ 0 ∨ B ≠ 0 then .error .mustBeZero else if D > 31 then .error .badValue else .ok (.bwait (.ofNat 32 (D % 32)))
  | 0x9 => if B ≠ 0 then .error .mustBeZero else if D > 31 then .error .badValue else .ok (.bwaity (.ofNat 32 (D % 32)) (.ofCode A))
  | 0xA => if D ≠ 0 then .error .mustBeZero else .ok (.nmcmd (.ofCode A) (.ofCode B))
  | 0xB => if D ≠ 0 then .error .mustBeZero else .ok (.nmblk (.ofCode A) (.ofCode B))
  | _ => .error .unassigned

/-- Row 0xE_ of the opcode map (R284). -/
def decodeRowE (lo _n D A B : Nat) : Except DecodeErr Instr :=
  match lo with
  | 0x0 => if D ≠ 0 ∨ B ≠ 0 then .error .mustBeZero else .ok (.gang (.ofCode A))
  | 0x1 => if B ≠ 0 then .error .mustBeZero else .ok (.accalloc (.ofCode D) (.ofCode A))
  | 0x2 => if D ≠ 0 then .error .mustBeZero else .ok (.accwin (.ofCode A) (.ofCode B))
  | 0x3 => if D ≠ 0 ∨ A ≠ 0 ∨ B ≠ 0 then .error .mustBeZero else .ok .accfree
  | 0x4 => .ok (.mma (.ofCode D) (.ofCode A) (.ofCode B))
  | 0x5 => if B ≠ 0 then .error .mustBeZero else .ok (.mdrain (.ofCode D) (.ofCode A))
  | 0x6 => .ok (.accrd (.ofCode D) (.ofCode A) (.ofCode B))
  | 0x7 => .ok (.accwr (.ofCode D) (.ofCode A) (.ofCode B))
  | 0x8 => if D ≠ 0 then .error .mustBeZero else .ok (.acczero (.ofCode A) (.ofCode B))
  | 0x9 => .ok (.scld (.ofCode D) (.ofCode A) (.ofCode B))
  | _ => .error .unassigned

/-- Row 0xF_ of the opcode map (R284). -/
def decodeRowF (lo _n D A B : Nat) : Except DecodeErr Instr :=
  match lo with
  | 0x0 => if B ≠ 0 then .error .mustBeZero else .ok (.ctr (.ofCode D) (.ofCode A))
  | 0x1 => if D ≠ 0 then .error .mustBeZero else .ok (.evsel (.ofCode A) (.ofCode B))
  | 0x2 => if D ≠ 0 ∨ B ≠ 0 then .error .mustBeZero else .ok (.syscall (.ofCode A))
  | 0x3 => .ok (.privw (.ofCode D) (.ofCode A) (.ofCode B))
  | _ => .error .unassigned

/-- The whole map: the high nibble of OP picks the row (R284). -/
def decodeNat (n : Nat) : Except DecodeErr Instr :=
  let lo := n / 0x1000000 % 16
  let D := n / 0x10000 % 256
  let A := n / 0x100 % 256
  let B := n % 256
  match n / 0x10000000 % 16 with
  | 0x0 => decodeRow0 lo n D A B
  | 0x1 => decodeRow1 lo n D A B
  | 0x2 => decodeRow2 lo n D A B
  | 0x3 => decodeRow3 lo n D A B
  | 0x4 => decodeRow4 lo n D A B
  | 0x5 => decodeRow5 lo n D A B
  | 0x6 => decodeRow6 lo n D A B
  | 0x7 => decodeRow7 lo n D A B
  | 0x8 => decodeRow8 lo n D A B
  | 0xA => decodeRowA lo n D A B
  | 0xB => decodeRowB lo n D A B
  | 0xC => decodeRowC lo n D A B
  | 0xD => decodeRowD lo n D A B
  | 0xE => decodeRowE lo n D A B
  | 0xF => decodeRowF lo n D A B
  | _ => .error .unassigned

/-- Decode one 32-bit word. -/
def decode (w : Word) : Except DecodeErr Instr := decodeNat w.toNat

/-- Four bytes of memory, lowest address first, as a word (R3, R275). -/
def wordOfBytes (b0 b1 b2 b3 : Byte) : Word := b3 ++ b2 ++ b1 ++ b0

/-- Decode from bytes in memory order: the instruction and the rest; `none` when fewer than four bytes are left or the
word is refused. -/
def decodeBytes : List Byte → Option (Instr × List Byte)
  | b0 :: b1 :: b2 :: b3 :: rest =>
    match decode (wordOfBytes b0 b1 b2 b3) with
    | .ok i => some (i, rest)
    | .error _ => none
  | _ => none

/-- The bytes of the word `w` as memory holds it, lowest address first. -/
def bytesOfWord (w : Word) : List Byte :=
  [w.extractLsb' 0 8, w.extractLsb' 8 8, w.extractLsb' 16 8, w.extractLsb' 24 8]

/-- The instruction the decoder reads from the opcode table's numbering of a row: one 32-bit word, bit 0 its least
significant bit. Bits at and above `nbits` are 0. -/
def decodeTableWord (nbits w : Nat) : Option Instr :=
  (decodeBytes (bytesOfWord (BitVec.ofNat 32 (w % 2 ^ nbits)))).map Prod.fst

/-- The value of an instruction's word; `none` for an operation or event of the device, which has no word. -/
def encodeNat : Instr → Option Nat
  | .nop => some 0x00000000
  | .setmode imm => some (0x01000000 + imm.toNat)
  | .br off => some (0x02000000 + off.toNat)
  | .bri a => some (0x03000000 + a.code * 256)
  | .call off => some (0x04000000 + off.toNat)
  | .calli a => some (0x05000000 + a.code * 256)
  | .ret => some 0x06000000
  | .split p => some (0x07000000 + p.val * 65536)
  | .flip => some 0x08000000
  | .join => some 0x09000000
  | .lbegin => some 0x0A000000
  | .lbrk p => some (0x0B000000 + p.val * 65536)
  | .lend off => some (0x0C000000 + off.toNat)
  | .exit => some 0x0D000000
  | .trigger => some 0x0E000000
  | .yield => some 0x0F000000
  | .cont off => some (0x10000000 + off.toNat)
  | .ifence => some 0x11000000
  | .icinv d a => some (0x12000000 + d.code * 65536 + a.code * 256)
  | .trap imm => some (0x13000000 + imm.toNat)
  | .rett => some 0x14000000
  | .sleep a => some (0x15000000 + a.code * 256)
  | .mov d a => some (0x20000000 + d.code * 65536 + a.code * 256)
  | .movi d imm => some (0x21000000 + d.code * 65536 + imm.toNat)
  | .movhi d imm => some (0x22000000 + d.code * 65536 + imm.toNat)
  | .add d a b => some (0x23000000 + d.code * 65536 + a.code * 256 + b.code)
  | .addi d imm => some (0x24000000 + d.code * 65536 + imm.toNat)
  | .sub d a b => some (0x25000000 + d.code * 65536 + a.code * 256 + b.code)
  | .mul d a b => some (0x26000000 + d.code * 65536 + a.code * 256 + b.code)
  | .mulhi d a b => some (0x27000000 + d.code * 65536 + a.code * 256 + b.code)
  | .mulhu d a b => some (0x28000000 + d.code * 65536 + a.code * 256 + b.code)
  | .mad d a b => some (0x29000000 + d.code * 65536 + a.code * 256 + b.code)
  | .min d a b => some (0x2A000000 + d.code * 65536 + a.code * 256 + b.code)
  | .max d a b => some (0x2B000000 + d.code * 65536 + a.code * 256 + b.code)
  | .minu d a b => some (0x2C000000 + d.code * 65536 + a.code * 256 + b.code)
  | .maxu d a b => some (0x2D000000 + d.code * 65536 + a.code * 256 + b.code)
  | .abs d a => some (0x2E000000 + d.code * 65536 + a.code * 256)
  | .neg d a => some (0x2F000000 + d.code * 65536 + a.code * 256)
  | .and d a b => some (0x30000000 + d.code * 65536 + a.code * 256 + b.code)
  | .or d a b => some (0x31000000 + d.code * 65536 + a.code * 256 + b.code)
  | .xor d a b => some (0x32000000 + d.code * 65536 + a.code * 256 + b.code)
  | .andn d a b => some (0x33000000 + d.code * 65536 + a.code * 256 + b.code)
  | .not d a => some (0x34000000 + d.code * 65536 + a.code * 256)
  | .shl d a b => some (0x35000000 + d.code * 65536 + a.code * 256 + b.code)
  | .shr d a b => some (0x36000000 + d.code * 65536 + a.code * 256 + b.code)
  | .sar d a b => some (0x37000000 + d.code * 65536 + a.code * 256 + b.code)
  | .rol d a b => some (0x38000000 + d.code * 65536 + a.code * 256 + b.code)
  | .popc d a => some (0x39000000 + d.code * 65536 + a.code * 256)
  | .clz d a => some (0x3A000000 + d.code * 65536 + a.code * 256)
  | .brev d a => some (0x3B000000 + d.code * 65536 + a.code * 256)
  | .bfx d a b => some (0x3C000000 + d.code * 65536 + a.code * 256 + b.code)
  | .bfi d a b => some (0x3D000000 + d.code * 65536 + a.code * 256 + b.code)
  | .add64 d a b => some (0x3E000000 + d.code * 65536 + a.code * 256 + b.code)
  | .sub64 d a b => some (0x3F000000 + d.code * 65536 + a.code * 256 + b.code)
  | .mad64 d a b => some (0x40000000 + d.code * 65536 + a.code * 256 + b.code)
  | .lea d a b => some (0x41000000 + d.code * 65536 + a.code * 256 + b.code)
  | .cmp cond comb pd a b => some (0x42000000 + cond.val * 2097152 + comb.val * 524288 + pd.val * 65536 + a.code * 256 + b.code)
  | .cmpu cond comb pd a b => some (0x43000000 + cond.val * 2097152 + comb.val * 524288 + pd.val * 65536 + a.code * 256 + b.code)
  | .sel d a b => some (0x44000000 + d.code * 65536 + a.code * 256 + b.code)
  | .pand d a b => some (0x45000000 + d.val * 65536 + a.val * 256 + b.val)
  | .por d a b => some (0x46000000 + d.val * 65536 + a.val * 256 + b.val)
  | .pxor d a b => some (0x47000000 + d.val * 65536 + a.val * 256 + b.val)
  | .pnot d a => some (0x48000000 + d.val * 65536 + a.val * 256)
  | .ptov d p => some (0x49000000 + d.code * 65536 + p.val * 256)
  | .vtop p a => some (0x4A000000 + p.val * 65536 + a.code * 256)
  | .fadd d a b => some (0x50000000 + d.code * 65536 + a.code * 256 + b.code)
  | .fsub d a b => some (0x51000000 + d.code * 65536 + a.code * 256 + b.code)
  | .fmul d a b => some (0x52000000 + d.code * 65536 + a.code * 256 + b.code)
  | .ffma d a b => some (0x53000000 + d.code * 65536 + a.code * 256 + b.code)
  | .fmin d a b => some (0x54000000 + d.code * 65536 + a.code * 256 + b.code)
  | .fmax d a b => some (0x55000000 + d.code * 65536 + a.code * 256 + b.code)
  | .fabs d a => some (0x56000000 + d.code * 65536 + a.code * 256)
  | .fneg d a => some (0x57000000 + d.code * 65536 + a.code * 256)
  | .fcmp cond comb pd a b => some (0x58000000 + cond.val * 2097152 + comb.val * 524288 + pd.val * 65536 + a.code * 256 + b.code)
  | .frcp d a => some (0x59000000 + d.code * 65536 + a.code * 256)
  | .frsq d a => some (0x5A000000 + d.code * 65536 + a.code * 256)
  | .fsqrt d a => some (0x5B000000 + d.code * 65536 + a.code * 256)
  | .fexp2 d a => some (0x5C000000 + d.code * 65536 + a.code * 256)
  | .flog2 d a => some (0x5D000000 + d.code * 65536 + a.code * 256)
  | .ftanh d a => some (0x5E000000 + d.code * 65536 + a.code * 256)
  | .frnd d a => some (0x5F000000 + d.code * 65536 + a.code * 256)
  | .cvt d a tgt src => some (0x60000000 + d.code * 65536 + a.code * 256 + tgt.val * 16 + src.val)
  | .pack d a b => some (0x61000000 + d.code * 65536 + a.code * 256 + b.code)
  | .unpackl d a => some (0x62000000 + d.code * 65536 + a.code * 256)
  | .unpackh d a => some (0x63000000 + d.code * 65536 + a.code * 256)
  | .fclass d a => some (0x64000000 + d.code * 65536 + a.code * 256)
  | .shfl d a b => some (0x68000000 + d.code * 65536 + a.code * 256 + b.code)
  | .shflup d a b => some (0x69000000 + d.code * 65536 + a.code * 256 + b.code)
  | .shfldn d a b => some (0x6A000000 + d.code * 65536 + a.code * 256 + b.code)
  | .shflx d a b => some (0x6B000000 + d.code * 65536 + a.code * 256 + b.code)
  | .bcast d a b => some (0x6C000000 + d.code * 65536 + a.code * 256 + b.code)
  | .rdfl d a => some (0x6D000000 + d.code * 65536 + a.code * 256)
  | .rdlane d a b => some (0x6E000000 + d.code * 65536 + a.code * 256 + b.code)
  | .wrlane d a b => some (0x6F000000 + d.code * 65536 + a.code * 256 + b.code)
  | .vote d p pass op => some (0x70000000 + d.code * 65536 + p.val * 256 + pass.val * 8 + op.val)
  | .red d a op => some (0x71000000 + d.code * 65536 + a.code * 256 + op.val)
  | .scan d a excl op => some (0x72000000 + d.code * 65536 + a.code * 256 + excl.toNat * 16 + op.val)
  | .movsr d sr => some (0x73000000 + d.code * 65536 + sr.toNat * 256)
  | .movrs sr a => some (0x74000000 + sr.toNat * 65536 + a.code * 256)
  | .ld8 d a b => some (0x78000000 + d.code * 65536 + a.code * 256 + b.code)
  | .ld8s d a b => some (0x79000000 + d.code * 65536 + a.code * 256 + b.code)
  | .ld16 d a b => some (0x7A000000 + d.code * 65536 + a.code * 256 + b.code)
  | .ld16s d a b => some (0x7B000000 + d.code * 65536 + a.code * 256 + b.code)
  | .ld32 d a b => some (0x7C000000 + d.code * 65536 + a.code * 256 + b.code)
  | .ld64 d a b => some (0x7D000000 + d.code * 65536 + a.code * 256 + b.code)
  | .ld128 d a b => some (0x7E000000 + d.code * 65536 + a.code * 256 + b.code)
  | .st4 d a b => some (0x7F000000 + d.code * 65536 + a.code * 256 + b.code)
  | .st8 d a b => some (0x80000000 + d.code * 65536 + a.code * 256 + b.code)
  | .st16 d a b => some (0x81000000 + d.code * 65536 + a.code * 256 + b.code)
  | .st32 d a b => some (0x82000000 + d.code * 65536 + a.code * 256 + b.code)
  | .st64 d a b => some (0x83000000 + d.code * 65536 + a.code * 256 + b.code)
  | .st128 d a b => some (0x84000000 + d.code * 65536 + a.code * 256 + b.code)
  | .ldl32 d a b => some (0x85000000 + d.code * 65536 + a.code * 256 + b.code)
  | .ldl128 d a b => some (0x86000000 + d.code * 65536 + a.code * 256 + b.code)
  | .stl32 d a b => some (0x87000000 + d.code * 65536 + a.code * 256 + b.code)
  | .stl128 d a b => some (0x88000000 + d.code * 65536 + a.code * 256 + b.code)
  | .prefetch lvl a b => some (0x89000000 + lvl.toNat * 65536 + a.code * 256 + b.code)
  | .discard d a b => some (0x8A000000 + d.code * 65536 + a.code * 256 + b.code)
  | .sink h flagA cntm1 => some (0x8B000000 + h.toNat * 32 + flagA.toNat * 16 + cntm1.val)
  | .rowld d a b => some (0x8C000000 + d.code * 65536 + a.code * 256 + b.code)
  | .rowst d a b => some (0x8D000000 + d.code * 65536 + a.code * 256 + b.code)
  | .rowadd d a b => some (0x8E000000 + d.code * 65536 + a.code * 256 + b.code)
  | .aadd d a b => some (0xA0000000 + d.code * 65536 + a.code * 256 + b.code)
  | .amin d a b => some (0xA1000000 + d.code * 65536 + a.code * 256 + b.code)
  | .amax d a b => some (0xA2000000 + d.code * 65536 + a.code * 256 + b.code)
  | .aminu d a b => some (0xA3000000 + d.code * 65536 + a.code * 256 + b.code)
  | .amaxu d a b => some (0xA4000000 + d.code * 65536 + a.code * 256 + b.code)
  | .aand d a b => some (0xA5000000 + d.code * 65536 + a.code * 256 + b.code)
  | .aor d a b => some (0xA6000000 + d.code * 65536 + a.code * 256 + b.code)
  | .axor d a b => some (0xA7000000 + d.code * 65536 + a.code * 256 + b.code)
  | .axch d a b => some (0xA8000000 + d.code * 65536 + a.code * 256 + b.code)
  | .acas d a b => some (0xA9000000 + d.code * 65536 + a.code * 256 + b.code)
  | .afadd d a b => some (0xAA000000 + d.code * 65536 + a.code * 256 + b.code)
  | .phase => some 0xB0000000
  | .pub => some 0xB1000000
  | .acq => some 0xB2000000
  | .efence => some 0xB3000000
  | .lock a => some (0xB4000000 + a.code * 256)
  | .unlock a => some (0xB5000000 + a.code * 256)
  | .wreg d a b => some (0xB6000000 + d.code * 65536 + a.code * 256 + b.code)
  | .whold a => some (0xB7000000 + a.code * 256)
  | .wdrop a => some (0xB8000000 + a.code * 256)
  | .bar lvl => some (0xB9000000 + lvl.toNat)
  | .bararr d lvl => some (0xBA000000 + d.code * 65536 + lvl.toNat)
  | .barwait a lvl => some (0xBB000000 + a.code * 256 + lvl.toNat)
  | .tbinit a b => some (0xBC000000 + a.code * 256 + b.code)
  | .tbexp a b => some (0xBD000000 + a.code * 256 + b.code)
  | .tbarr a b => some (0xBE000000 + a.code * 256 + b.code)
  | .tbwait a b => some (0xBF000000 + a.code * 256 + b.code)
  | .tbtest d a => some (0xC0000000 + d.code * 65536 + a.code * 256)
  | .pin n a => some (0xC1000000 + n.val * 65536 + a.code * 256)
  | .unpin n => some (0xC2000000 + n.val * 65536)
  | .reclaim d a b => some (0xC3000000 + d.code * 65536 + a.code * 256 + b.code)
  | .pinq d a => some (0xC4000000 + d.code * 65536 + a.code * 256)
  | .topup a b => some (0xC5000000 + a.code * 256 + b.code)
  | .bgrant d a b => some (0xC6000000 + d.code * 65536 + a.code * 256 + b.code)
  | .spawn a b => some (0xC7000000 + a.code * 256 + b.code)
  | .launch d a b => some (0xC8000000 + d.code * 65536 + a.code * 256 + b.code)
  | .gwait a => some (0xC9000000 + a.code * 256)
  | .giveback n => some (0xCA000000 + n.val * 65536)
  | .claim n => some (0xCB000000 + n.val * 65536)
  | .cpy d a b => some (0xD0000000 + d.code * 65536 + a.code * 256 + b.code)
  | .cpys d a b => some (0xD1000000 + d.code * 65536 + a.code * 256 + b.code)
  | .cpyt d a b => some (0xD2000000 + d.code * 65536 + a.code * 256 + b.code)
  | .cpyr d a b => some (0xD3000000 + d.code * 65536 + a.code * 256 + b.code)
  | .rgath d a b => some (0xD4000000 + d.code * 65536 + a.code * 256 + b.code)
  | .qsub a => some (0xD5000000 + a.code * 256)
  | .coll d a b => some (0xD6000000 + d.code * 65536 + a.code * 256 + b.code)
  | .bseal d => some (0xD7000000 + d.code * 65536)
  | .bwait n => some (0xD8000000 + n.val * 65536)
  | .bwaity n a => some (0xD9000000 + n.val * 65536 + a.code * 256)
  | .nmcmd a b => some (0xDA000000 + a.code * 256 + b.code)
  | .nmblk a b => some (0xDB000000 + a.code * 256 + b.code)
  | .gang a => some (0xE0000000 + a.code * 256)
  | .accalloc d a => some (0xE1000000 + d.code * 65536 + a.code * 256)
  | .accwin a b => some (0xE2000000 + a.code * 256 + b.code)
  | .accfree => some 0xE3000000
  | .mma d a b => some (0xE4000000 + d.code * 65536 + a.code * 256 + b.code)
  | .mdrain d a => some (0xE5000000 + d.code * 65536 + a.code * 256)
  | .accrd d a b => some (0xE6000000 + d.code * 65536 + a.code * 256 + b.code)
  | .accwr d a b => some (0xE7000000 + d.code * 65536 + a.code * 256 + b.code)
  | .acczero a b => some (0xE8000000 + a.code * 256 + b.code)
  | .scld d a b => some (0xE9000000 + d.code * 65536 + a.code * 256 + b.code)
  | .ctr d a => some (0xF0000000 + d.code * 65536 + a.code * 256)
  | .evsel a b => some (0xF1000000 + a.code * 256 + b.code)
  | .syscall a => some (0xF2000000 + a.code * 256)
  | .privw d a b => some (0xF3000000 + d.code * 65536 + a.code * 256 + b.code)
  | .acceptLaunchPacket _ => none
  | .acceptLaunchRecord _ => none
  | .singleInstanceAccept _ _ => none
  | .nodeStart _ _ => none
  | .instanceComplete _ => none
  | .gridRetire _ => none
  | .crewPlace _ => none
  | .strike _ => none
  | .budgetYield _ => none
  | .teamSave _ => none
  | .crewRestore _ _ => none
  | .selectionOverdue _ => none
  | .sleepEnd _ => none
  | .claimGrant _ => none
  | .bwaityReactivate _ => none
  | .gatherWindowExpire _ _ _ => none
  | .stealRequest _ => none
  | .stealRequestReceive _ _ => none
  | .stealReply _ _ => none
  | .sageSearchDone _ => none
  | .freeQueueRetry _ => none
  | .deferredRescan _ => none
  | .pinSaveRetry _ => none
  | .loadReply _ _ _ _ _ => none
  | .homeRequest _ => none
  | .homeWrite _ => none
  | .homeAtomic _ => none
  | .rowAtHome _ => none
  | .homeFillComplete _ _ => none
  | .sharerUpdate _ _ _ _ => none
  | .sharerInvalidate _ _ _ _ => none
  | .writerAck _ _ _ => none
  | .settleNotice _ _ => none
  | .translateRequest _ => none
  | .sinkPacketAtHome _ => none
  | .sinkPacketAtSite _ => none
  | .sinkResult _ _ _ _ => none
  | .partTrap _ _ _ => none
  | .haltArrive _ _ _ => none
  | .heqRetry => none
  | .droverAccept _ => none
  | .copy _ => none
  | .reduceTile _ => none
  | .gatherRows _ => none
  | .fill _ => none
  | .discardPacket _ => none
  | .collectiveStep _ => none
  | .nearmemBlock _ => none
  | .prefetchL2 _ => none
  | .tbArrive _ => none
  | .packetComplete _ => none
  | .inboundStep _ => none
  | .arrivalReport _ => none
  | .refusalReport _ _ => none
  | .abortMessage _ => none
  | .tbInitOp _ => none
  | .tbExpectOp _ => none
  | .tbArriveOp _ => none
  | .tbWaitOp _ => none
  | .tbTestOp _ => none
  | .tbAbortOp _ => none
  | .lockAtHome _ => none
  | .unlockAtHome _ => none
  | .mmaFinish _ => none
  | .submissionTake _ => none
  | .nmcmdAccept _ => none
  | .nmBind _ => none
  | .nmRun _ => none
  | .nmScadd _ => none
  | .nmAccz _ => none
  | .nmAccst _ => none
  | .nmFence _ => none
  | .nmEnd _ => none
  | .arbitrationWindow _ => none
  | .engineResume _ => none
  | .hostAccess _ => none
  | .hostCompletionTimeout _ => none
  | .linkDown => none
  | .peerPortDown _ => none
  | .correctableError _ => none
  | .uncorrectableError _ _ => none
  | .coreFence _ _ => none
  | .unitSramError _ _ _ => none
  | .thermalSample _ => none
  | .thermalTrip _ => none
  | .reset _ _ => none
  | .tlbinv _ => none
  | .remapRead _ => none
  | .remapWrite _ => none
  | .remapWriteAll _ => none
  | .attgo _ => none
  | .pfrespRetry _ => none
  | .pfrespFail _ => none
  | .pfrespTerminate _ => none
  | .deadlkReexecute _ => none
  | .deadlkDeliver _ => none
  | .deadlkTerminate _ => none
  | .deadlkAdmit _ => none
  | .wftovfAdmitUntracked _ => none
  | .wftovfRetry _ => none
  | .wftovfTerminate _ => none
  | .pptRetry _ => none
  | .pptTerminate _ => none
  | .topupRefill _ => none
  | .topupLeaveParked _ => none
  | .topupTerminate _ => none
  | .fencePlace _ => none
  | .fenceTerminate _ => none
  | .collabtSendAbort _ => none
  | .collabtSendNothing _ => none
  | .ctxkill _ => none
  | .abtclr _ => none
  | .counterValueWrite _ _ => none
  | .partmapWrite _ _ => none
  | .managementWrite _ _ => none
  | .hostLinkUp => none
  | .peerPortUp _ => none
  | .hostSnoop _ _ => none
  | .hostCompletion _ _ _ => none
  | .inboundWrite _ => none
  | .accumulatorOpDone _ => none
  | .sharerAck _ _ _ _ _ _ => none
  | .waitReturn _ _ _ => none

/-- The word of an instruction (R275 to R284). -/
def encode (i : Instr) : Option Word := (encodeNat i).map (BitVec.ofNat 32)

end Sys2Proof
end

