-- ==== Sys2Proof/Config.lean ====
section
/-!
DEFINITION. What the spec leaves open, as constants with no body: nothing in Lean can evaluate them, so a statement
about the machine holds whatever they are. `tick` is the step counter of the state.
-/
namespace Sys2Proof.Config

/-- Which of several things that may happen next happens (R165, R216: interleaving is free). -/
opaque pick : Nat → Nat
/-- Whether an operand or a unit is not yet available to a ready team in a selection round: latencies are not given
(R216), consulted only where several teams of an issue partition are ready. -/
opaque unitBusy : Nat → Nat → Bool
/-- How many clk pass before a step (timing is left out: log entry 3). -/
opaque elapsed : Nat → Nat
/-- How many further instructions a halted sibling issues, taken modulo 5 (R437). -/
opaque skid : Nat → Nat
/-- Whether a Sage search sees a pin slot that changed during the search (R230). -/
opaque sageSample : Nat → Bool
/-- Whether a discarded sector keeps its last written value or returns to its previous memory value (R182). -/
opaque discardKeeps : Nat → Bool
/-- The byte a copy takes where its source overlaps its own destination: the earlier or the new one (R240). -/
opaque overlapEarlier : Nat → Bool
/-- Whether an engine arrives now for the bytes acknowledged so far (R245: it may divide the count). -/
opaque splitArrival : Nat → Bool
/-- MBUD charge of a packet whose KIND or SUB the spec gives no charge (R288). -/
opaque unstatedCharge : Nat → Nat
/-- Which of the ways that may be taken a slice takes (R133), and which line a full instruction cache or the host-facing
cache gives up: their replacement is not given (R134, R259). -/
opaque victim : Nat → Nat
/-- Whether a line to be filled finds its set full while the instruction cache is not: its associativity is not given
(R134). -/
opaque conflict : Nat → Bool
/-- The set of a line in its slice, of 768; it is not visible to programs (R134). -/
opaque l2Set : Nat → Nat
/-- The set of a line in an L1, of 128; the spec does not say which (R134). -/
opaque l1Set : Nat → Nat
/-- Which of the page-table entry and the older entries that a controller caches translates a request before TLBINV
(R129). -/
opaque tlbPick : Nat → Nat
/-- Which 4 KiB unit of a spill region, or which entry of the extension of the wait-for table, the Z4 takes (R90, R503). -/
opaque ownPlace : Nat → Nat
/-- The bytes it writes there: their layout is private (R89, R502). -/
opaque ownByte : Nat → Byte
/-- How far a counter whose events the model does not place one by one has counted on when it is looked at: step, offset (R273, R274). -/
opaque timeCount : Nat → Nat → BitVec 64
/-- The device serial number (R269). -/
opaque serialNumber : BitVec 64
/-- The stepping in DEVID [7:0] (R263). -/
opaque stepping : BitVec 8
/-- The identity key (R269), which no one can read: its identifier, the secret of a chain of a leaf, and the randomizer a leaf
signs with. -/
opaque identityId : BitVec 128
opaque identitySecret : Nat → Nat → BitVec 256
opaque identitySalt : Nat → BitVec 256

end Sys2Proof.Config
end

