-- ==== Sys2Proof/Machine/Map.lean ====
section
/-!
DEFINITION. Finite maps as plain data: a list of (key, value) pairs with strictly rising keys. A map with a default
value lists no entry equal to the default, so equal maps are equal lists. Memory, register files and every table of
the machine are held in this form.
-/
namespace Sys2Proof.Machine

/-- A list of (key, value) pairs, keys strictly rising. -/
abbrev SMap (α : Type) := List (Nat × α)

namespace SMap

variable {α : Type}

/-- The value listed for a key. -/
def look : List (Nat × α) → Nat → Option α
  | [], _ => none
  | (k, v) :: r, x => if x = k then some v else look r x

/-- List a value for a key, replacing the one listed. -/
def put : List (Nat × α) → Nat → α → List (Nat × α)
  | [], x, y => [(x, y)]
  | (k, v) :: r, x, y =>
    if x = k then (x, y) :: r else if x < k then (x, y) :: (k, v) :: r else (k, v) :: put r x y

/-- List nothing for a key. -/
def drop : List (Nat × α) → Nat → List (Nat × α)
  | [], _ => []
  | (k, v) :: r, x => if x = k then drop r x else (k, v) :: drop r x

/-- The value of a key in a map whose unlisted keys hold `d`. -/
def get (d : α) (m : List (Nat × α)) (x : Nat) : α := (look m x).getD d

/-- Write a key of a map whose unlisted keys hold `d`; writing `d` removes the entry. -/
def set [DecidableEq α] (d : α) (m : List (Nat × α)) (x : Nat) (y : α) : List (Nat × α) :=
  if y = d then drop m x else put m x y

/-- The keys, in rising order. -/
def keys (m : List (Nat × α)) : List Nat := m.map Prod.fst

/-- Every key listed is at least `n`, and keys rise strictly. -/
def sortedFrom : Nat → List (Nat × α) → Bool
  | _, [] => true
  | n, (k, _) :: r => decide (n ≤ k) && sortedFrom (k + 1) r

/-- The canonical form of a map whose unlisted keys hold `d`. -/
def wf [DecidableEq α] (d : α) (m : List (Nat × α)) : Bool :=
  sortedFrom 0 m && m.all (fun p => decide (p.2 ≠ d))

end SMap

end Sys2Proof.Machine
end

