-- ==== Sys2Proof/Machine/State.lean ====
section
/-!
DEFINITION. The state of the device: every piece of state the spec names, as plain data, the reasons a step can stop,
and the state after reset. Team state: 03_state. Crews, grids and launching: 02_execution and 08_scheduling. Memory:
05_memory and 06_consistency. Engines: 09_engines. Host and management: 10_host_peers. Traps: 22_failure_model.
-/
namespace Sys2Proof.Machine

/-- Memory contents: (address, byte) pairs with strictly rising addresses and no entry equal to 0x00, which is what an
unlisted address reads as (DESIGN CHOICE, log entry 1). -/
abbrev Mem := List Host.Cell

/-- An entry of the mask stack (R91, R298): its kind and mask. -/
structure MaskEntry where
  loop : Bool
  mask : LaneMask
  deriving DecidableEq, Repr, Inhabited

/-- A pin slot (R85): V and the 48-bit name. -/
structure PinSlot where
  valid : Bool := false
  name  : BitVec 48 := 0
  deriving DecidableEq, Repr, Inhabited

/-- The key of an MMA chain (R392). -/
structure ChainKey where
  prow : Nat
  m    : Nat
  n    : Nat
  afmt : Nat
  bfmt : Nat
  isat : Bool
  deriving DecidableEq, Repr

/-- Chain state of a team or a gang (R392): the key of the open chain, its K count, the last closed key. -/
structure ChainState where
  openKey : Option ChainKey := none
  count   : Nat := 0
  closed  : Option ChainKey := none
  deriving DecidableEq, Repr, Inhabited

/-- The trap registers 0x20 to 0x2F (R433). `restart` is the set that TLMASK shows word by word (R438). -/
structure TrapRegs where
  tcause : Word := 0
  tpc    : Word := 0
  tnpc   : Word := 0
  tinfo0 : Word := 0
  tinfo1 : Word := 0
  tskid  : Word := 0
  tvbase : Word := 0
  mrow   : Word := 0
  inHandler : Bool := false
  tmode  : BitVec 16 := 0
  tlsel  : BitVec 5 := 0
  restart : LaneMask := 0
  tscr0  : Word := 0
  tscr1  : Word := 0
  tscr2  : Word := 0
  tscr3  : Word := 0
  deriving DecidableEq, Repr, Inhabited

/-- Which execution barrier (R47, R48): of a crew, of a grid on a cluster (KBAR = 0), or of a placement group. -/
inductive BarId where
  | crew (crew : Nat)
  | cluster (grid cluster : Nat)
  | group (grid group : Nat)
  deriving DecidableEq, Repr

/-- What a stalled or parked team waits for (R215, R218). -/
inductive WaitObj where
  | lock (va : Nat)
  | barrier (b : BarId) (token : Word)
  | tb (va : Nat)
  | wreg (va : Nat)
  | grid (handle : Word)
  | pool (blocks : Nat)
  | gang (mask : BitVec 16)
  | latch
  | batches (n : Nat)
  | batchesYield (n : Nat) (label : Word)
  | seal
  | port
  | nmcmd
  | exitBatches
  | giveback (n : Nat)
  | partner (crew : Nat)
  | sage
  | spawn
  | heldPhase (b : BarId)
  | budget (first : Bool)
  | host (fn tag : Nat)
  | pinBucket (h : Nat)
  | sleep (due : Nat)
  | stopped (kind : Nat)
  | gangYield
  deriving DecidableEq, Repr

/-- A holding of the wait-for table (R218): a granted lock or a WHOLD. -/
structure Holding where
  va       : Nat
  isLock   : Bool
  released : Bool
  tracked  : Bool
  deriving DecidableEq, Repr

/-- What kind of access an outstanding entry is, for the orders of R162. -/
inductive OutClass where
  | load | store | atomic | rowLoad | rowStore | sink | sync | launch
  deriving DecidableEq, Repr

/-- An outstanding instruction of a team (R24, R438): its requests not yet answered, the registers it will write
(vector j as j, scalar j as 192 + j, predicate p as 256 + p), the lines it touches, values gathered so far, and the
lanes that faulted. -/
structure Outstanding where
  id    : Nat
  instr : Instr
  pc    : Word
  cls   : OutClass
  mode  : BitVec 16
  pend  : Nat
  regs  : List Nat
  lines : List Nat
  got   : List (Nat × Nat)
  bad   : Option BadAccess
  lanes : LaneMask
  stops : List (Nat × Nat × Nat)
  /-- A re-issue of RETT: every standing order covers it (R470). -/
  old   : Bool := false
  /-- Lines that hold a request of it that faulted (R438). -/
  badLines : List Nat := []
  /-- Lines that home is to read or write for it, while the core's L1 may hold them as they were (R138, R158, R159). -/
  atHome : List Nat := []
  deriving DecidableEq, Repr

/-- An order that an earlier release, acquire, PHASE or EFENCE still imposes on later accesses (R162, R177): it covers
the outstanding entries below `id`. -/
structure OrderHold where
  id     : Nat
  rel    : Bool
  acq    : Bool
  phase  : Bool
  asyncs : Bool
  rowsOnly : Bool
  settle : Bool
  /-- Imposed by the team's handler. -/
  handler : Bool := false
  /-- A restored team's first instruction waits for it, whatever it accesses (R227). -/
  all : Bool := false
  deriving DecidableEq, Repr

/-- A team's part of an MMA: its key, the instruction's pc, its active lanes at issue, and the batch it joined (R393,
R478). -/
structure MmaPart where
  team  : Nat
  pc    : Word
  lanes : LaneMask
  batch : Word
  deriving DecidableEq, Repr

/-- An MMA as the matrix datapath holds it (R391, R392, R478): its teams in INDEX order, format word, address of B, the
A operand (row `m`, word `r` at key `512 * m + r`), first K row, ACCBASE, whether its chain opens with it, and how many
outstanding entries of its first team came before it. -/
structure MmaJob where
  crew  : Nat
  parts : List MmaPart
  fmt   : BitVec 64
  baddr : Nat
  a     : SMap Word
  k0    : Nat
  base  : Nat
  opens : Bool
  seq   : Nat
  /-- K rows of its chain up to its end (R390, R392). -/
  count : Nat
  /-- The datapath has started it, and the reads of the step at `k0` that are on their way (R391, R524). -/
  running : Bool := false
  reads : Option Nat := none
  deriving DecidableEq, Repr

/-- An operation accepted by the matrix datapath (R524), with its crew and teams; rows are crew-relative. -/
inductive AccOp where
  | mma (j : MmaJob)
  | drain (crew : Nat) (teams : List Nat) (ctl scale : Word) (key : ChainKey) (base : Nat)
  | read (crew team out : Nat) (elems : List (Nat × Nat × Nat))
  | write (crew team : Nat) (elems : List (Nat × Nat × Word))
  | zero (crew team row n : Nat)
  | scale (crew team out row mode : Nat)
  deriving DecidableEq, Repr

/-- Resident, being saved, or saved in the spill region (R226, R92). -/
inductive Place where
  | resident | saving | saved
  deriving DecidableEq, Repr

/-- The halt that reached a sibling (R437): instructions it may still issue, and the record to leave. -/
structure HaltState where
  left  : Nat
  count : Nat
  info  : TrapRec
  deriving DecidableEq, Repr

/-- A write whose value a team has read (R160): its number at home, or the outstanding entry of a plain store that has left
the core. -/
inductive SeenWrite where
  | home (wid : Nat)
  | store (team out : Nat)
  deriving DecidableEq, Repr

/-- A team: its program state (03_state) and what the scheduler keeps of it (02_execution, 08_scheduling). -/
structure Team where
  crew  : Nat := 0
  idx   : Nat := 0
  lanes : Nat := 1
  role  : Nat := 3
  slot  : Nat := 0
  place : Place := .resident
  pc    : Word := 0
  mask  : LaneMask := 0
  stack : List MaskEntry := []
  /-- How many of the oldest stack entries stand in the spill region (R91). -/
  spilled : Nat := 0
  window : Nat := 8
  vregs : SMap Word := []
  sregs : SMap Word := []
  preds : SMap LaneMask := []
  mode  : BitVec 16 := 7
  ibud  : Int := 0
  mbud  : Int := 0
  contpc : Word := 0
  gang  : Word := 0
  accBase : Nat := 0
  accLim  : Nat := 0
  sinkSite : SMap (BitVec 2) := []
  clockh : Word := 0
  batchNext : Word := 1
  batchDone : Word := 0
  /-- Unfinished operations of each batch, by the number it has or will get (R249). -/
  batches : SMap Nat := []
  pins  : SMap PinSlot := []
  trap  : TrapRegs := {}
  chain : ChainState := {}
  mma   : Option MmaJob := none
  outs  : List Outstanding := []
  nextOut : Nat := 1
  /-- Requests that wait at the core behind an older one to their line that has faulted or may yet, in issue order
  (R438). -/
  behind : List HomeReq := []
  /-- Lines with a faulted request whose re-issue is still to come (R438). -/
  faultLines : List Nat := []
  /-- SCLDs whose reads have faulted and whose re-issue is still to come, by pc: later operations wait for it (R387, R524). -/
  scaleFaults : List Word := []
  holds : List OrderHold := []
  /-- Writes whose values the team has read and that may not be settled yet (R160), and whether a row operation read them
  (R198). -/
  unsettled : List (SeenWrite × Bool) := []
  wait  : Option WaitObj := none
  waitSince : Nat := 0
  untracked : Bool := false
  /-- The wait was admitted untracked (R504). -/
  waitUntracked : Bool := false
  /-- The entry of the wait, and those of which holdings, are in the extension (R503). -/
  waitExt : Bool := false
  farHolds : List (Nat × Bool) := []
  /-- What the team was parked in when a full bucket held its save (R505). -/
  parkedIn : Option WaitObj := none
  /-- Parked-pin entries that the team's save has written (R231). -/
  entries : List Nat := []
  /-- A wait that the instruction registered before a strike made the team yield: its entry stands (R225, R218). -/
  standing : Option WaitObj := none
  /-- When the standing wait was registered (R88, R225). -/
  standSince : Nat := 0
  /-- The host's answer to an escalated wait: 1 finds no cycle, 2 is admitted untracked (R496). -/
  admission : Nat := 0
  holdings : List Holding := []
  /-- The instruction at this pc has been charged, and has recorded its arrival if the flag is set (R222, R225). -/
  stood : Option (Word × Bool) := none
  triggered : Bool := false
  /-- Faults detected while the crew's handler runs (R439), each with its pc. -/
  pending : List (TrapRec × Word) := []
  halt  : Option HaltState := none
  halted : Bool := false
  /-- Lanes of a RETT re-issue at pc (R441). -/
  reissue : Option LaneMask := none
  /-- A stop of a sink group that is raised after the re-issue (R460). -/
  heldStop : Option (TrapRec × Word) := none
  /-- Stops of later sink groups, raised after it. -/
  laterStops : List (TrapRec × Word) := []
  /-- The packet that QSUB has read (R377). -/
  packet : Option (BitVec 512) := none
  /-- The next instruction stands at the result of a missed load or of a sunk group, or at a host's reply (R215, R437). -/
  stalled : Bool := false
  struck : Bool := false
  evict  : Bool := false
  mustYield : Bool := false
  /-- PC to resume at after BWAITY (R249). -/
  parkedAt : Option Word := none
  active : Bool := false
  lastIssue : Nat := 0
  readySince : Option Nat := none
  overdue : Bool := false
  /-- Host escalations that park this team (R444). -/
  escals : List Nat := []
  /-- Its entries of the wait-for table with no holder, for a host's reply or a held save (R444, R505): is each in the extension? -/
  noHolder : List Bool := []
  deriving DecidableEq, Repr, Inhabited

/-- A latched copy of an MMA or MDRAIN at a gang's latch (R381): who and where, the format word and scalar operands,
the window and MROW, the register of A and the rows this member supplies (lane `l`, word `r` at key `512 * l + r`), its
active lanes, and the MMA it re-issues after a fault (R478). -/
structure LatchCopy where
  team  : Nat
  mma   : Bool
  fmt   : Option (BitVec 64)
  scal  : List Word
  base  : Nat
  lim   : Nat
  mrow  : Word
  reg   : Nat
  rows  : SMap Word
  lanes : LaneMask
  pc    : Word
  kept  : Option MmaJob
  /-- The format words of its active lanes differ (R381, R453). -/
  mixed : Bool := false
  /-- The lanes that hold its format word: lane 0 for a scalar pair (R454). -/
  shown : LaneMask := 1
  deriving DecidableEq, Repr

/-- A gang (R380 to R382, R392): members as team numbers, rendezvous arrivals, latch copies and chain state. -/
structure Gang where
  members : BitVec 16
  dissolve : BitVec 16 := 0
  latch   : List LatchCopy := []
  chain   : ChainState := {}
  deriving DecidableEq, Repr

/-- A crew (02_execution): its grid, number, core, local memory, accumulator rows and handler. -/
structure Crew where
  grid  : Nat := 0
  num   : Nat := 0
  ctx   : Nat := 0
  core  : Nat := 0
  teams : Nat := 1
  localBytes : Nat := 0
  mem   : Mem := []
  memPoison : List Nat := []
  accRows : Nat := 0
  /-- ACC[row][col] at key `256 * row + col` (R82). -/
  acc   : SMap Word := []
  /-- Owner of each row: TEAM + 1 (R384). -/
  owner : SMap Nat := []
  group : Nat := 0
  rank  : Nat := 0
  /-- Local memory and rows taken to the spill region (R228). -/
  taken : Bool := false
  /-- They are to be taken once its last team is saved. -/
  taking : Bool := false
  /-- The team whose handler runs while the others are halted (R437). -/
  handler : Option Nat := none
  /-- Rendezvous arrivals of GANG: mask and team (R380). -/
  rendezvous : List (BitVec 16 × Nat) := []
  gangs : List Gang := []
  exited : Bool := false
  acceptedAt : Nat := 0
  deriving DecidableEq, Repr, Inhabited

/-- An execution barrier (R363): completed phases, arrivals of the open phase, and its participants once fixed. -/
structure Bar where
  c       : Word := 0
  arrived : List Nat := []
  parts   : List Nat := []
  opened  : Bool := false
  deriving DecidableEq, Repr, Inhabited

/-- A launch record (R37). -/
structure LaunchRec where
  codebase : Nat := 0
  entry    : Nat := 0
  crews    : Nat := 1
  lanes    : Nat := 1
  crewTeams : Nat := 1
  vregs    : Nat := 8
  localBytes : Nat := 0
  accRows  : Nat := 0
  prio     : Nat := 0
  poolown  : Bool := false
  nodonate : Bool := false
  nload    : Nat := 0
  ncomp    : Nat := 0
  nstore   : Nat := 0
  cbar     : Nat := 0
  kbar     : Nat := 0
  ibudInit : Nat := 1
  mbudInit : Nat := 1
  iquant   : Nat := 1
  mquant   : Nat := 1
  ipool    : Nat := 0
  mpool    : Nat := 0
  graph    : Nat := 0
  node     : Nat := 0
  args     : BitVec 64 := 0
  doneAddr : Nat := 0
  doneVal  : BitVec 64 := 0
  deriving DecidableEq, Repr, Inhabited

/-- A grid (02_execution): record, context, pools, kin and progress. `inst` names its graph instance and node. -/
structure Grid where
  launch : LaunchRec := {}
  ctx    : Nat := 0
  part   : Nat := 0
  depth  : Nat := 0
  parent : Option Nat := none
  hidden : Bool := false
  ipool  : Nat := 0
  mpool  : Nat := 0
  inst   : Option (Nat × Nat) := none
  /-- Crews dealt to clusters so far (R212). -/
  dealt  : Nat := 0
  crewsExited : Nat := 0
  crewsTriggered : List Nat := []
  triggered : Bool := false
  accepted : Nat := 0
  killed : Bool := false
  deriving DecidableEq, Repr, Inhabited

/-- A node of a running graph instance (R208, R210). -/
structure NodeState where
  record  : Nat
  npred   : Nat
  succs   : List Nat
  started : Bool
  released : Bool
  retired : Bool
  deriving DecidableEq, Repr

/-- A graph instance (R209, R210). -/
structure Instance where
  handle : Nat
  ctx    : Nat
  part   : Nat
  graph  : Nat
  block  : Nat
  args   : Option (BitVec 64)
  doneAddr : Nat
  doneVal : BitVec 64
  /-- Stream index of its launch packet (R509). -/
  stream : Nat
  nodes  : List NodeState
  refused : Bool
  killed : Bool
  deriving DecidableEq, Repr

/-- An unstarted crew control block (R212): grid handle, CREW, the tasks of a gathered team (R56), and when it was
queued. -/
structure Ccb where
  grid  : Nat
  num   : Nat
  tasks : List (List Word)
  since : Nat := 0
  deriving DecidableEq, Repr

/-- A gathering group of tasks (R55). -/
structure TaskGroup where
  grid  : Nat
  entry : Word
  since : Nat
  tasks : List (List Word)
  deriving DecidableEq, Repr

/-- A cluster (02_execution R55, R57; 08_scheduling R212). -/
structure Cluster where
  ccbs   : List Ccb := []
  groups : List TaskGroup := []
  stealing : Bool := false
  stealNext : Nat := 0
  /-- The request outstanding is for tasks. -/
  stealTasks : Bool := false
  deriving DecidableEq, Repr, Inhabited

/-- An outstanding operation that a core's L1 has performed (R171): its line and address, who issued it (team and outstanding
entry), the operation and its operand, the write number home gave it, and whether the L1 still applies it on top of home's value. -/
structure NearOp where
  lid  : Nat
  va   : Nat
  team : Nat
  out  : Nat
  op   : AtomOp
  data : Nat
  done : Option Nat := none
  shown : Bool := true
  deriving DecidableEq, Repr

/-- A line of an L1 data cache (R134, R138, R139, R171): data, permissions, whether the last update applied has been
read (none before the first), unsettled writes, the line without the core's outstanding crew-scope operations, and when it was
last used. -/
structure L1Line where
  data : Line := 0
  rd   : Bool := false
  wr   : Bool := false
  read : Option Bool := none
  unsettled : List Nat := []
  base : Line := 0
  last : Nat := 0
  deriving DecidableEq, Repr, Inhabited

/-- A plain store that has left a core and is not acknowledged, with the write number home gave it (R138, R159). -/
structure PendStore where
  q    : HomeReq
  done : Option Nat
  deriving DecidableEq, Repr

/-- A remap-filter entry (R265). -/
structure RemapEntry where
  valid : Bool := false
  big   : Bool := false
  aliasPage : Nat := 0
  actx  : Nat := 0
  primPage : Nat := 0
  pctx  : Nat := 0
  deriving DecidableEq, Repr, Inhabited

/-- A line of an instruction cache (R134): data, EX, and its poison marks. -/
structure ILine where
  data : Line := 0
  ex   : Bool := false
  poison : BitVec 8 := 0
  deriving DecidableEq, Repr, Inhabited

/-- An invalidation that an ICINV of a team has begun: `len` bytes from CODEBASE + `start` in a context (R306). -/
structure IcInv where
  team  : Nat
  ctx   : Nat
  base  : Nat
  start : Nat
  len   : Nat
  deriving DecidableEq, Repr

/-- A core: caches, remap filter, and matrix datapath queue (R134, R130, R524); FENCEMAP says which are fenced (R446). Free register
blocks, local memory and rows are what resident crews leave over. -/
structure CoreState where
  l1     : SMap L1Line := []
  /-- Plain stores on their way, in issue order. -/
  stores : List PendStore := []
  /-- Crew-scope operations that the L1 has performed and home has not acknowledged, in issue order (R171). -/
  ops    : List NearOp := []
  /-- Lines of PREFETCH requests that are not answered (R24). -/
  prefetches : List Nat := []
  icache : SMap ILine := []
  remap  : SMap RemapEntry := []
  jobs   : List AccOp := []
  /-- Invalidations of ICINV that proceed, oldest first (R306). -/
  icinvs : List IcInv := []
  deriving DecidableEq, Repr, Inhabited

/-- A line held by its home slice (R133, R138, R523), in one of the ways of its set (16 while a request is performed on a
line that no way holds). -/
structure L2Line where
  way    : Nat := 0
  data   : Line := 0
  dirty  : BitVec 128 := 0
  rd     : Bool := false
  wr     : Bool := false
  ex     : Bool := false
  policy : Nat := 0
  age    : Nat := 0
  pa     : Nat := 0
  host   : Bool := false
  sharers : List Nat := []
  pattern : Nat := 2
  poison : BitVec 8 := 0
  unsettled : List Nat := []
  deriving DecidableEq, Repr, Inhabited

/-- A write performed at home whose sharers have not all acknowledged it (R138, R160). -/
structure PendingWrite where
  wid    : Nat
  lid    : Nat
  waits  : List Nat
  notify : List Nat
  reply  : Instr
  /-- Further answers that wait for it: who asked, and the answer. -/
  more   : List (HomeReq × Instr) := []
  deriving DecidableEq, Repr

/-- A waiter registered at a home slice (R247, R359, R360): kind 0 lock, 1 transaction barrier, 2 WREG. -/
structure HomeWaiter where
  kind : Nat
  ctx  : Nat
  va   : Nat
  team : Nat
  q    : HomeReq
  deriving DecidableEq, Repr

/-- A registered range of the range-lock table of a die (R179). -/
structure RangeLock where
  die  : Nat
  pid  : Nat
  ctx  : Nat
  lo   : Nat
  hi   : Nat
  dst  : Bool
  deriving DecidableEq, Repr

/-- A Drover packet (R235 to R238): its bytes, source, descriptor and progress. -/
structure Packet where
  id    : Nat
  engine : Nat
  raw   : BitVec 512
  ctx   : Nat
  team  : Option Nat
  teamIdx : Nat
  crew  : Nat
  grid  : Nat
  batch : Word
  queue : Option Nat
  stream : Nat
  accepted : Bool := false
  started : Bool := false
  /-- The tile or group descriptor (R241, R251), and whether its read is on its way. -/
  desc  : Option (BitVec 512) := none
  asked : Bool := false
  /-- Peer port and peer chip of a packet that writes on another chip (R250, R267). -/
  route : Option (Nat × Nat) := none
  /-- Units whose writes have been issued: destination bytes, or rows of GATHER-ROWS (R479). -/
  pos   : Nat := 0
  /-- Reads on their way, and what has returned: byte offset in the unit and value. -/
  reads : Nat := 0
  got   : List (Nat × Nat) := []
  /-- The index and the bytes read of a row of GATHER-ROWS: destination, size, value (R243). -/
  index : Option Nat := none
  buf   : List (Nat × Nat × Nat) := []
  /-- Writes on their way. -/
  outs  : List HomeReq := []
  /-- Bytes acknowledged, and bytes arrived for (R245). -/
  acked : Nat := 0
  arrived : Nat := 0
  /-- Value that a byte of the source had before the packet wrote it (R240). -/
  before : SMap Nat := []
  failed : Option BadAccess := none
  nmIdx : Nat := 0
  nmStep : Nat := 0
  /-- Waiting for a peer's report, a channel engine or an escalation. -/
  waiting : Bool := false
  /-- The last arrivals have been sent. -/
  closing : Bool := false
  /-- Stopped by an abort of its group (R515), or by the kill of its context (R514). -/
  aborted : Bool := false
  stop  : Bool := false
  /-- It has failed, and its record waits to be appended (R481). -/
  reported : Bool := false
  deriving DecidableEq, Repr

/-- What ends once a failure record has been appended (R481): a packet, or the operation of an NMCMD in its team's batch. -/
inductive RecordEnd where
  | packet (pid : Nat)
  | command (team : Option Nat) (batch : Word)
  deriving DecidableEq, Repr

/-- A submission of a channel engine (R252, R253): its commands by index as read, the index reading has reached, the
command to run next, and who waits for it. -/
structure Submission where
  id    : Nat
  ctx   : Nat
  src   : Nat
  cmds  : SMap (BitVec 128)
  upto  : Nat
  first : Nat
  idx   : Nat
  pid   : Option Nat
  team  : Option Nat
  batch : Word
  grid  : Nat
  crew  : Nat
  teamIdx : Nat
  taken : Bool := false
  begun : Bool := false
  /-- The fault of the first command that could not be read, and the failure of the command at `idx`. -/
  readBad : Option BadAccess := none
  failed : Option BadAccess := none
  /-- Writes at home slices that are not acknowledged (R150). -/
  outs  : Nat := 0
  deriving DecidableEq, Repr

/-- A channel engine (R149 to R154, R252 to R254): submissions in its places and those that wait for one, accumulators
(element i of bank b at key `256 * b + i`), poisoned accumulators, the bound parameter block, the last context, the next
step of a RUN, and where it stands in arbitration (R153). -/
structure ChanEngine where
  subs   : List Submission := []
  queue  : List Submission := []
  acc    : SMap Word := []
  poison : BitVec 16 := 0
  bound  : Option (BitVec 512) := none
  lastCtx : Option Nat := none
  step   : Nat := 0
  /-- The next row's activation is exposed. -/
  exposed : Bool := true
  suspended : Bool := false
  window : Bool := false
  /-- A read of a parameter block, or an escalation, is on its way. -/
  waiting : Bool := false
  /-- Answers to the engine's own reads that it has not looked at. -/
  answers : List (HomeReq × Option Nat × Option BadAccess) := []
  /-- The engine is at a row that it does not reach directly, and leaves its channel to ordinary requests (R149). -/
  netting : Bool := false
  /-- Ordinary requests that wait for the channel, and engines with a network row in it (R149, R153). -/
  waits  : List HomeReq := []
  wants  : List Nat := []
  /-- The stream at which a step of a RUN stands, and the bytes it has read: stream and row (R151). -/
  phase  : Nat := 0
  bufs   : List (Nat × List Byte) := []
  /-- Line reads of a row outside the stack that are on their way, and their answers when all are there (R150). -/
  rowReads : Nat := 0
  rowIn  : List (HomeReq × Option Nat × Option BadAccess) := []
  /-- The line stores of a row outside the stack are on their way, or acknowledged (R150, R482). -/
  sent   : Bool := false
  deriving DecidableEq, Repr, Inhabited

/-- A message to a peer chip (R250, R267, R491, R515): a piece of a packet or its arrival, ABORT of a group, an abort of a
barrier, and the reports that answer inbound requests. -/
inductive PeerMsg where
  | step (port peer : Nat) (r : InboundReq)
  | abort (port group : Nat)
  | tbAbort (port peer tb : Nat)
  | arrived (peer tag : Nat)
  | refused (peer tag accepted : Nat)
  deriving DecidableEq, Repr

/-- An inbound request of a peer that a Drover engine is performing (R250, R267). -/
structure Inbound where
  id    : Nat
  r     : InboundReq
  ctx   : Nat
  outs  : List HomeReq
  arriving : Bool
  failed : Bool
  /-- Have its writes been issued: a piece waits for the earlier ones of its packet (R240)? -/
  begun : Bool := false
  deriving DecidableEq, Repr

/-- What a Sage search was started for (R230, R233). -/
inductive SearchKind where
  | reclaim (team out queue : Nat)
  | pinq (team out : Nat)
  deriving DecidableEq, Repr

/-- A running Sage search (R230): pins seen in the slots and pins possibly seen. -/
structure Search where
  id   : Nat
  name : BitVec 48
  ctx  : Nat
  part : Nat
  kind : SearchKind
  /-- Slots (team, slot) that have held the name throughout so far. -/
  held : List (Nat × Nat)
  /-- Some slot held the name at some moment so far. -/
  seen : Bool
  deriving DecidableEq, Repr

/-- A free packet waiting for room in its queue (R234). -/
structure FreeAppend where
  id    : Nat
  ctx   : Nat
  queue : Nat
  name  : BitVec 48
  deferred : Bool
  slot  : Option Nat
  deriving DecidableEq, Repr

/-- A 64-byte half of the bridge's host-facing cache (R142, R259): 1 shared or 2 exclusive, its data, whether
they differ from the host's, and the poison marks of its two sectors (R493). -/
structure HostHalf where
  state : Nat := 0
  data  : BitVec 512 := 0
  dirty : Bool := false
  poison : BitVec 2 := 0
  deriving DecidableEq, Repr, Inhabited

/-- A request that the bridge has sent to the host and that is not answered (R259 to R261): the request it serves, the
phase of the compare-and-swap loop, retries, the value last read. `done` counts words of an atomic request, or halves of a
line that have been brought. -/
structure BridgeReq where
  id    : Nat
  q     : HomeReq
  pa    : Nat
  stage : Nat
  tries : Nat
  old   : Nat
  fill  : Option FillData
  /-- Words of an atomic request done so far, old values of its lanes, and the first failure (R260, R261). -/
  done  : Nat := 0
  vals  : List (Nat × Nat) := []
  bad   : Option BadAccess := none
  deriving DecidableEq, Repr

/-- An open escalation to the host (R444, R477, R495): the function, its tag, and what waits for the reply: requests and
engines with the fault each met, teams; `key` is a grid, a bucket, a core, a group or the object of a wait. -/
structure Escalation where
  fn    : Nat
  tag   : Nat
  ctx   : Nat
  page  : Nat
  reqs  : List (HomeReq × BadAccess)
  teams : List Nat
  pkts  : List Nat
  engines : List (Nat × BadAccess)
  bad   : BadAccess
  key   : Nat
  deriving DecidableEq, Repr

/-- The ordered paths of messages (R138, R140): a core's path to a slice, a slice's channel back to a cache, a peer
port; `free` messages are not ordered. -/
inductive Chan where
  | path (core slice : Nat)
  | back (slice core : Nat)
  | peer (rank : Nat)
  | free
  deriving DecidableEq, Repr

/-- A message or hardware action in flight: it may happen once `due` is reached and nothing earlier is left on its
channel. -/
structure Pending where
  chan : Chan
  due  : Nat
  ev   : Instr
  deriving DecidableEq, Repr

/-- A launch record handed over by LAUNCH (R370): the launching team, its outstanding entry, the record, new ARGS. -/
structure LaunchReq where
  team : Nat
  out  : Nat
  grid : Nat
  ctx  : Nat
  addr : Nat
  args : Option (BitVec 64)
  deriving DecidableEq, Repr

/-- An acceptance of a SINGLE graph that waits (R211): its queue, the graph object and its context, the queue's PRIO. -/
structure SingleWait where
  part  : Nat
  queue : Nat
  ctx   : Nat
  graph : Nat
  prio  : Nat
  /-- The wait has an entry in the wait-for table, and it is in the extension. -/
  tracked : Bool := true
  ext   : Bool := false
  deriving DecidableEq, Repr

/-- A parked-pin entry that is to be removed once the searches that began before its slot was set are over (R232). -/
structure PinDrop where
  entry : Nat
  waits : List Nat
  deriving DecidableEq, Repr

/-- The reasons a step can stop with a fault. -/
inductive Fault where
  /-- Raised by no meaning: the spec gives every instruction and event an effect (a trap, a host packet, a dropped
  request). Safe. -/
  | undefinedEffect
  deriving DecidableEq, Repr

/-- The reasons an instruction can be refused. -/
inductive Refusal where
  /-- Raised by Dispatch for an instruction that has no meaning yet. Safe: the run stops. -/
  | notModelled (mnemonic : String)
  deriving DecidableEq, Repr

/-- The device. -/
structure State where
  /-- Step counter: the argument of every free value (the model's own field, log entry 2). -/
  tick   : Nat := 0
  /-- Clock: clk since reset (R78). -/
  clk    : Nat := 0
  powered : Bool := true
  bootFailed : Bool := false
  /-- Next grid or instance handle (R77). -/
  nextHandle : Nat := 1
  nextId : Nat := 1
  /-- Key of the team whose instruction runs (the model's own field). -/
  cur    : Nat := 0
  teams  : SMap Team := []
  crews  : SMap Crew := []
  grids  : SMap Grid := []
  insts  : SMap Instance := []
  bars   : List (BarId × Bar) := []
  clusters : SMap Cluster := []
  cores  : SMap CoreState := []
  /-- Device physical memory (R128) and its poison marks by 16-byte half-sector: a 32-byte sector is poisoned while
  either half is marked, and a write of a whole half clears its mark (R493). -/
  dram   : Mem := []
  poison : List Nat := []
  /-- Lines held by home slices, by line identifier (R138). -/
  l2     : SMap L2Line := []
  writes : List PendingWrite := []
  fills  : List (Nat × List HomeReq) := []
  waiters : List HomeWaiter := []
  ranges : List RangeLock := []
  /-- Translations cached by the controllers: context, page, its entry, and the controller (R129). -/
  tlb    : List (Nat × Nat × BitVec 64 × Nat) := []
  /-- Replacement-class tables: key `8 * context + entry` (R132). -/
  rct    : SMap Word := []
  /-- Management registers by offset (R263). -/
  mgmt   : SMap (BitVec 64) := []
  /-- M0 to M7 (R268) and the OTP leaf index (R269). -/
  meas   : SMap (BitVec 256) := []
  leaf   : Nat := 0
  /-- The digest of the LMS public key that is fused in OTP (R268). -/
  otp    : BitVec 256 := 0
  /-- Launch units (R203 to R207): records handed over, queues found unreadable, queue served last. -/
  launches : List (Nat × LaunchReq) := []
  badQueues : List Nat := []
  singles : List SingleWait := []
  lastQueue : SMap Nat := []
  packets : List Packet := []
  droverTurn : SMap Nat := []
  chans  : SMap ChanEngine := []
  searches : List Search := []
  pinDrops : List PinDrop := []
  /-- Deferred filter (R233). -/
  filter : SMap Nat := []
  frees  : List FreeAppend := []
  /-- Host event packets that wait (R271). -/
  heq    : List (BitVec 512) := []
  /-- The slot claimed for the first of them (R204). -/
  heqSlot : Option Nat := none
  /-- What the failure records among them end, in order (R481). -/
  recordEnds : List RecordEnd := []
  /-- Kills of contexts that wait for packets to stop: context, groups of its collectives, locks of its teams (R514). -/
  kills  : List (Nat × List Nat × List Nat) := []
  escs   : List Escalation := []
  nextTag : Nat := 1
  linkUp : Bool := true
  bridge : List BridgeReq := []
  /-- The 64-byte host halves that the bridge holds, by host address / 64 (R142, R259). -/
  halves : SMap HostHalf := []
  /-- Device lines that the host may hold (R258). -/
  hostLines : List Nat := []
  /-- Answers to host accesses: tag and bytes read (R258). -/
  hostOut : List (Nat × List Nat) := []
  /-- Messages sent to peer chips, and inbound requests in progress. -/
  peerOut : List PeerMsg := []
  inbound : List Inbound := []
  /-- Bytes accepted so far of a peer's packet: peer, tag, count (R491). -/
  inboundBytes : List (Nat × Nat × Nat) := []
  /-- Packets of peers of which this chip has refused a piece, by peer and tag: their arrival is not made (R245, R491). -/
  inboundRefused : List (Nat × Nat) := []
  portsDown : List Nat := []
  aborts : List Nat := []
  /-- Units stopped by an SRAM error: UNITKIND and unit, or die where UNIT is 0 (R494). -/
  stopped : List (Nat × Nat) := []
  killed : List Nat := []
  /-- Thermal state: dies above the limits of R36 that stopped issue. -/
  hot    : List Nat := []
  /-- Messages in flight, in order of sending. -/
  agenda : List Pending := []
  /-- Outside events that wait, in order. -/
  inputs : List Instr := []
  deriving DecidableEq, Repr

/-- The device right after reset (R77, R263, R268): no work, empty caches, memory with nothing listed, and the
management registers at their reset values. -/
def State.reset : State where
  mgmt := [(0, 0x07680200 ||| Config.stepping.zeroExtend 64), (0x18, 256)]

end Sys2Proof.Machine
end

