-- ==== Sys2Proof/Machine/Ops.lean ====
section
/-!
DEFINITION. Named operations over the state that every meaning is written in: registers, masks and predicates
(03_state), budget charges (08_scheduling R222 to R224), messages, host event packets (R271), the end of a team and of
a crew (R301, R443), taking an exception and returning from one (22_failure_model).
-/
namespace Sys2Proof.Machine

/-! ### Bits and numbers -/

/-- Sign extension of the low `w` bits of a number, as an integer. -/
def sext (w x : Nat) : Int :=
  if x % 2 ^ w < 2 ^ (w - 1) then (x % 2 ^ w : Nat) else ((x % 2 ^ w : Nat) : Int) - 2 ^ w

/-- The low `w` bits of an integer. -/
def wrapNat (w : Nat) (x : Int) : Nat := (x % (2 ^ w : Nat)).toNat

/-- Bits `lo` to `lo + w - 1` of a number. -/
def bitsOf (x lo w : Nat) : Nat := x / 2 ^ lo % 2 ^ w

/-- Round a quotient up. -/
def ceilDiv (x y : Nat) : Nat := (x + y - 1) / y

/-- The number that `n` bytes spell, lowest first (R3). -/
def leNat : List Byte → Nat
  | [] => 0
  | b :: r => b.toNat + 256 * leNat r

/-- The `n` bytes of a number, lowest first (R3). -/
def leBytes : Nat → Nat → List Byte
  | 0, _ => []
  | n + 1, x => BitVec.ofNat 8 x :: leBytes n (x / 256)

/-- A packet from fields given as (byte offset, value). -/
def packFields (l : List (Nat × Nat)) : BitVec 512 :=
  BitVec.ofNat 512 (l.foldl (fun acc p => acc + p.2 * 2 ^ (8 * p.1)) 0)

/-- Number of one bits among the lowest `n` bits. -/
def countBits (x : Nat) : Nat → Nat
  | 0 => 0
  | n + 1 => countBits x n + (if x.testBit n then 1 else 0)

/-! ### Registers of a team -/

/-- The register `i` places after `r`, as field values count them (R68). -/
def regAt (r : Reg) (i : Nat) : Reg := Reg.ofCode (r.code + i)

/-- Is the register a vector register? -/
def isVec : Reg → Bool
  | .v _ => true
  | .s _ => false

/-- Scalar register `j`; s63 reads as zero (R67). -/
def Team.readS (t : Team) (j : Nat) : Word := if j = 63 then 0 else SMap.get 0 t.sregs j

/-- Write scalar register `j`; a write to s63 is discarded (R67). -/
def Team.writeS (t : Team) (j : Nat) (w : Word) : Team :=
  if j = 63 then t else { t with sregs := SMap.set 0 t.sregs j w }

/-- Vector register `j` in lane `l` (R86). -/
def Team.readV (t : Team) (j l : Nat) : Word := SMap.get 0 t.vregs (1024 * j + l)

/-- Write vector register `j` in lane `l`. -/
def Team.writeV (t : Team) (j l : Nat) (w : Word) : Team :=
  { t with vregs := SMap.set 0 t.vregs (1024 * j + l) w }

/-- A register as lane `l` reads it; a scalar is broadcast (R279). -/
def Team.rd (t : Team) (r : Reg) (l : Nat) : Word :=
  match r with
  | .v j => t.readV j l
  | .s j => t.readS j

/-- Write a register in lane `l`; a scalar has no lanes. -/
def Team.wr (t : Team) (r : Reg) (l : Nat) (w : Word) : Team :=
  match r with
  | .v j => t.writeV j l w
  | .s j => t.writeS j w

/-- A 64-bit operand: even register low, odd register high (R68). -/
def Team.rd64 (t : Team) (r : Reg) (l : Nat) : BitVec 64 := t.rd (regAt r 1) l ++ t.rd r l

/-- Write a 64-bit pair (R68). -/
def Team.wr64 (t : Team) (r : Reg) (l : Nat) (x : BitVec 64) : Team :=
  (t.wr r l (x.setWidth 32)).wr (regAt r 1) l (x.extractLsb' 32 32)

/-- A predicate as a mask over all lanes; p7 is true everywhere (R71). -/
def Team.predMask (t : Team) (p : Nat) : LaneMask :=
  if p = 7 then BitVec.allOnes 1024 else SMap.get 0 t.preds p

/-- A predicate bit (R71). -/
def Team.pred (t : Team) (p l : Nat) : Bool := (t.predMask p).getLsbD l

/-- Write a predicate in the lanes of `lanes`; other lanes keep their bit, a write to p7 is discarded (R69, R71). -/
def Team.writePred (t : Team) (p : Nat) (lanes val : LaneMask) : Team :=
  if p = 7 then t
  else { t with preds := SMap.set 0 t.preds p ((t.predMask p &&& ~~~lanes) ||| (val &&& lanes)) }

/-- All lanes that exist: 0 to TEAMLANES - 1 (R40). -/
def Team.laneSet (t : Team) : LaneMask := BitVec.ofNat 1024 (2 ^ t.lanes - 1)

/-- The lanes an instruction acts in: the active mask, restricted by a re-issue of RETT (R69, R441). -/
def Team.live (t : Team) : LaneMask :=
  match t.reissue with
  | none => t.mask
  | some m => t.mask &&& m

/-- The members of a mask among the lanes that exist, in ascending order. -/
def Team.lanesOf (t : Team) (m : LaneMask) : List Nat := (List.range t.lanes).filter (fun l => m.getLsbD l)

/-- Active lanes in ascending order. -/
def Team.actives (t : Team) : List Nat := t.lanesOf t.live

/-- A mask from a test on the lanes that exist. -/
def Team.maskOf (t : Team) (f : Nat → Bool) : LaneMask :=
  BitVec.ofNat 1024 ((List.range t.lanes).foldl (fun acc l => if f l then acc + 2 ^ l else acc) 0)

/-- Word `k` of a mask (R40). -/
def maskWord (m : LaneMask) (k : Nat) : Word := m.extractLsb' (32 * k) 32

/-- The summary word of the active mask: bit `k` when mask word `k` is not zero (R40). -/
def summaryWord (m : LaneMask) : Word :=
  BitVec.ofNat 32 ((List.range 32).foldl (fun acc k => if maskWord m k = 0 then acc else acc + 2 ^ k) 0)

/-- Number of passes an instruction sweeps (R40, R285). -/
def Team.passCount (t : Team) : Nat :=
  ((List.range (ceilDiv t.lanes 32)).filter (fun k => maskWord t.live k ≠ 0)).length

/-- Passes of a whole team: ⌈TEAMLANES / 32⌉ (R38). -/
def Team.passes (t : Team) : Nat := ceilDiv t.lanes 32

/-- Index of the guard predicate and its inversion (R72). -/
def Team.gp (t : Team) : Nat := t.mode.toNat % 8
def Team.ginv (t : Team) : Bool := t.mode.getLsbD 3
def Team.ftz (t : Team) : Bool := t.mode.getLsbD 4
def Team.etype (t : Team) : Nat := t.mode.toNat / 32 % 8
def Team.rnd (t : Team) : Nat := t.mode.toNat / 256 % 4
def Team.sat (t : Team) : Bool := t.mode.getLsbD 10
def Team.scope (t : Team) : Nat := t.mode.toNat / 2048 % 8
def Team.ord (t : Team) : Nat := t.mode.toNat / 16384

/-- The guard in lane `l` (R282). -/
def Team.guard (t : Team) (l : Nat) : Bool := xor (t.pred t.gp l) t.ginv

/-- The guard of the scalar datapath: it holds in at least one active lane (R282); in a handler, in lane 0 (R440). -/
def Team.guardAny (t : Team) : Bool :=
  if t.trap.inHandler then t.guard 0 else t.actives.any t.guard

/-- Write a destination: a scalar once (as lane 0), a vector register in each of the given lanes (R69). All sources
are read from `t` as it stood (R292). -/
def Team.wrLanes (t : Team) (d : Reg) (lanes : List Nat) (f : Nat → Word) : Team :=
  match d with
  | .s j => t.writeS j (f 0)
  | .v j => lanes.foldl (fun u l => u.writeV j l (f l)) t

/-- As `wrLanes`, for a pair. -/
def Team.wrLanes64 (t : Team) (d : Reg) (lanes : List Nat) (f : Nat → BitVec 64) : Team :=
  (t.wrLanes d lanes (fun l => (f l).setWidth 32)).wrLanes (regAt d 1) lanes (fun l => (f l).extractLsb' 32 32)

/-! ### Tables of the state -/

/-- Teams of an operation of the matrix datapath. -/
def AccOp.teams : AccOp → List Nat
  | .mma j => j.parts.map MmaPart.team
  | .drain _ ts _ _ _ _ => ts
  | .read _ t _ _ | .write _ t _ | .zero _ t _ _ | .scale _ t _ _ _ => [t]

/-- The crew of an operation of the matrix datapath. -/
def AccOp.crew : AccOp → Nat
  | .mma j => j.crew
  | .drain c _ _ _ _ _ | .read c _ _ _ | .write c _ _ | .zero c _ _ _ | .scale c _ _ _ _ => c

/-- The team whose instruction runs. -/
def State.me (s : State) : Team := SMap.get default s.teams s.cur

/-- Replace a team. -/
def State.setTeam (s : State) (k : Nat) (t : Team) : State := { s with teams := SMap.put s.teams k t }

/-- Replace the running team. -/
def State.setMe (s : State) (t : Team) : State := s.setTeam s.cur t

/-- Change the running team. -/
def State.mapMe (s : State) (f : Team → Team) : State := s.setMe (f s.me)

/-- Change a team if it is there. -/
def State.mapTeam (s : State) (k : Nat) (f : Team → Team) : State :=
  match SMap.look s.teams k with
  | none => s
  | some t => s.setTeam k (f t)

def State.crewAt (s : State) (k : Nat) : Crew := SMap.get default s.crews k
def State.setCrew (s : State) (k : Nat) (c : Crew) : State := { s with crews := SMap.put s.crews k c }
def State.mapCrew (s : State) (k : Nat) (f : Crew → Crew) : State :=
  match SMap.look s.crews k with
  | none => s
  | some c => s.setCrew k (f c)
def State.gridAt (s : State) (h : Nat) : Grid := SMap.get default s.grids h
def State.mapGrid (s : State) (h : Nat) (f : Grid → Grid) : State :=
  match SMap.look s.grids h with
  | none => s
  | some g => { s with grids := SMap.put s.grids h (f g) }
def State.coreAt (s : State) (c : Nat) : CoreState := SMap.get default s.cores c
def State.mapCore (s : State) (c : Nat) (f : CoreState → CoreState) : State :=
  { s with cores := SMap.set default s.cores c (f (s.coreAt c)) }
def State.clusterAt (s : State) (c : Nat) : Cluster := SMap.get default s.clusters c
def State.mapCluster (s : State) (c : Nat) (f : Cluster → Cluster) : State :=
  { s with clusters := SMap.set default s.clusters c (f (s.clusterAt c)) }
def State.engineAt (s : State) (e : Nat) : ChanEngine := SMap.get default s.chans e
def State.mapEngine (s : State) (e : Nat) (f : ChanEngine → ChanEngine) : State :=
  { s with chans := SMap.set default s.chans e (f (s.engineAt e)) }

/-- The crew, grid, core and context of the running team. -/
def State.myCrew (s : State) : Crew := s.crewAt s.me.crew
def State.myGrid (s : State) : Grid := s.gridAt s.myCrew.grid
def State.myCore (s : State) : Nat := s.myCrew.core
def State.myCtx (s : State) : Nat := s.myCrew.ctx
def State.crewOf (s : State) (t : Team) : Crew := s.crewAt t.crew
def State.gridOf (s : State) (t : Team) : Grid := s.gridAt (s.crewOf t).grid
def State.ctxOf (s : State) (t : Team) : Nat := (s.crewOf t).ctx

/-- Cluster of a core: four cores each (01_device R15). -/
def clusterOfCore (core : Nat) : Nat := core / 4
/-- Die of a core: 64 cores each. -/
def dieOfCore (core : Nat) : Nat := core / 64

/-- Keys of the teams of a crew that have not ended, in ascending TEAM order. -/
def State.teamsOfCrew (s : State) (crew : Nat) : List Nat :=
  (s.teams.filter (fun p => p.2.crew = crew)).map Prod.fst

/-- Supervisor privilege: contexts 0 to 3 (R432). -/
def State.supervisor (s : State) : Bool := decide (s.myCtx < 4)

/-- A management register (R262). -/
def State.reg (s : State) (off : Nat) : BitVec 64 := SMap.get 0 s.mgmt off
def State.setReg (s : State) (off : Nat) (v : BitVec 64) : State := { s with mgmt := SMap.set 0 s.mgmt off v }

/-- The partition of a cluster, from PARTMAP0 and PARTMAP1 (R263). -/
def State.partOfCluster (s : State) (c : Nat) : Nat :=
  bitsOf (s.reg (0x200 + 8 * (c / 32))).toNat (2 * (c % 32)) 2

/-- Put a message or action in flight. -/
def State.send (s : State) (c : Chan) (ev : Instr) : State :=
  { s with agenda := s.agenda ++ [{ chan := c, due := 0, ev := ev }] }

/-- Put an action in flight that happens no earlier than a clock value. -/
def State.later (s : State) (due : Nat) (ev : Instr) : State :=
  { s with agenda := s.agenda ++ [{ chan := .free, due := due, ev := ev }] }

/-- A fresh identifier for a write, packet, search or request. -/
def State.fresh (s : State) : State := { s with nextId := s.nextId + 1 }

/-! ### Host event packets -/

/-- Function bytes whose packets take no reply and may be dropped (R271). -/
def heqDroppable (fn : Nat) (untracked : Bool) : Bool :=
  decide (fn ≥ 7) || (decide (fn = 2) && untracked)

/-- Queue a packet for the host event queue: function byte, partition, context and detail fields (R270, R271). -/
def State.heqPush (s : State) (fn part ctx : Nat) (detail : List (Nat × Nat)) (untracked : Bool := false) : State :=
  if s.heq.length ≥ 256 ∧ heqDroppable fn untracked then
    s.setReg 0x30 (BitVec.ofNat 64 (((s.reg 0x30).toNat + 1) % 2 ^ 48))
  else
    { s with heq := s.heq ++ [packFields ([(0x08, fn), (0x09, part), (0x0A, ctx)] ++ detail)] }.send .free .heqRetry

/-! ### Event counters (R273, R274) -/

/-- A counter at `off` with index `idx` counts `n` more (R273); one that wraps sets OVF, and with MODESEL.CTROVF appends
its packet (R496). -/
def State.bump (s : State) (off idx part n : Nat) : State :=
  let old := (s.reg off).toNat
  let sum := old % 2 ^ 48 + n
  let s := s.setReg off (BitVec.ofNat 64 (sum % 2 ^ 48 + (if old ≥ 2 ^ 63 ∨ sum ≥ 2 ^ 48 then 2 ^ 63 else 0)))
  if sum ≥ 2 ^ 48 && (s.reg 0x100).getLsbD 7 && (s.reg 0x108).getLsbD 63 then s.heqPush 7 part 0 [(0x10, idx)] else s

/-- Offset of a counter value (R263). -/
def counterOff (cls unit ctr : Nat) : Nat := 0x100000 + 0x10000 * cls + 0x80 * unit + 8 * ctr

/-- A counter of class 4 counts `n` more (R274). -/
def State.countPart (s : State) (part ctr n : Nat) : State :=
  s.bump (counterOff 4 part ctr) (0x400000 + 256 * part + ctr) part n

/-- The counters of class `cls`, unit `unit` with source `code` count `n` more (R273). -/
def State.countUnit (s : State) (cls unit counters code n : Nat) : State :=
  (List.range counters).foldl (fun s c =>
    if (s.reg (counterOff cls unit c + 0x80000)).toNat % 256 = code ∧ code ≠ 0 then
      s.bump (counterOff cls unit c) (2 ^ 20 * cls + 256 * unit + c) 0 n
    else s) s

/-! ### Charges -/

/-- Take `c` units from a budget, which saturates at −2³¹ (R286). -/
def chargeTo (b : Int) (c : Nat) : Int := if b - c < -(2 ^ 31) then -(2 ^ 31) else b - c

def Team.chargeI (t : Team) (c : Nat) : Team := { t with ibud := chargeTo t.ibud c }
def Team.chargeM (t : Team) (c : Nat) : Team := { t with mbud := chargeTo t.mbud c }

/-- Did the team already charge the instruction it stands at (R222)? -/
def Team.charged (t : Team) : Bool := match t.stood with
  | some (pc, _) => decide (pc = t.pc)
  | none => false

/-- Has the instruction the team stands at already recorded its arrival (R225)? -/
def Team.arrived (t : Team) : Bool := match t.stood with
  | some (pc, a) => decide (pc = t.pc) && a
  | none => false

/-- Charge IBUD for an instruction, once (R222, R285). -/
def State.charge (s : State) (units : Nat) : State :=
  if s.me.charged then s else s.mapMe (fun t => t.chargeI units)

/-- Charge MBUD for requests as they leave the core (R222, R223). -/
def State.chargeMem (s : State) (units : Nat) : State :=
  s.mapMe (fun t => t.chargeM units)

/-! ### Barriers, triggers and the end of a team -/

def State.barAt (s : State) (b : BarId) : Bar :=
  match s.bars.find? (fun p => decide (p.1 = b)) with
  | some p => p.2
  | none => {}

def State.setBar (s : State) (b : BarId) (x : Bar) : State :=
  { s with bars := (b, x) :: s.bars.filter (fun p => decide (p.1 ≠ b)) }

/-- Size of a placement group in crews (R48). -/
def groupCrews (r : LaunchRec) : Nat := if r.kbar = 0 then 1 else ceilDiv r.kbar r.crewTeams

/-- Position of a team of a placement group in ascending (CREW, TEAM) order (R48). -/
def groupPos (r : LaunchRec) (group num idx : Nat) : Nat := (num - group * groupCrews r) * r.crewTeams + idx

/-- Participants of a placement group's barrier whose crews have not been placed yet (R48). -/
def State.unplaced (s : State) (b : BarId) : Nat :=
  match b with
  | .group g n =>
    let r := (s.gridAt g).launch
    let here := s.crews.filter fun p => decide (p.2.grid = g ∧ p.2.group = n)
    let placed := here.foldl (fun m p =>
      m + ((List.range r.crewTeams).filter fun i => decide (groupPos r n p.2.num i < r.kbar)).length) 0
    min r.kbar (min (groupCrews r) (r.crews - n * groupCrews r) * r.crewTeams) - placed
  | _ => 0

/-- A phase completes when as many arrivals are recorded as it has participants (R47, R48, R363): those in `parts` and
`more` that are not placed yet. -/
def Bar.settle (x : Bar) (more : Nat) : Bar :=
  if x.opened && decide (x.parts.length + more ≤ x.arrived.length) then
    { x with c := x.c + 1, arrived := [], opened := false }
  else x

/-- The end of a participant drops the participant count of every open phase; an arrival it has recorded stands (R47,
R48). -/
def State.leaveBars (s : State) (k : Nat) : State :=
  { s with bars := s.bars.map (fun p =>
      (p.1, Bar.settle { p.2 with parts := p.2.parts.filter (· ≠ k) } (s.unplaced p.1))) }

/-! ### Orders a team imposes on its later accesses (R162) -/

/-- Add an order that covers every access the team has issued so far. -/
def Team.hold (t : Team) (h : OrderHold) : Team :=
  { t with holds := t.holds ++ [{ h with id := t.nextOut, handler := t.trap.inHandler }] }

/-- A release, an acquire and a PHASE at a scope: row scope (6) orders row operations only (R156), and an acquire at
cluster scope or wider waits for settling (R160). -/
def releaseHold (scope : Nat) : OrderHold :=
  { id := 0, rel := true, acq := false, phase := false, asyncs := true, rowsOnly := decide (scope = 6), settle := false }
def acquireHold (scope : Nat) : OrderHold :=
  { id := 0, rel := false, acq := true, phase := false, asyncs := false, rowsOnly := decide (scope = 6),
    settle := decide (2 ≤ scope) }
def phaseHold (scope : Nat) : OrderHold :=
  { id := 0, rel := true, acq := true, phase := true, asyncs := true, rowsOnly := decide (scope = 6),
    settle := decide (2 ≤ scope) }
/-- EFENCE holds later asynchronous issues only (R177). -/
def efenceHold : OrderHold :=
  { id := 0, rel := false, acq := false, phase := false, asyncs := true, rowsOnly := false, settle := false }

/-- The wait that the table records for a team: the one it stands at, or one that a strike left standing (R218, R225). -/
def Team.waitsOn (t : Team) : Option WaitObj :=
  match t.standing with
  | some o => some o
  | none => t.wait

/-- The deferred-filter bucket of a name (R231). -/
def pinBucket (n : BitVec 48) : Nat :=
  (bitsOf n.toNat 0 13 ^^^ bitsOf n.toNat 13 13 ^^^ bitsOf n.toNat 26 13 ^^^ bitsOf n.toNat 39 9)

/-- Removing a pin starts a rescan when the name's counter is not zero (R233). -/
def State.rescanFor (s : State) (n : BitVec 48) : State :=
  if SMap.get 0 s.filter (pinBucket n) = 0 then s else s.send .free (.deferredRescan (pinBucket n))

/-- A slot of a team no longer holds what it held: running searches may or may not have sampled it before (R230). -/
def State.slotChanged (s : State) (k n : Nat) : State :=
  { s with searches := s.searches.map fun x => { x with held := x.held.filter fun p => decide (p ≠ (k, n)) } }

/-- Clear every pin slot of a team (R301 step 3). -/
def State.clearPins (s : State) (k : Nat) : State :=
  match SMap.look s.teams k with
  | none => s
  | some t =>
    (t.pins.filter (fun p => p.2.valid)).foldl (fun s p => (s.slotChanged k p.1).rescanFor p.2.name)
      (s.setTeam k { t with pins := [] })

/-- Has a crew triggered: each of its teams has executed TRIGGER or ended (R53)? -/
def State.crewTriggered (s : State) (crew : Nat) : Bool :=
  (s.teamsOfCrew crew).all (fun k => (SMap.get default s.teams k).triggered)

/-- Record a crew's trigger; when every crew has triggered, dependants of the node may start (R53, R210). -/
def State.noteTrigger (s : State) (crew : Nat) : State :=
  let c := s.crewAt crew
  if s.crewTriggered crew then
    let s := s.mapGrid c.grid (fun g =>
      if g.crewsTriggered.contains c.num then g else { g with crewsTriggered := c.num :: g.crewsTriggered })
    let g := s.gridAt c.grid
    if g.crewsTriggered.length = g.launch.crews ∧ !g.triggered then
      let s := s.mapGrid c.grid (fun g => { g with triggered := true })
      match g.inst with
      | none => s
      | some (i, n) =>
        match SMap.look s.insts i with
        | none => s
        | some x =>
          let nodes := x.nodes.mapIdx (fun j nd => if j = n then { nd with released := true } else nd)
          let s := { s with insts := SMap.put s.insts i { x with nodes := nodes } }
          ((x.nodes[n]?.map (fun nd => nd.succs)).getD []).foldl (fun s j => s.send .free (.nodeStart i j)) s
    else s
  else s

/-- Has a grid tasks that no hidden grid holds yet, or a launch record not yet accepted (R51)? -/
def State.offspring (s : State) (h : Nat) : Bool :=
  s.clusters.any (fun p => p.2.groups.any (fun g => decide (g.grid = h))) ||
    s.launches.any (fun p => decide (p.2.grid = h)) ||
    s.agenda.any (fun p => match p.ev with
      | .stealReply _ ⟨_, some (g, _, _, _)⟩ => decide (g = h)
      | _ => false)

/-- Does a grid meet the conditions of its retirement (R51)? -/
def State.gridDone (s : State) (h : Nat) : Bool :=
  let g := s.gridAt h
  (SMap.look s.grids h).isSome && decide (g.crewsExited = g.launch.crews) && !g.killed && !s.offspring h &&
    s.grids.all (fun p => decide (p.2.parent ≠ some h))

/-- A halted team whose instruction is completed by an event resumes behind it: TNPC follows (R437). -/
def Team.follow (t : Team) : Team := if t.halted then { t with trap := { t.trap with tnpc := t.pc } } else t

/-- Dissolve the gang of an ending member (R382): every other member leaves it; one that waits at the latch, or whose
arrival there a strike left standing, takes cause 0x07 as pending work of its next issue; one that waits at the
rendezvous completes it, with its acquire at crew scope (R380). -/
def State.breakGang (s : State) (k : Nat) : State :=
  let t := SMap.get default s.teams k
  if t.gang.getLsbD 31 then
    let mem := t.gang.toNat % 65536
    let again := (s.crewAt t.crew).gangs.flatMap fun g => (g.latch.filter fun c => c.kept.isSome).map LatchCopy.team
    let s := s.mapCrew t.crew (fun c => { c with gangs := c.gangs.filter (fun g => g.members.toNat ≠ mem) })
    (s.teamsOfCrew t.crew).foldl (fun s j =>
      if j = k then s else s.mapTeam j (fun u =>
        let u := if again.contains j then { u with mma := none } else u
        if u.gang.toNat % 65536 = mem ∧ u.gang.getLsbD 31 then
          if u.wait = some .latch ∨ (u.arrived ∧ u.standing = some .latch) then
            { u with gang := 0, wait := none, standing := none, stood := none,
                     pending := u.pending ++ [({ cause := 7, sub := 0, prec := true, part := false, info0 := 0,
                                                 info1 := 0, lanes := 0 }, u.pc)] }
          else if u.arrived ∧ (∃ m, u.waitsOn = some (.gang m)) then
            ({ u.hold (acquireHold 1) with gang := 0, wait := none, standing := none, stood := none, pc := u.pc + 4 } :
              Team).follow
          else { u with gang := 0, standing := if u.standing = some .latch then none else u.standing }
        else u)) s
  else s

/-- Parked-pin entries are to be removed for team `k`, once the searches `waits` are over (R231, R232). -/
def State.dropPins (s : State) (k : Nat) (entries waits : List Nat) : State :=
  if entries = [] then s
  else ({ s with pinDrops := s.pinDrops ++ entries.map fun e => ⟨e, waits⟩ } : State).send .free (.pinSaveRetry k)

/-- The end of a team (R301 steps 3 to 5, R47, R53, R382, R384): pins, wait-for entries, barriers, gang and rows, then
the slot and its blocks, which the core pool gives to claims and the cluster to crews (R88, R213); parked-pin entries of
its save go too (R231). The crew ends with its last team, and the grid retires when R51 holds. -/
def State.endTeam (s : State) (k : Nat) : State :=
  match SMap.look s.teams k with
  | none => s
  | some t =>
    let s := (s.clearPins k).leaveBars k
    let s := s.breakGang k
    let s := s.mapCrew t.crew (fun c =>
      { c with owner := c.owner.filter (fun p => p.2 ≠ t.idx + 1),
               rendezvous := c.rendezvous.filter (fun p => p.2 ≠ k),
               handler := if c.handler = some k then none else c.handler })
    let s := { s with teams := SMap.drop s.teams k, waiters := s.waiters.filter (fun w => decide (w.team ≠ k)) }
    let s := s.noteTrigger t.crew
    let core := (s.crewAt t.crew).core
    let s := (s.dropPins k t.entries []).send .free (.claimGrant core)
    let s := s.send .free (.crewPlace (clusterOfCore core))
    if s.teamsOfCrew t.crew = [] then
      let h := (s.crewAt t.crew).grid
      let s := s.mapCrew t.crew (fun c => { c with exited := true, taken := false, taking := false, mem := [], memPoison := [], acc := [], owner := [] })
      let s := if (s.coreAt core).jobs.any (fun o => decide (o.crew = t.crew)) then
          s.mapCore core (fun c => { c with jobs := c.jobs.filter (fun o => decide (o.crew ≠ t.crew)) })
        else s
      let s := s.mapGrid h (fun g => { g with crewsExited := g.crewsExited + 1 })
      if s.gridDone h then s.send .free (.gridRetire h) else s
    else s

/-! ### Taking an exception and returning from one -/

/-- TCAUSE from a trap record (R434). -/
def trapWord (r : TrapRec) (sib : Bool) : Word :=
  BitVec.ofNat 32 (r.cause + 256 * r.sub + (if r.prec then 65536 else 0) +
    (if r.part && !sib then 131072 else 0) + (if sib then 262144 else 0))

/-- Terminate a crew (R443): every team ends, the crew counts as exited, and a record goes to the host. -/
def State.terminateCrew (s : State) (crew reason team : Nat) (r : TrapRec) (pc : Word) : State :=
  let c := s.crewAt crew
  let g := s.gridAt c.grid
  let s := (s.teamsOfCrew crew).foldl (fun s k => s.endTeam k) s
  s.heqPush 0x10 g.part c.ctx
    [(0x0C, c.grid), (0x10, c.num), (0x14, team), (0x15, reason), (0x18, (trapWord r false).toNat), (0x1C, pc.toNat),
     (0x20, r.info0), (0x24, r.info1), (0x28, c.core)]

/-- Send the halt to every other team of the crew (R437). -/
def State.haltCrew (s : State) (k : Nat) (r : TrapRec) : State :=
  (s.teamsOfCrew (SMap.get default s.teams k).crew).foldl
    (fun s j => if j = k ∨ (SMap.get default s.teams j).halted then s
      else s.send .free (.haltArrive j r (Config.skid (s.tick + j) % 5))) s

/-- TAKING AN EXCEPTION (R439, R440): deliver `r` to team `k` at the instruction at `pc`, with resume PC `tnpc`. Held
as pending while another team of the crew runs its handler; without a handler, or in handler mode, the crew is
terminated. -/
def State.takeTrap (s : State) (k : Nat) (r : TrapRec) (pc tnpc : Word) : State :=
  match SMap.look s.teams k with
  | none => s
  | some t =>
    let busy := match (s.crewAt t.crew).handler with
      | some h => decide (h ≠ k)
      | none => false
    if busy then s.setTeam k { t with pending := t.pending ++ [(r, pc)] }
    else if t.trap.inHandler then s.terminateCrew t.crew 1 t.idx r pc
    else if t.trap.tvbase.getLsbD 0 then
      let tr := { t.trap with
        tcause := trapWord r false, tpc := pc, tnpc := tnpc, tinfo0 := BitVec.ofNat 32 r.info0,
        tinfo1 := BitVec.ofNat 32 r.info1, tskid := 0, restart := r.lanes, tmode := t.mode, inHandler := true }
      let t' := { t with trap := tr, mode := 7, pc := t.trap.tvbase &&& ~~~3, reissue := none, wait := none,
                         halt := none, halted := false }
      ((s.setTeam k t').mapCrew t.crew (fun c => { c with handler := some k })).haltCrew k r
    else s.terminateCrew t.crew 0 t.idx r pc

/-- Resume PC of a cause: the next instruction for TRAP and SYSCALL, else the instruction itself (R436). -/
def resumePc (r : TrapRec) (pc : Word) : Word := if r.cause = 4 ∨ r.cause = 5 then pc + 4 else pc

/-- A trap of the running team at its own instruction (R436). -/
def State.trap (s : State) (r : TrapRec) : State := s.takeTrap s.cur r s.me.pc (resumePc r s.me.pc)

/-- A precise trap with detail words (R436). -/
def preciseTrap (cause sub info0 info1 : Nat) (lanes : LaneMask := 0) : TrapRec :=
  { cause := cause, sub := sub, prec := true, part := false, info0 := info0, info1 := info1, lanes := lanes }

/-- A record with no trap behind it. -/
def noTrap : TrapRec := { preciseTrap 0 0 0 0 with prec := false }

/-- The halt stops a sibling (R437 step 3): it records the trap of the faulting team with SIB = 1. -/
def Team.stopHalted (t : Team) (h : HaltState) : Team :=
  { t with halt := none, halted := true,
           trap := { t.trap with tcause := trapWord h.info true, tnpc := t.pc, tinfo0 := BitVec.ofNat 32 h.info.info0,
                                 tinfo1 := BitVec.ofNat 32 h.info.info1, tskid := BitVec.ofNat 32 h.count,
                                 restart := 0 } }

/-- Release the crew (R441): halts still on their way are withdrawn, and each halted sibling resumes at its TNPC; or
the lowest team with a pending fault takes its handler (R439). -/
def State.releaseCrew (s : State) (crew : Nat) : State :=
  let ks := s.teamsOfCrew crew
  let s := s.mapCrew crew (fun c => { c with handler := none })
  match ks.find? (fun k => decide ((SMap.get default s.teams k).pending ≠ [])) with
  | some k =>
    let t := SMap.get default s.teams k
    match t.pending with
    | (r, pc) :: rest => (s.setTeam k { t with pending := rest, halted := false }).takeTrap k r pc (resumePc r pc)
    | [] => s
  | none =>
    let s := { s with agenda := s.agenda.filter (fun p => match p.ev with
      | .haltArrive j _ _ => !ks.contains j
      | _ => true) }
    ks.foldl (fun s k => s.mapTeam k (fun t =>
      if t.halted then { t with halted := false, pc := t.trap.tnpc } else { t with halt := none })) s

/-- Has a faulted access of the team still to be issued again: its trap is held, its handler runs, or its re-issue is under way
(R439, R441, R470)? -/
def Team.againDue (t : Team) : Bool :=
  t.reissue.isSome || (t.trap.inHandler && t.trap.tcause.getLsbD 17) || t.pending.any fun p => p.1.part

/-- A wait that a strike left standing stays registered until its instruction completes or the wait ends (R225). -/
def Team.keeps (t : Team) : Option WaitObj := if t.charged then none else t.standing

/-- Does the gang's latch hold the running team's copy of a faulted MMA that it has issued again (R478)? -/
def State.keptLatched (s : State) : Bool :=
  s.myCrew.gangs.any fun g => g.latch.any fun c => decide (c.team = s.cur) && c.kept.isSome

/-- The next instruction (R275), or after a re-issue the end of RETT (R441): PC := TNPC, and the
crew is released unless a stop of R460 is still to be raised. An MMA kept for a re-issue that was not made is dropped. -/
def State.advanceTo (s : State) (pc : Word) : State :=
  let t := s.me
  match t.reissue with
  | none => s.setMe { t with pc := pc, stood := none, standing := t.keeps, admission := 0 }
  | some _ =>
    let kept := t.mma.filter fun j => s.keptLatched || !(j.parts.any fun p => decide (p.team = s.cur ∧ p.pc = t.trap.tpc))
    let lines := if t.pending = [] then [] else t.faultLines
    let s := s.setMe { t with pc := t.trap.tnpc, stood := none, standing := t.keeps, admission := 0, reissue := none,
                              mma := kept, faultLines := lines,
                              scaleFaults := t.scaleFaults.filter (· ≠ t.trap.tpc) }
    if t.heldStop.isSome then s else s.releaseCrew t.crew

/-- Go on at the following word. -/
def State.advance (s : State) : State := s.advanceTo (s.me.pc + 4)

/-- RETURNING FROM AN EXCEPTION (R441): MODE := TMODE, H := 0; with PART, the instruction at TPC is issued again in the
lanes of the restart set that are active; otherwise, or with no such lane, the team goes on at TNPC and the crew is
released. -/
def State.returnFromTrap (s : State) : State :=
  let t := s.me
  let t' := { t with mode := t.trap.tmode, trap := { t.trap with inHandler := false } }
  let lanes := t.trap.restart &&& t.mask
  if t.trap.tcause.getLsbD 17 ∧ lanes ≠ 0 then
    s.setMe { t' with pc := t.trap.tpc, reissue := some lanes, stood := none }
  else
    (s.setMe { t' with reissue := some 0 }).advance

end Sys2Proof.Machine
end

