-- ==== Sys2Proof/Machine/Operands.lean ====
section
/-!
DEFINITION. Operand forms: for every instruction word, which registers its fields name, how it uses them, of which kind
and width they must be (R67, R68, R279, R342, R373 and the tables of chapters 12 to 14), and the check of a word at
issue (R447, R450): the lowest SUB code that applies is reported.
-/
namespace Sys2Proof.Machine

/-- How an instruction uses a register field. -/
inductive Use where
  | read | write | both
  deriving DecidableEq, Repr

/-- Which kind of register a field takes. -/
inductive RegKind where
  | any | scalar | vector
  deriving DecidableEq, Repr

/-- A register field: register, use, kind, number of registers, and what the register number must be a multiple of. -/
structure Role where
  reg   : Reg
  use   : Use
  kind  : RegKind
  width : Nat
  align : Nat
  deriving DecidableEq, Repr

/-- A parameter block: ten scalar registers from an even register (R375). -/
def blockRole (r : Reg) : Role := ⟨r, .read, .scalar, 10, 2⟩

/-- The register fields of an instruction word; events have none. -/
def roles : Instr → List Role
  | .bri a => [⟨a, .read, .scalar, 1, 1⟩]
  | .calli a => [⟨a, .read, .scalar, 1, 1⟩]
  | .icinv d a => [⟨d, .read, .scalar, 1, 1⟩, ⟨a, .read, .scalar, 1, 1⟩]
  | .sleep a => [⟨a, .read, .scalar, 1, 1⟩]
  | .mov d a => [⟨d, .write, .any, 1, 1⟩, ⟨a, .read, .any, 1, 1⟩]
  | .movi d _ => [⟨d, .write, .any, 1, 1⟩]
  | .movhi d _ => [⟨d, .both, .any, 1, 1⟩]
  | .add d a b => [⟨d, .write, .any, 1, 1⟩, ⟨a, .read, .any, 1, 1⟩, ⟨b, .read, .any, 1, 1⟩]
  | .addi d _ => [⟨d, .both, .any, 1, 1⟩]
  | .sub d a b => [⟨d, .write, .any, 1, 1⟩, ⟨a, .read, .any, 1, 1⟩, ⟨b, .read, .any, 1, 1⟩]
  | .mul d a b => [⟨d, .write, .any, 1, 1⟩, ⟨a, .read, .any, 1, 1⟩, ⟨b, .read, .any, 1, 1⟩]
  | .mulhi d a b => [⟨d, .write, .any, 1, 1⟩, ⟨a, .read, .any, 1, 1⟩, ⟨b, .read, .any, 1, 1⟩]
  | .mulhu d a b => [⟨d, .write, .any, 1, 1⟩, ⟨a, .read, .any, 1, 1⟩, ⟨b, .read, .any, 1, 1⟩]
  | .mad d a b => [⟨d, .both, .any, 1, 1⟩, ⟨a, .read, .any, 1, 1⟩, ⟨b, .read, .any, 1, 1⟩]
  | .min d a b => [⟨d, .write, .any, 1, 1⟩, ⟨a, .read, .any, 1, 1⟩, ⟨b, .read, .any, 1, 1⟩]
  | .max d a b => [⟨d, .write, .any, 1, 1⟩, ⟨a, .read, .any, 1, 1⟩, ⟨b, .read, .any, 1, 1⟩]
  | .minu d a b => [⟨d, .write, .any, 1, 1⟩, ⟨a, .read, .any, 1, 1⟩, ⟨b, .read, .any, 1, 1⟩]
  | .maxu d a b => [⟨d, .write, .any, 1, 1⟩, ⟨a, .read, .any, 1, 1⟩, ⟨b, .read, .any, 1, 1⟩]
  | .abs d a => [⟨d, .write, .any, 1, 1⟩, ⟨a, .read, .any, 1, 1⟩]
  | .neg d a => [⟨d, .write, .any, 1, 1⟩, ⟨a, .read, .any, 1, 1⟩]
  | .and d a b => [⟨d, .write, .any, 1, 1⟩, ⟨a, .read, .any, 1, 1⟩, ⟨b, .read, .any, 1, 1⟩]
  | .or d a b => [⟨d, .write, .any, 1, 1⟩, ⟨a, .read, .any, 1, 1⟩, ⟨b, .read, .any, 1, 1⟩]
  | .xor d a b => [⟨d, .write, .any, 1, 1⟩, ⟨a, .read, .any, 1, 1⟩, ⟨b, .read, .any, 1, 1⟩]
  | .andn d a b => [⟨d, .write, .any, 1, 1⟩, ⟨a, .read, .any, 1, 1⟩, ⟨b, .read, .any, 1, 1⟩]
  | .not d a => [⟨d, .write, .any, 1, 1⟩, ⟨a, .read, .any, 1, 1⟩]
  | .shl d a b => [⟨d, .write, .any, 1, 1⟩, ⟨a, .read, .any, 1, 1⟩, ⟨b, .read, .any, 1, 1⟩]
  | .shr d a b => [⟨d, .write, .any, 1, 1⟩, ⟨a, .read, .any, 1, 1⟩, ⟨b, .read, .any, 1, 1⟩]
  | .sar d a b => [⟨d, .write, .any, 1, 1⟩, ⟨a, .read, .any, 1, 1⟩, ⟨b, .read, .any, 1, 1⟩]
  | .rol d a b => [⟨d, .write, .any, 1, 1⟩, ⟨a, .read, .any, 1, 1⟩, ⟨b, .read, .any, 1, 1⟩]
  | .popc d a => [⟨d, .write, .any, 1, 1⟩, ⟨a, .read, .any, 1, 1⟩]
  | .clz d a => [⟨d, .write, .any, 1, 1⟩, ⟨a, .read, .any, 1, 1⟩]
  | .brev d a => [⟨d, .write, .any, 1, 1⟩, ⟨a, .read, .any, 1, 1⟩]
  | .bfx d a b => [⟨d, .write, .any, 1, 1⟩, ⟨a, .read, .any, 1, 1⟩, ⟨b, .read, .any, 1, 1⟩]
  | .bfi d a b => [⟨d, .both, .any, 1, 1⟩, ⟨a, .read, .any, 1, 1⟩, ⟨b, .read, .any, 1, 1⟩]
  | .add64 d a b => [⟨d, .write, .any, 2, 2⟩, ⟨a, .read, .any, 2, 2⟩, ⟨b, .read, .any, 2, 2⟩]
  | .sub64 d a b => [⟨d, .write, .any, 2, 2⟩, ⟨a, .read, .any, 2, 2⟩, ⟨b, .read, .any, 2, 2⟩]
  | .mad64 d a b => [⟨d, .both, .any, 2, 2⟩, ⟨a, .read, .any, 2, 2⟩, ⟨b, .read, .any, 2, 2⟩]
  | .lea d a b => [⟨d, .write, .any, 2, 2⟩, ⟨a, .read, .any, 2, 2⟩, ⟨b, .read, .any, 1, 1⟩]
  | .cmp _ _ _ a b => [⟨a, .read, .any, 1, 1⟩, ⟨b, .read, .any, 1, 1⟩]
  | .cmpu _ _ _ a b => [⟨a, .read, .any, 1, 1⟩, ⟨b, .read, .any, 1, 1⟩]
  | .sel d a b => [⟨d, .write, .any, 1, 1⟩, ⟨a, .read, .any, 1, 1⟩, ⟨b, .read, .any, 1, 1⟩]
  | .ptov d _ => [⟨d, .write, .vector, 1, 1⟩]
  | .vtop _ a => [⟨a, .read, .any, 1, 1⟩]
  | .fadd d a b => [⟨d, .write, .any, 1, 1⟩, ⟨a, .read, .any, 1, 1⟩, ⟨b, .read, .any, 1, 1⟩]
  | .fsub d a b => [⟨d, .write, .any, 1, 1⟩, ⟨a, .read, .any, 1, 1⟩, ⟨b, .read, .any, 1, 1⟩]
  | .fmul d a b => [⟨d, .write, .any, 1, 1⟩, ⟨a, .read, .any, 1, 1⟩, ⟨b, .read, .any, 1, 1⟩]
  | .ffma d a b => [⟨d, .both, .any, 1, 1⟩, ⟨a, .read, .any, 1, 1⟩, ⟨b, .read, .any, 1, 1⟩]
  | .fmin d a b => [⟨d, .write, .any, 1, 1⟩, ⟨a, .read, .any, 1, 1⟩, ⟨b, .read, .any, 1, 1⟩]
  | .fmax d a b => [⟨d, .write, .any, 1, 1⟩, ⟨a, .read, .any, 1, 1⟩, ⟨b, .read, .any, 1, 1⟩]
  | .fabs d a => [⟨d, .write, .any, 1, 1⟩, ⟨a, .read, .any, 1, 1⟩]
  | .fneg d a => [⟨d, .write, .any, 1, 1⟩, ⟨a, .read, .any, 1, 1⟩]
  | .fcmp _ _ _ a b => [⟨a, .read, .any, 1, 1⟩, ⟨b, .read, .any, 1, 1⟩]
  | .frcp d a => [⟨d, .write, .any, 1, 1⟩, ⟨a, .read, .any, 1, 1⟩]
  | .frsq d a => [⟨d, .write, .any, 1, 1⟩, ⟨a, .read, .any, 1, 1⟩]
  | .fsqrt d a => [⟨d, .write, .any, 1, 1⟩, ⟨a, .read, .any, 1, 1⟩]
  | .fexp2 d a => [⟨d, .write, .any, 1, 1⟩, ⟨a, .read, .any, 1, 1⟩]
  | .flog2 d a => [⟨d, .write, .any, 1, 1⟩, ⟨a, .read, .any, 1, 1⟩]
  | .ftanh d a => [⟨d, .write, .any, 1, 1⟩, ⟨a, .read, .any, 1, 1⟩]
  | .frnd d a => [⟨d, .write, .any, 1, 1⟩, ⟨a, .read, .any, 1, 1⟩]
  | .cvt d a _ _ => [⟨d, .write, .any, 1, 1⟩, ⟨a, .read, .any, 1, 1⟩]
  | .pack d a b => [⟨d, .write, .any, 1, 1⟩, ⟨a, .read, .any, 1, 1⟩, ⟨b, .read, .any, 1, 1⟩]
  | .unpackl d a => [⟨d, .write, .any, 1, 1⟩, ⟨a, .read, .any, 1, 1⟩]
  | .unpackh d a => [⟨d, .write, .any, 1, 1⟩, ⟨a, .read, .any, 1, 1⟩]
  | .fclass d a => [⟨d, .write, .any, 1, 1⟩, ⟨a, .read, .any, 1, 1⟩]
  | .shfl d a b => [⟨d, .write, .vector, 1, 1⟩, ⟨a, .read, .any, 1, 1⟩, ⟨b, .read, .any, 1, 1⟩]
  | .shflup d a b => [⟨d, .write, .vector, 1, 1⟩, ⟨a, .read, .any, 1, 1⟩, ⟨b, .read, .any, 1, 1⟩]
  | .shfldn d a b => [⟨d, .write, .vector, 1, 1⟩, ⟨a, .read, .any, 1, 1⟩, ⟨b, .read, .any, 1, 1⟩]
  | .shflx d a b => [⟨d, .write, .vector, 1, 1⟩, ⟨a, .read, .any, 1, 1⟩, ⟨b, .read, .any, 1, 1⟩]
  | .bcast d a b => [⟨d, .write, .vector, 1, 1⟩, ⟨a, .read, .any, 1, 1⟩, ⟨b, .read, .scalar, 1, 1⟩]
  | .rdfl d a => [⟨d, .write, .any, 1, 1⟩, ⟨a, .read, .any, 1, 1⟩]
  | .rdlane d a b => [⟨d, .write, .scalar, 1, 1⟩, ⟨a, .read, .vector, 1, 1⟩, ⟨b, .read, .scalar, 1, 1⟩]
  | .wrlane d a b => [⟨d, .write, .vector, 1, 1⟩, ⟨a, .read, .scalar, 1, 1⟩, ⟨b, .read, .scalar, 1, 1⟩]
  | .vote d _ _ _ => [⟨d, .write, .any, 1, 1⟩]
  | .red d a _ => [⟨d, .write, .any, 1, 1⟩, ⟨a, .read, .any, 1, 1⟩]
  | .scan d a _ _ => [⟨d, .write, .vector, 1, 1⟩, ⟨a, .read, .any, 1, 1⟩]
  | .movsr d _ => [⟨d, .write, .any, 1, 1⟩]
  | .movrs _ a => [⟨a, .read, .scalar, 1, 1⟩]
  | .ld8 d a b => [⟨d, .write, .any, 1, 1⟩, ⟨a, .read, .any, 2, 2⟩, ⟨b, .read, .any, 1, 1⟩]
  | .ld8s d a b => [⟨d, .write, .any, 1, 1⟩, ⟨a, .read, .any, 2, 2⟩, ⟨b, .read, .any, 1, 1⟩]
  | .ld16 d a b => [⟨d, .write, .any, 1, 1⟩, ⟨a, .read, .any, 2, 2⟩, ⟨b, .read, .any, 1, 1⟩]
  | .ld16s d a b => [⟨d, .write, .any, 1, 1⟩, ⟨a, .read, .any, 2, 2⟩, ⟨b, .read, .any, 1, 1⟩]
  | .ld32 d a b => [⟨d, .write, .any, 1, 1⟩, ⟨a, .read, .any, 2, 2⟩, ⟨b, .read, .any, 1, 1⟩]
  | .ld64 d a b => [⟨d, .write, .any, 2, 2⟩, ⟨a, .read, .any, 2, 2⟩, ⟨b, .read, .any, 1, 1⟩]
  | .ld128 d a b => [⟨d, .write, .any, 4, 4⟩, ⟨a, .read, .any, 2, 2⟩, ⟨b, .read, .any, 1, 1⟩]
  | .st4 d a b => [⟨d, .read, .any, 1, 1⟩, ⟨a, .read, .any, 2, 2⟩, ⟨b, .read, .any, 1, 1⟩]
  | .st8 d a b => [⟨d, .read, .any, 1, 1⟩, ⟨a, .read, .any, 2, 2⟩, ⟨b, .read, .any, 1, 1⟩]
  | .st16 d a b => [⟨d, .read, .any, 1, 1⟩, ⟨a, .read, .any, 2, 2⟩, ⟨b, .read, .any, 1, 1⟩]
  | .st32 d a b => [⟨d, .read, .any, 1, 1⟩, ⟨a, .read, .any, 2, 2⟩, ⟨b, .read, .any, 1, 1⟩]
  | .st64 d a b => [⟨d, .read, .any, 2, 2⟩, ⟨a, .read, .any, 2, 2⟩, ⟨b, .read, .any, 1, 1⟩]
  | .st128 d a b => [⟨d, .read, .any, 4, 4⟩, ⟨a, .read, .any, 2, 2⟩, ⟨b, .read, .any, 1, 1⟩]
  | .ldl32 d a b => [⟨d, .write, .any, 1, 1⟩, ⟨a, .read, .any, 1, 1⟩, ⟨b, .read, .any, 1, 1⟩]
  | .ldl128 d a b => [⟨d, .write, .any, 4, 4⟩, ⟨a, .read, .any, 1, 1⟩, ⟨b, .read, .any, 1, 1⟩]
  | .stl32 d a b => [⟨d, .read, .any, 1, 1⟩, ⟨a, .read, .any, 1, 1⟩, ⟨b, .read, .any, 1, 1⟩]
  | .stl128 d a b => [⟨d, .read, .any, 4, 4⟩, ⟨a, .read, .any, 1, 1⟩, ⟨b, .read, .any, 1, 1⟩]
  | .prefetch _ a b => [⟨a, .read, .any, 2, 2⟩, ⟨b, .read, .any, 1, 1⟩]
  | .discard d a b => [⟨d, .read, .any, 1, 1⟩, ⟨a, .read, .any, 2, 2⟩, ⟨b, .read, .any, 1, 1⟩]
  | .rowld d a b => [⟨d, .write, .vector, 4, 1⟩, ⟨a, .read, .any, 2, 2⟩, ⟨b, .read, .scalar, 1, 1⟩]
  | .rowst d a b => [⟨d, .read, .vector, 4, 1⟩, ⟨a, .read, .any, 2, 2⟩, ⟨b, .read, .scalar, 1, 1⟩]
  | .rowadd d a b => [⟨d, .read, .vector, 4, 1⟩, ⟨a, .read, .any, 2, 2⟩, ⟨b, .read, .scalar, 1, 1⟩]
  | .aadd d a b => [⟨d, .write, .any, 1, 1⟩, ⟨a, .read, .any, 2, 2⟩, ⟨b, .read, .any, 1, 1⟩]
  | .amin d a b => [⟨d, .write, .any, 1, 1⟩, ⟨a, .read, .any, 2, 2⟩, ⟨b, .read, .any, 1, 1⟩]
  | .amax d a b => [⟨d, .write, .any, 1, 1⟩, ⟨a, .read, .any, 2, 2⟩, ⟨b, .read, .any, 1, 1⟩]
  | .aminu d a b => [⟨d, .write, .any, 1, 1⟩, ⟨a, .read, .any, 2, 2⟩, ⟨b, .read, .any, 1, 1⟩]
  | .amaxu d a b => [⟨d, .write, .any, 1, 1⟩, ⟨a, .read, .any, 2, 2⟩, ⟨b, .read, .any, 1, 1⟩]
  | .aand d a b => [⟨d, .write, .any, 1, 1⟩, ⟨a, .read, .any, 2, 2⟩, ⟨b, .read, .any, 1, 1⟩]
  | .aor d a b => [⟨d, .write, .any, 1, 1⟩, ⟨a, .read, .any, 2, 2⟩, ⟨b, .read, .any, 1, 1⟩]
  | .axor d a b => [⟨d, .write, .any, 1, 1⟩, ⟨a, .read, .any, 2, 2⟩, ⟨b, .read, .any, 1, 1⟩]
  | .axch d a b => [⟨d, .write, .any, 1, 1⟩, ⟨a, .read, .any, 2, 2⟩, ⟨b, .read, .any, 1, 1⟩]
  | .acas d a b => [⟨d, .both, .any, 1, 1⟩, ⟨a, .read, .any, 2, 2⟩, ⟨b, .read, .any, 1, 1⟩]
  | .afadd d a b => [⟨d, .write, .any, 1, 1⟩, ⟨a, .read, .any, 2, 2⟩, ⟨b, .read, .any, 1, 1⟩]
  | .lock a => [⟨a, .read, .scalar, 2, 2⟩]
  | .unlock a => [⟨a, .read, .scalar, 2, 2⟩]
  | .wreg d a b => [⟨d, .write, .scalar, 1, 1⟩, ⟨a, .read, .scalar, 2, 2⟩, ⟨b, .read, .scalar, 1, 1⟩]
  | .whold a => [⟨a, .read, .scalar, 2, 2⟩]
  | .wdrop a => [⟨a, .read, .scalar, 2, 2⟩]
  | .bararr d _ => [⟨d, .write, .scalar, 1, 1⟩]
  | .barwait a _ => [⟨a, .read, .scalar, 1, 1⟩]
  | .tbinit a b => [⟨a, .read, .scalar, 2, 2⟩, ⟨b, .read, .scalar, 2, 2⟩]
  | .tbexp a b => [⟨a, .read, .scalar, 2, 2⟩, ⟨b, .read, .scalar, 2, 2⟩]
  | .tbarr a b => [⟨a, .read, .scalar, 2, 2⟩, ⟨b, .read, .scalar, 2, 2⟩]
  | .tbwait a b => [⟨a, .read, .scalar, 2, 2⟩, ⟨b, .read, .scalar, 1, 1⟩]
  | .tbtest d a => [⟨d, .write, .scalar, 2, 2⟩, ⟨a, .read, .scalar, 2, 2⟩]
  | .pin _ a => [⟨a, .read, .scalar, 2, 2⟩]
  | .reclaim d a b => [⟨d, .write, .scalar, 1, 1⟩, ⟨a, .read, .scalar, 2, 2⟩, ⟨b, .read, .scalar, 2, 2⟩]
  | .pinq d a => [⟨d, .write, .scalar, 1, 1⟩, ⟨a, .read, .scalar, 2, 2⟩]
  | .topup a b => [⟨a, .read, .scalar, 1, 1⟩, ⟨b, .read, .scalar, 2, 2⟩]
  | .bgrant d a b => [⟨d, .write, .scalar, 2, 2⟩, ⟨a, .read, .scalar, 1, 1⟩, ⟨b, .read, .scalar, 2, 2⟩]
  | .spawn a b => [⟨a, .read, .any, 1, 1⟩, ⟨b, .read, .vector, 8, 1⟩]
  | .launch d a b => [⟨d, .write, .scalar, 1, 1⟩, ⟨a, .read, .scalar, 2, 2⟩] ++
      (if b.code = 255 then [] else [⟨b, .read, .scalar, 2, 2⟩])
  | .gwait a => [⟨a, .read, .scalar, 1, 1⟩]
  | .cpy d a b => [⟨d, .read, .scalar, 2, 2⟩, ⟨a, .read, .scalar, 2, 2⟩, blockRole b]
  | .cpys d a b => [⟨d, .read, .scalar, 2, 2⟩, ⟨a, .read, .scalar, 2, 2⟩, blockRole b]
  | .cpyt d a b => [⟨d, .read, .scalar, 2, 2⟩, ⟨a, .read, .scalar, 2, 2⟩, blockRole b]
  | .cpyr d a b => [⟨d, .read, .scalar, 2, 2⟩, ⟨a, .read, .scalar, 2, 2⟩, blockRole b]
  | .rgath d a b => [⟨d, .read, .scalar, 2, 2⟩, ⟨a, .read, .scalar, 2, 2⟩, blockRole b]
  | .qsub a => [⟨a, .read, .scalar, 2, 2⟩]
  | .coll d a b => [⟨d, .read, .scalar, 2, 2⟩, ⟨a, .read, .scalar, 2, 2⟩, blockRole b]
  | .bseal d => [⟨d, .write, .scalar, 1, 1⟩]
  | .bwaity _ a => [⟨a, .read, .scalar, 1, 1⟩]
  | .nmcmd a b => [⟨a, .read, .scalar, 4, 4⟩, ⟨b, .read, .scalar, 1, 1⟩]
  | .nmblk a b => [⟨a, .read, .scalar, 2, 2⟩, blockRole b]
  | .gang a => [⟨a, .read, .scalar, 1, 1⟩]
  | .accalloc d a => [⟨d, .write, .scalar, 1, 1⟩, ⟨a, .read, .scalar, 1, 1⟩]
  | .accwin a b => [⟨a, .read, .scalar, 1, 1⟩, ⟨b, .read, .scalar, 1, 1⟩]
  | .mma d a b => [⟨d, .read, .vector, 1, 1⟩, ⟨a, .read, .scalar, 2, 2⟩, ⟨b, .read, .any, 2, 2⟩]
  | .mdrain d a => [⟨d, .read, .scalar, 1, 1⟩, ⟨a, .read, .scalar, 1, 1⟩]
  | .accrd d a b => [⟨d, .write, .any, 1, 1⟩, ⟨a, .read, .any, 1, 1⟩, ⟨b, .read, .any, 1, 1⟩]
  | .accwr d a b => [⟨d, .read, .any, 1, 1⟩, ⟨a, .read, .any, 1, 1⟩, ⟨b, .read, .any, 1, 1⟩]
  | .acczero a b => [⟨a, .read, .scalar, 1, 1⟩, ⟨b, .read, .scalar, 1, 1⟩]
  | .scld d a b => [⟨d, .write, .scalar, 1, 1⟩, ⟨a, .read, .scalar, 2, 2⟩, ⟨b, .read, .scalar, 1, 1⟩]
  | .ctr d a => [⟨d, .write, .scalar, 2, 2⟩, ⟨a, .read, .scalar, 1, 1⟩]
  | .evsel a b => [⟨a, .read, .scalar, 1, 1⟩, ⟨b, .read, .scalar, 1, 1⟩]
  | .syscall a => [⟨a, .read, .scalar, 1, 1⟩]
  | .privw d a b => [⟨d, .write, .scalar, 2, 2⟩, ⟨a, .read, .scalar, 1, 1⟩, ⟨b, .read, .scalar, 2, 2⟩]
  | _ => []

def Role.reads (r : Role) : Bool := decide (r.use ≠ .write)
def Role.writes (r : Role) : Bool := decide (r.use ≠ .read)

/-- Register codes that a role covers: vector j as j, scalar j as 192 + j (R67). -/
def Role.codes (r : Role) : List Nat := (List.range r.width).map (fun i => r.reg.code + i)

/-- Does the instruction name a vector register (R279)? BR and the predicate instructions name none. -/
def namesVector (i : Instr) : Bool := (roles i).any (fun r => isVec r.reg)

/-- Scalar destinations that may have vector sources (R279, R76). -/
def scalarDestAllowed : Instr → Bool
  | .rdfl _ _ | .rdlane _ _ _ | .red _ _ _ | .vote _ _ _ _ | .movsr _ _ => true
  | _ => false

/-- SUB 0x06: a scalar destination with a vector source (R279). -/
def scalarDestBreach (i : Instr) : Bool :=
  !scalarDestAllowed i && (roles i).any (fun r => r.writes && !isVec r.reg) &&
    (roles i).any (fun r => r.reads && isVec r.reg)

/-- The vector registers a handler may name: A of RDLANE and D of WRLANE (R440). -/
def handlerMayName : Instr → Bool
  | .rdlane _ _ _ | .wrlane _ _ _ => true
  | _ => false

/-- The instructions that change the mask (R457). -/
def changesMask : Instr → Bool
  | .split _ | .flip | .join | .lbegin | .lbrk _ | .lend _ => true
  | _ => false

/-- SUB 0x02 (and the SUB 0x01 cases of VOTE and RED): values a defined field does not take (R450, R458, R463). -/
def valueBreach : Instr → Option Nat
  | .setmode imm => if imm.toNat / 32 % 8 > 4 ∨ imm.toNat / 2048 % 8 = 7 then some 2 else none
  | .cmp cond comb _ _ _ | .cmpu cond comb _ _ _ => if cond.val ≥ 6 ∨ comb.val = 3 then some 2 else none
  | .fcmp _ comb _ _ _ => if comb.val = 3 then some 2 else none
  | .cvt _ _ tgt src =>
    if tgt.val ≥ 10 ∨ src.val ≥ 11 ∨ tgt = src ∨ (src.val = 10 ∧ tgt.val ≤ 4) then some 2 else none
  | .vote d _ pass op =>
    if pass.val ≠ 0 ∧ ¬ (op.val = 2 ∧ !isVec d) then some 1 else if op.val = 3 then some 2 else none
  | .red _ _ op => if op.val ≥ 11 then some 2 else none
  | .scan _ _ _ op => if op.val ≥ 11 then some 2 else none
  | .giveback n | .claim n => if n.val = 0 ∨ n.val ≥ 24 then some 2 else none
  | .cpy _ _ b | .cpys _ _ b | .cpyt _ _ b | .cpyr _ _ b | .rgath _ _ b | .coll _ _ b | .nmblk _ b =>
    if b.code > 192 + 54 then some 2 else none
  | _ => none

/-- SUB 0x03 for special registers: MOVRS to a vector special; SUB 0x06: LANE or SINKSITE to a scalar; SUB 0x07:
numbers 0x30 to 0xFF (R458). -/
def specialBreach : Instr → Option Nat
  | .movsr d sr =>
    if sr.toNat ≥ 0x30 then some 7
    else if (sr = 0x00 ∨ sr = 0x10) ∧ !isVec d then some 6 else none
  | .movrs sr _ => if sr = 0x00 ∨ sr = 0x10 then some 3 else if sr.toNat ≥ 0x30 then some 7 else none
  | _ => none

/-- SUB 0x08: MODE values an instruction does not accept (R283, R330). -/
def modeBreach (i : Instr) (etype : Nat) : Bool :=
  match i with
  | .pack _ _ _ | .unpackl _ _ | .unpackh _ _ => decide (etype < 2)
  | .rowadd _ _ _ => decide (etype ≠ 1 ∧ etype ≠ 3)
  | _ => false

/-- Every SUB code of cause 0x01 that a word breaks at issue (R450), sink-group shape apart. -/
def breaches (i : Instr) (t : Team) : List Nat :=
  let rs := roles i
  (valueBreach i).toList ++ (specialBreach i).toList ++
  (if rs.any (fun r => (r.kind = .scalar ∧ isVec r.reg) ∨ (r.kind = .vector ∧ !isVec r.reg)) then [3] else []) ++
  (if rs.any (fun r => isVec r.reg && decide (r.reg.code + r.width > t.window)) then [4] else []) ++
  (if rs.any (fun r => decide (r.reg.code % r.align ≠ 0)) then [5] else []) ++
  (if scalarDestBreach i then [6] else []) ++
  (if modeBreach i t.etype then [8] else []) ++
  (if i = .rett ∧ !t.trap.inHandler then [9] else []) ++
  (if t.trap.inHandler && ((namesVector i && !handlerMayName i) || changesMask i) then [10] else [])

/-- The smallest of a list of SUB codes. -/
def leastSub : List Nat → Option Nat
  | [] => none
  | x :: r => match leastSub r with
    | none => some x
    | some y => some (min x y)

/-- The word of an instruction, as TINFO0 of cause 0x01 records it (R450). -/
def wordOf (i : Instr) : Nat := (encodeNat i).getD 0

/-- The decode check of an instruction at issue (R447 step 1): the trap it raises, if any. -/
def decodeCheck (i : Instr) (t : Team) : Option TrapRec :=
  (leastSub (breaches i t)).map (fun sub => preciseTrap 1 sub (wordOf i) 0)

/-- The code under which the interlocks of R148 name SINKSITE. -/
def siteCode : Nat := 512

/-- Registers an instruction reads, for the interlocks of R148, R344 and R386: its source registers, and the
predicates it reads at 256 + p. -/
def regsRead (i : Instr) (t : Team) : List Nat :=
  ((roles i).filter Role.reads).flatMap Role.codes ++
  (match i with
   | .split p | .lbrk p | .ptov _ p => [256 + p.val]
   | .pand _ a b | .por _ a b | .pxor _ a b => [256 + a.val, 256 + b.val]
   | .pnot _ a => [256 + a.val]
   | .vote _ p _ _ => [256 + p.val]
   | .cmp _ _ p _ _ | .cmpu _ _ p _ _ | .fcmp _ _ p _ _ => [256 + p.val]
   | .ret => [192 + 61]
   | .movsr _ sr => if sr = 0x10 then [siteCode] else []
   | _ => []) ++ [256 + t.gp]

/-- Registers an instruction writes. -/
def regsWritten (i : Instr) : List Nat :=
  ((roles i).filter Role.writes).flatMap Role.codes ++
  (match i with
   | .pand d _ _ | .por d _ _ | .pxor d _ _ => [256 + d.val]
   | .pnot d _ => [256 + d.val]
   | .vtop p _ => [256 + p.val]
   | .cmp _ _ p _ _ | .cmpu _ _ p _ _ | .fcmp _ _ p _ _ => [256 + p.val]
   | .call _ | .calli _ => [192 + 61]
   | _ => [])

/-- Charge class of an opcode (R284); MMA is charged by R287 and group words of SINK by their own class. -/
def chargeClass : Instr → Nat
  | .bri _ | .call _ | .calli _ | .ret | .trigger | .mul _ _ _ => 2
  | .mulhi _ _ _ | .mulhu _ _ _ | .mad _ _ _ | .add64 _ _ _ | .sub64 _ _ _ | .lea _ _ _ => 2
  | .shfl _ _ _ | .shflup _ _ _ | .shfldn _ _ _ | .shflx _ _ _ | .bcast _ _ _ | .rdfl _ _ => 2
  | .rdlane _ _ _ | .wrlane _ _ _ | .vote _ _ _ _ | .ld8 _ _ _ | .ld8s _ _ _ | .ld16 _ _ _ => 2
  | .ld16s _ _ _ | .ld32 _ _ _ | .ld64 _ _ _ | .st4 _ _ _ | .st8 _ _ _ | .st16 _ _ _ => 2
  | .st32 _ _ _ | .st64 _ _ _ | .ldl128 _ _ _ | .stl128 _ _ _ | .prefetch _ _ _ | .pub => 2
  | .acq | .efence | .unlock _ | .whold _ | .wdrop _ | .bar _ => 2
  | .bararr _ _ | .barwait _ _ | .tbinit _ _ | .tbexp _ _ | .tbarr _ _ | .tbwait _ _ => 2
  | .tbtest _ _ | .pin _ _ | .unpin _ | .pinq _ _ | .gwait _ | .giveback _ => 2
  | .claim _ | .accalloc _ _ | .accwin _ _ | .accfree | .accrd _ _ _ | .accwr _ _ _ => 2
  | .acczero _ _ | .scld _ _ _ | .ctr _ _ | .evsel _ _ => 2
  | .ifence | .icinv _ _ | .mad64 _ _ _ | .frcp _ _ | .frsq _ _ | .fsqrt _ _ => 4
  | .fexp2 _ _ | .flog2 _ _ | .ftanh _ _ | .red _ _ _ | .scan _ _ _ _ | .ld128 _ _ _ => 4
  | .st128 _ _ _ | .discard _ _ _ | .rowld _ _ _ | .rowst _ _ _ | .rowadd _ _ _ | .aadd _ _ _ => 4
  | .amin _ _ _ | .amax _ _ _ | .aminu _ _ _ | .amaxu _ _ _ | .aand _ _ _ | .aor _ _ _ => 4
  | .axor _ _ _ | .axch _ _ _ | .acas _ _ _ | .afadd _ _ _ | .phase | .lock _ => 4
  | .wreg _ _ _ | .spawn _ _ | .cpy _ _ _ | .cpys _ _ _ | .cpyt _ _ _ | .cpyr _ _ _ => 4
  | .rgath _ _ _ | .qsub _ | .coll _ _ _ | .nmcmd _ _ | .nmblk _ _ | .gang _ => 4
  | .trap _ | .rett | .reclaim _ _ _ | .topup _ _ | .bgrant _ _ _ | .launch _ _ _ => 8
  | .mdrain _ _ | .syscall _ | .privw _ _ _ => 8
  | _ => 1

/-- SINK names no register, and sweeps the passes of its group. -/
def isSink : Instr → Bool
  | .sink _ _ _ => true
  | _ => false

/-- IBUD charge of an instruction at issue: class × passes, where an instruction that names no vector register, or
finds an empty summary word, counts one pass (R285). -/
def issueCharge (i : Instr) (t : Team) : Nat :=
  if namesVector i || isSink i then chargeClass i * max 1 t.passCount else chargeClass i

/-- ISSUE: the frame of every instruction's meaning. A word that breaks a decode rule traps; otherwise `body` runs on
the charged state (R285, R447). -/
def State.issue (s : State) (i : Instr) (body : State → State) : Host.Outcome State Fault Refusal :=
  match decodeCheck i s.me with
  | some r => .next (s.trap r)
  | none => .next (body (s.charge (issueCharge i s.me)))

/-- An issue with operand checks: `checks` gives the trap of the first check of R447 steps 2 to 5 that fails, and a
trapped instruction is not charged (R449). -/
def State.issueIf (s : State) (i : Instr) (checks : State → Option TrapRec) (body : State → State) :
    Host.Outcome State Fault Refusal :=
  match decodeCheck i s.me with
  | some r => .next (s.trap r)
  | none =>
    match checks s with
    | some r => .next (s.trap r)
    | none => .next (body (s.charge (issueCharge i s.me)))

/-- The lanes an instruction acts in: lane 0 once on the scalar datapath, else the active lanes (R279). -/
def Team.actLanes (t : Team) (i : Instr) : List Nat := if namesVector i then t.actives else [0]

/-- As `actLanes`, for a guarding instruction: only where the guard holds (R282). -/
def Team.guardedLanes (t : Team) (i : Instr) : List Nat :=
  if namesVector i then t.actives.filter t.guard else if t.guardAny then [0] else []

/-- A register result: every lane's value is computed from the registers as they stand, written to `d`, and the team
goes on (R69, R292). -/
def State.result (s : State) (d : Reg) (f : Team → Nat → Word) : State :=
  (s.mapMe (fun t => t.wrLanes d t.actives (f t))).advance

/-- A 64-bit register result. -/
def State.result64 (s : State) (d : Reg) (f : Team → Nat → BitVec 64) : State :=
  (s.mapMe (fun t => t.wrLanes64 d t.actives (f t))).advance

/-- A predicate result, written in the active lanes (R294). -/
def State.resultPred (s : State) (p : Nat) (f : Team → Nat → Bool) : State :=
  (s.mapMe (fun t => t.writePred p t.live (t.maskOf (f t)))).advance

end Sys2Proof.Machine
end

