-- ==== Sys2Proof/Machine/Flags.lean ====
section
/-!
DEFINITION. Element arithmetic of the integer instructions (12_isa_compute R293, R312 to R319; 04_numbers R93 to R95):
one 32-bit element or two 16-bit elements, narrowing with saturation or wrap, and the comparison results that CMP, CMPU
and VTOP write into predicates (R280, R319).
-/
namespace Sys2Proof.Machine

/-- Narrow an exact result to `w` bits: clamp to the signed range with SAT, else keep the low bits (R95, R312). -/
def narrow (w : Nat) (sat : Bool) (x : Int) : Nat :=
  if sat then wrapNat w (max (-(2 ^ (w - 1) : Nat)) (min ((2 ^ (w - 1) : Nat) - 1) x)) else wrapNat w x

/-- Element `e` of a packed register (R293). -/
def halfOf (x : Word) (e : Nat) : Nat := bitsOf x.toNat (16 * e) 16

/-- Apply an element function to one 32-bit element, or to both 16-bit halves (R293). -/
def perElem (halves : Bool) (f : Nat → Nat → Nat → Nat → Nat) (a b d : Word) : Word :=
  if halves then
    BitVec.ofNat 32 (f 16 (halfOf a 0) (halfOf b 0) (halfOf d 0) % 65536 +
      65536 * (f 16 (halfOf a 1) (halfOf b 1) (halfOf d 1) % 65536))
  else BitVec.ofNat 32 (f 32 a.toNat b.toNat d.toNat)

/-- Does ETYPE select INT16x2 for the integer class (R283)? -/
def intHalves (etype : Nat) : Bool := decide (etype = 4)

/-- An exact signed operation on elements, narrowed once (R312). -/
def exactOp (etype : Nat) (sat : Bool) (g : Int → Int → Int → Int) (a b d : Word) : Word :=
  perElem (intHalves etype) (fun w x y z => narrow w sat (g (sext w x) (sext w y) (sext w z))) a b d

/-- ADD, SUB, MUL and MAD (R312). -/
def addOp (etype : Nat) (sat : Bool) (a b : Word) : Word := exactOp etype sat (fun x y _ => x + y) a b 0
def subOp (etype : Nat) (sat : Bool) (a b : Word) : Word := exactOp etype sat (fun x y _ => x - y) a b 0
def mulOp (etype : Nat) (sat : Bool) (a b : Word) : Word := exactOp etype sat (fun x y _ => x * y) a b 0
def madOp (etype : Nat) (sat : Bool) (a b d : Word) : Word := exactOp etype sat (fun x y z => x * y + z) a b d

/-- The immediate of ADDI, in each element (R312). -/
def immElems (etype : Nat) (imm : BitVec 16) : Word :=
  if intHalves etype then imm ++ imm else imm.signExtend 32

/-- Signed and unsigned minimum and maximum of elements (R314). -/
def minOp (etype : Nat) (a b : Word) : Word :=
  perElem (intHalves etype) (fun w x y _ => if sext w y < sext w x then y else x) a b 0
def maxOp (etype : Nat) (a b : Word) : Word :=
  perElem (intHalves etype) (fun w x y _ => if sext w x < sext w y then y else x) a b 0
def minuOp (etype : Nat) (a b : Word) : Word := perElem (intHalves etype) (fun _ x y _ => min x y) a b 0
def maxuOp (etype : Nat) (a b : Word) : Word := perElem (intHalves etype) (fun _ x y _ => max x y) a b 0

/-- Absolute value and negation of elements; both wrap (R314). -/
def absOp (etype : Nat) (a : Word) : Word :=
  perElem (intHalves etype) (fun w x _ _ => wrapNat w ((sext w x).natAbs : Int)) a 0 0
def negOp (etype : Nat) (a : Word) : Word := perElem (intHalves etype) (fun w x _ _ => wrapNat w (-(sext w x))) a 0 0

/-- MULHI and MULHU: bits [63:32] of the product (R313). -/
def mulhiOp (a b : Word) : Word := BitVec.ofInt 32 (a.toInt * b.toInt / 2 ^ 32)
def mulhuOp (a b : Word) : Word := BitVec.ofNat 32 (a.toNat * b.toNat / 2 ^ 32)

/-- Number of one bits, of leading zeros, and bit reversal (R315). -/
def popcOp (a : Word) : Word := BitVec.ofNat 32 (countBits a.toNat 32)
def clzOp (a : Word) : Word := if a = 0 then 32 else BitVec.ofNat 32 (31 - Nat.log2 a.toNat)
def brevOp (a : Word) : Word :=
  BitVec.ofNat 32 ((List.range 32).foldl (fun acc i => acc + (if a.toNat.testBit (31 - i) then 2 ^ i else 0)) 0)

/-- The shifts, with the amount taken whole (R316). -/
def shlOp (a b : Word) : Word := if b.toNat < 32 then a <<< b.toNat else 0
def shrOp (a b : Word) : Word := if b.toNat < 32 then a >>> b.toNat else 0
def sarOp (a b : Word) : Word := a.sshiftRight (min b.toNat 31)
def rolOp (a b : Word) : Word := a.rotateLeft (b.toNat % 32)

/-- Field position and width of BFX and BFI (R317). -/
def fieldPos (b : Word) : Nat := bitsOf b.toNat 0 5
def fieldWidth (b : Word) : Nat := min (bitsOf b.toNat 8 6) 32

/-- BFX and BFI (R317). -/
def bfxOp (a b : Word) : Word := BitVec.ofNat 32 (a.toNat / 2 ^ fieldPos b % 2 ^ fieldWidth b)
def bfiOp (a b d : Word) : Word :=
  let mk := BitVec.ofNat 32 ((2 ^ fieldWidth b - 1) * 2 ^ fieldPos b)
  (d &&& ~~~mk) ||| (BitVec.ofNat 32 (a.toNat % 2 ^ fieldWidth b * 2 ^ fieldPos b) &&& mk)

/-- An ordering condition EQ NE LT LE GT GE on two comparable values (R280). -/
def condHolds (cond : Nat) (lt eq : Bool) : Bool :=
  match cond with
  | 0 => eq
  | 1 => !eq
  | 2 => lt
  | 3 => lt || eq
  | 4 => !lt && !eq
  | _ => !lt

/-- CMP and CMPU: the condition on the one element, or on both halves (R319). -/
def cmpOp (etype : Nat) (signed : Bool) (cond : Nat) (a b : Word) : Bool :=
  let one := fun (w x y : Nat) =>
    condHolds cond (if signed then decide (sext w x < sext w y) else decide (x < y)) (decide (x = y))
  if intHalves etype then one 16 (halfOf a 0) (halfOf b 0) && one 16 (halfOf a 1) (halfOf b 1)
  else one 32 a.toNat b.toNat

/-- How a comparison enters its destination: set, AND into, OR into (R280). -/
def combine (comb : Nat) (old c : Bool) : Bool :=
  match comb with
  | 0 => c
  | 1 => old && c
  | _ => old || c

end Sys2Proof.Machine
end

