-- ==== Sys2Proof/Machine/Float.lean ====
section
/-!
DEFINITION. Floating-point formats and arithmetic (04_numbers R96 to R107, R113 to R116): every operation forms its
exact value and rounds it once. A finite value is a sign and a magnitude `m × 2^e`; a magnitude that is not dyadic is a
quotient, or a quotient strictly inside the rounding interval of the exact value.
-/
namespace Sys2Proof.Machine

/-- A format: fraction bits, bias, bits of the largest finite magnitude, whether it has infinities, whether FTZ applies
to it (R96, R103). -/
structure FloatFmt where
  frac  : Nat
  bias  : Nat
  width : Nat
  maxFinite : Nat
  hasInf : Bool
  flushes : Bool
  deriving DecidableEq, Repr

def fmtF32 : FloatFmt := ⟨23, 127, 32, 0x7F7FFFFF, true, true⟩
def fmtF16 : FloatFmt := ⟨10, 15, 16, 0x7BFF, true, true⟩
def fmtBF16 : FloatFmt := ⟨7, 127, 16, 0x7F7F, true, true⟩
def fmtE5M2 : FloatFmt := ⟨2, 15, 8, 0x7B, true, false⟩
def fmtE4M3 : FloatFmt := ⟨3, 7, 8, 0x7E, false, false⟩

/-- A value: NaN, an infinity, or a signed magnitude `m × 2^e`. -/
inductive FloatVal where
  | nan
  | inf (neg : Bool)
  | num (neg : Bool) (m : Nat) (e : Int)
  deriving DecidableEq, Repr

/-- The sign bit of a format. -/
def FloatFmt.signBit (f : FloatFmt) : Nat := 2 ^ (f.width - 1)

/-- The canonical NaN (R96, R98). -/
def FloatFmt.canonNan (f : FloatFmt) : Nat :=
  if f.hasInf then f.maxFinite + 1 + 2 ^ (f.frac - 1) else f.maxFinite + 1

/-- The infinity of a sign; for E4M3, which has none, the NaN of the sign (R105). -/
def FloatFmt.infBits (f : FloatFmt) (neg : Bool) : Nat :=
  f.maxFinite + 1 + (if neg then f.signBit else 0)

/-- The largest finite value of a sign. -/
def FloatFmt.maxBits (f : FloatFmt) (neg : Bool) : Nat := f.maxFinite + (if neg then f.signBit else 0)

/-- Exponent of the smallest subnormal. -/
def FloatFmt.minExp (f : FloatFmt) : Int := 1 - (f.bias : Int) - f.frac

/-- The value of a bit pattern (R96). -/
def FloatFmt.decode (f : FloatFmt) (bits : Nat) : FloatVal :=
  let x := bits % 2 ^ f.width
  let neg := decide (x ≥ f.signBit)
  let mag := x % f.signBit
  if mag > f.maxFinite then
    if f.hasInf ∧ mag = f.maxFinite + 1 then .inf neg else .nan
  else
    let ex := mag / 2 ^ f.frac
    let fr := mag % 2 ^ f.frac
    if ex = 0 then .num neg fr f.minExp else .num neg (2 ^ f.frac + fr) (f.minExp + (ex - 1 : Nat))

/-- Is the magnitude of a bit pattern subnormal? -/
def FloatFmt.isSub (f : FloatFmt) (bits : Nat) : Bool :=
  let mag := bits % f.signBit
  decide (0 < mag) && decide (mag < 2 ^ f.frac)

/-- Flush a subnormal to zero of its sign when `on` and the format takes part (R103). -/
def FloatFmt.flush (f : FloatFmt) (on : Bool) (bits : Nat) : Nat :=
  if on && f.flushes && f.isSub bits then bits / f.signBit % 2 * f.signBit else bits % 2 ^ f.width

/-- Does rounding go away from zero? `r` is the remainder of a division by `d`, `odd` the parity of the quotient; rnd
is 0 RNE, 1 RZ, 2 RU, 3 RD (R72). -/
def roundsUp (rnd : Nat) (neg odd : Bool) (r d : Nat) : Bool :=
  match rnd with
  | 0 => decide (2 * r > d) || (decide (2 * r = d) && odd)
  | 1 => false
  | 2 => decide (r > 0) && !neg
  | _ => decide (r > 0) && neg

/-- Magnitude bits of `num / den` rounded to the format with unbounded exponent range (R101). -/
def FloatFmt.roundMag (f : FloatFmt) (rnd : Nat) (neg : Bool) (num den : Nat) : Nat :=
  if num = 0 then 0
  else
    let e0 : Int := (Nat.log2 num : Int) - Nat.log2 den
    let ge := if e0 ≥ 0 then decide (num ≥ den * 2 ^ e0.toNat) else decide (num * 2 ^ (-e0).toNat ≥ den)
    let e : Int := if ge then e0 else e0 - 1
    let q : Int := max (e - f.frac) f.minExp
    let n' := if q ≥ 0 then num else num * 2 ^ (-q).toNat
    let d' := if q ≥ 0 then den * 2 ^ q.toNat else den
    let m := n' / d'
    let r := n' % d'
    let m := if roundsUp rnd neg (decide (m % 2 = 1)) r d' then m + 1 else m
    (q - f.minExp).toNat * 2 ^ f.frac + m

/-- Round a quotient; an overflow follows the direction (R100). -/
def FloatFmt.roundQuot (f : FloatFmt) (rnd : Nat) (neg : Bool) (num den : Nat) : Nat :=
  let mag := f.roundMag rnd neg num den
  if mag > f.maxFinite then
    (match rnd with
     | 0 => f.infBits neg
     | 1 => f.maxBits neg
     | 2 => if neg then f.maxBits neg else f.infBits neg
     | _ => if neg then f.infBits neg else f.maxBits neg)
  else mag + (if neg then f.signBit else 0)

/-- A dyadic magnitude as numerator and denominator. -/
def dyadNum (m : Nat) (e : Int) : Nat := if e ≥ 0 then m * 2 ^ e.toNat else m
def dyadDen (e : Int) : Nat := if e ≥ 0 then 1 else 2 ^ (-e).toNat

/-- Round a value to the format (R98, R101). -/
def FloatFmt.round (f : FloatFmt) (rnd : Nat) : FloatVal → Nat
  | .nan => f.canonNan
  | .inf neg => f.infBits neg
  | .num neg m e => f.roundQuot rnd neg (dyadNum m e) (dyadDen e)

/-- Exact sum; a zero sum has the sign of R323. -/
def FloatVal.add (rnd : Nat) : FloatVal → FloatVal → FloatVal
  | .nan, _ => .nan
  | _, .nan => .nan
  | .inf a, .inf b => if a = b then .inf a else .nan
  | .inf a, _ => .inf a
  | _, .inf b => .inf b
  | .num na ma ea, .num nb mb eb =>
    let e := min ea eb
    let x : Int := (ma * 2 ^ (ea - e).toNat : Nat)
    let y : Int := (mb * 2 ^ (eb - e).toNat : Nat)
    let s := (if na then -x else x) + (if nb then -y else y)
    if s = 0 then
      .num (if ma = 0 ∧ mb = 0 ∧ na = nb then na else decide (rnd = 3)) 0 e
    else .num (decide (s < 0)) s.natAbs e

/-- Exact product (R323). -/
def FloatVal.mul : FloatVal → FloatVal → FloatVal
  | .nan, _ => .nan
  | _, .nan => .nan
  | .inf a, .inf b => .inf (xor a b)
  | .inf a, .num nb mb _ => if mb = 0 then .nan else .inf (xor a nb)
  | .num na ma _, .inf b => if ma = 0 then .nan else .inf (xor na b)
  | .num na ma ea, .num nb mb eb => .num (xor na nb) (ma * mb) (ea + eb)

/-- Negation of a value. -/
def FloatVal.neg : FloatVal → FloatVal
  | .nan => .nan
  | .inf n => .inf (!n)
  | .num n m e => .num (!n) m e

/-- Is the first value less than the second, −0 counted equal to +0? False with a NaN. -/
def FloatVal.lt : FloatVal → FloatVal → Bool
  | .nan, _ => false
  | _, .nan => false
  | .inf a, .inf b => a && !b
  | .inf a, .num _ _ _ => a
  | .num _ _ _, .inf b => !b
  | .num na ma ea, .num nb mb eb =>
    let e := min ea eb
    let x : Int := (ma * 2 ^ (ea - e).toNat : Nat)
    let y : Int := (mb * 2 ^ (eb - e).toNat : Nat)
    decide ((if na then -x else x) < (if nb then -y else y))

def FloatVal.isNan : FloatVal → Bool
  | .nan => true
  | _ => false

/-- Operands of an arithmetic instruction: flushed under FTZ, then decoded (R103). -/
def FloatFmt.operand (f : FloatFmt) (ftz : Bool) (bits : Nat) : FloatVal := f.decode (f.flush ftz bits)

/-- A result: rounded, then flushed under FTZ (R103). -/
def FloatFmt.deliver (f : FloatFmt) (rnd : Nat) (ftz : Bool) (v : FloatVal) : Nat := f.flush ftz (f.round rnd v)

/-- FADD, FSUB, FMUL and FFMA on one element (R323). -/
def faddE (f : FloatFmt) (rnd : Nat) (ftz : Bool) (a b : Nat) : Nat :=
  f.deliver rnd ftz ((f.operand ftz a).add rnd (f.operand ftz b))
def fsubE (f : FloatFmt) (rnd : Nat) (ftz : Bool) (a b : Nat) : Nat :=
  f.deliver rnd ftz ((f.operand ftz a).add rnd (f.operand ftz b).neg)
def fmulE (f : FloatFmt) (rnd : Nat) (ftz : Bool) (a b : Nat) : Nat :=
  f.deliver rnd ftz ((f.operand ftz a).mul (f.operand ftz b))
def ffmaE (f : FloatFmt) (rnd : Nat) (ftz : Bool) (a b d : Nat) : Nat :=
  f.deliver rnd ftz (((f.operand ftz a).mul (f.operand ftz b)).add rnd (f.operand ftz d))

/-- The order of FMIN and FMAX, with −0 below +0 (R99). -/
def fltBelow (f : FloatFmt) (a b : Nat) : Bool :=
  (f.decode a).lt (f.decode b) || (decide (a % f.signBit = 0) && decide (b % f.signBit = 0) && decide (a > b))

/-- FMIN and FMAX on one element (R99, R324). -/
def fminE (f : FloatFmt) (ftz : Bool) (a b : Nat) : Nat :=
  let a := f.flush ftz a
  let b := f.flush ftz b
  if (f.decode a).isNan then (if (f.decode b).isNan then f.canonNan else b)
  else if (f.decode b).isNan then a else if fltBelow f b a then b else a
def fmaxE (f : FloatFmt) (ftz : Bool) (a b : Nat) : Nat :=
  let a := f.flush ftz a
  let b := f.flush ftz b
  if (f.decode a).isNan then (if (f.decode b).isNan then f.canonNan else b)
  else if (f.decode b).isNan then a else if fltBelow f a b then b else a

/-- FABS and FNEG on one element: the sign bit only (R324). -/
def fabsE (f : FloatFmt) (a : Nat) : Nat := a % f.signBit
def fnegE (f : FloatFmt) (a : Nat) : Nat := if a % 2 ^ f.width ≥ f.signBit then a % f.signBit else a % f.signBit + f.signBit

/-- FCMP on one element (R325): conditions 0 to 5 as R280, 6 UNORD, 7 ORD. -/
def fcmpE (f : FloatFmt) (ftz : Bool) (cond a b : Nat) : Bool :=
  let x := f.operand ftz a
  let y := f.operand ftz b
  let un := x.isNan || y.isNan
  match cond with
  | 6 => un
  | 7 => !un
  | 1 => un || x.lt y || y.lt x
  | c => !un && condHolds c (x.lt y) (!x.lt y && !y.lt x)

/-- FCLASS on one element (R331). -/
def fclassE (f : FloatFmt) (a : Nat) : Nat :=
  let x := a % 2 ^ f.width
  let neg := decide (x ≥ f.signBit)
  match f.decode x with
  | .nan => 2 ^ 8
  | .inf n => if n then 2 ^ 0 else 2 ^ 7
  | .num _ m _ =>
    if m = 0 then (if neg then 2 ^ 3 else 2 ^ 4)
    else if f.isSub x then (if neg then 2 ^ 2 else 2 ^ 5) else (if neg then 2 ^ 1 else 2 ^ 6)

/-- FRND on one element: the integral value in the direction of RND, in the same format (R327). -/
def frndE (f : FloatFmt) (rnd : Nat) (ftz : Bool) (a : Nat) : Nat :=
  match f.operand ftz a with
  | .nan => f.canonNan
  | .inf n => f.infBits n
  | .num neg m e =>
    if e ≥ 0 then f.flush ftz a
    else
      let d := 2 ^ (-e).toNat
      let i := m / d
      let i := if roundsUp rnd neg (decide (i % 2 = 1)) (m % d) d then i + 1 else i
      f.deliver rnd ftz (.num neg i 0)

/-! ### FRCP to FTANH (R102, R326) -/

/-- Integer square root by bisection from above: `fuel` bits of result. -/
def isqrtLoop (n : Nat) : Nat → Nat → Nat
  | 0, r => r
  | k + 1, r => isqrtLoop n k (if (r + 2 ^ k) * (r + 2 ^ k) ≤ n then r + 2 ^ k else r)

/-- The integer part of the square root. -/
def isqrt (n : Nat) : Nat := isqrtLoop n (Nat.log2 n / 2 + 1) 0

/-- A quotient just above `x / 2^p` when `x` is not exact: twice the integer part, plus a sticky unit. -/
def stickyNum (x : Nat) (exact : Bool) : Nat := 2 * x + (if exact then 0 else 1)

/-- Fixed-point places of the enclosures below; far more than any F32 rounding needs. -/
def fixBits : Nat := 320

/-- ln 2 in fixed point, rounded down: Σ 1 / (k × 2^k). -/
def ln2Fix : Nat := (List.range 340).foldl (fun acc k => acc + 2 ^ fixBits / ((k + 1) * 2 ^ (k + 1))) 0

/-- e^y in fixed point for 0 ≤ y < 1, as a power series. -/
def expFix (y : Nat) : Nat :=
  ((List.range 90).foldl (fun (p : Nat × Nat) k =>
    (p.1 + p.2, p.2 * y / 2 ^ fixBits / (k + 1))) (0, 2 ^ fixBits)).1

/-- ln m in fixed point for 1 ≤ m < 2 given as a quotient, by the series of the inverse hyperbolic tangent. -/
def lnFix (num den : Nat) : Nat :=
  let z := (num - den) * 2 ^ fixBits / (num + den)
  let z2 := z * z / 2 ^ fixBits
  2 * ((List.range 110).foldl (fun (p : Nat × Nat) k =>
    (p.1 + p.2 / (2 * k + 1), p.2 * z2 / 2 ^ fixBits)) (0, z)).1

/-- FRCP on one element. -/
def frcpE (f : FloatFmt) (rnd : Nat) (ftz : Bool) (a : Nat) : Nat :=
  match f.operand ftz a with
  | .nan => f.canonNan
  | .inf n => if n then f.signBit else 0
  | .num n m e =>
    if m = 0 then f.infBits n else f.flush ftz (f.roundQuot rnd n (dyadDen e) (dyadNum m e))

/-- FSQRT on one element. -/
def fsqrtE (f : FloatFmt) (rnd : Nat) (ftz : Bool) (a : Nat) : Nat :=
  match f.operand ftz a with
  | .nan => f.canonNan
  | .inf n => if n then f.canonNan else f.infBits false
  | .num n m e =>
    if m = 0 then (if n then f.signBit else 0)
    else if n then f.canonNan
    else
      let x := dyadNum m e * 2 ^ 1200 / dyadDen e
      let r := isqrt x
      let exact := decide (r * r * dyadDen e = dyadNum m e * 2 ^ 1200)
      f.flush ftz (f.roundQuot rnd false (stickyNum r exact) (2 * 2 ^ 600))

/-- FRSQ on one element. -/
def frsqE (f : FloatFmt) (rnd : Nat) (ftz : Bool) (a : Nat) : Nat :=
  match f.operand ftz a with
  | .nan => f.canonNan
  | .inf n => if n then f.canonNan else 0
  | .num n m e =>
    if m = 0 then f.infBits n
    else if n then f.canonNan
    else
      let x := dyadDen e * 2 ^ 1200 / dyadNum m e
      let r := isqrt x
      let exact := decide (r * r * dyadNum m e = dyadDen e * 2 ^ 1200)
      f.flush ftz (f.roundQuot rnd false (stickyNum r exact) (2 * 2 ^ 600))

/-- 2^(i / 2^320) as fixed point with exponent: mantissa and power of two, for a signed fixed-point argument. -/
def exp2Fix (x : Int) : Nat × Int :=
  let n := x / (2 ^ fixBits : Nat)
  let fr := (x % (2 ^ fixBits : Nat)).toNat
  (expFix (fr * ln2Fix / 2 ^ fixBits), n)

/-- Round `x × 2^n` where `x` is fixed point and the true value lies just above it. -/
def FloatFmt.roundFix (f : FloatFmt) (rnd : Nat) (neg : Bool) (x : Nat) (n : Int) (exact : Bool) : Nat :=
  let s := stickyNum x exact
  if n ≥ 0 then f.roundQuot rnd neg (s * 2 ^ n.toNat) (2 * 2 ^ fixBits)
  else f.roundQuot rnd neg s (2 * 2 ^ fixBits * 2 ^ (-n).toNat)

/-- The fixed-point number of a dyadic value (exact for every F32, F16 and BF16 value). -/
def toFix (neg : Bool) (m : Nat) (e : Int) : Int :=
  let x : Int := (dyadNum m e * 2 ^ fixBits / dyadDen e : Nat)
  if neg then -x else x

/-- FEXP2 on one element. -/
def fexp2E (f : FloatFmt) (rnd : Nat) (ftz : Bool) (a : Nat) : Nat :=
  match f.operand ftz a with
  | .nan => f.canonNan
  | .inf n => if n then 0 else f.infBits false
  | .num n m e =>
    let x := toFix n m e
    let x : Int := max (-((1024 * 2 ^ fixBits : Nat) : Int)) (min ((1024 * 2 ^ fixBits : Nat) : Int) x)
    let p := exp2Fix x
    f.flush ftz (f.roundFix rnd false p.1 p.2 (decide (x % ((2 ^ fixBits : Nat) : Int) = 0)))

/-- FLOG2 on one element. -/
def flog2E (f : FloatFmt) (rnd : Nat) (ftz : Bool) (a : Nat) : Nat :=
  match f.operand ftz a with
  | .nan => f.canonNan
  | .inf n => if n then f.canonNan else f.infBits false
  | .num n m e =>
    if m = 0 then f.infBits true
    else if n then f.canonNan
    else
      let k := Nat.log2 m
      let x : Int := (e + k) * (2 ^ fixBits : Nat) + (lnFix m (2 ^ k) * 2 ^ fixBits / ln2Fix : Nat)
      let exact := decide (m = 2 ^ k)
      if x = 0 ∧ exact then 0
      else if x ≥ 0 then f.flush ftz (f.roundFix rnd false x.toNat 0 exact)
      else f.flush ftz (f.roundFix rnd true ((-x).toNat - (if exact then 0 else 1)) 0 exact)

/-- FTANH on one element. -/
def ftanhE (f : FloatFmt) (rnd : Nat) (ftz : Bool) (a : Nat) : Nat :=
  match f.operand ftz a with
  | .nan => f.canonNan
  | .inf n => f.round rnd (.num n 1 0)
  | .num n m e =>
    if m = 0 then (if n then f.signBit else 0)
    else if dyadNum m e * 2 ^ 40 < dyadDen e then
      f.flush ftz (f.roundQuot rnd n (dyadNum m e * 2 ^ 70 - 1) (dyadDen e * 2 ^ 70))
    else if dyadNum m e ≥ 64 * dyadDen e then
      f.flush ftz (f.roundQuot rnd n (2 ^ 100 - 1) (2 ^ 100))
    else
      let t := 2 * (toFix false m e).toNat * 2 ^ fixBits / ln2Fix
      let p := exp2Fix t
      let ex := p.1 * 2 ^ p.2.toNat
      f.flush ftz (f.roundQuot rnd n (ex - 2 ^ fixBits) (ex + 2 ^ fixBits))

/-! ### Packing under ETYPE (R283, R293) -/

/-- The format of the float class that ETYPE selects (R283). -/
def fltFmt (etype : Nat) : FloatFmt :=
  if etype = 2 then fmtF16 else if etype = 3 then fmtBF16 else fmtF32

/-- Apply a float element function to one F32 element or to both halves (R293). -/
def perFlt (etype : Nat) (g : FloatFmt → Nat → Nat → Nat → Nat) (a b d : Word) : Word :=
  perElem (decide (etype = 2 ∨ etype = 3)) (fun _ x y z => g (fltFmt etype) x y z) a b d

/-- FCMP: on the one element, or on both halves (R325). -/
def fcmpOp (etype : Nat) (ftz : Bool) (cond : Nat) (a b : Word) : Bool :=
  let f := fltFmt etype
  if etype = 2 ∨ etype = 3 then
    fcmpE f ftz cond (halfOf a 0) (halfOf b 0) && fcmpE f ftz cond (halfOf a 1) (halfOf b 1)
  else fcmpE f ftz cond a.toNat b.toNat

/-! ### Conversions (R104 to R108, R328 to R330) -/

/-- Does format `t` represent every value of format `f` exactly (R104)? -/
def FloatFmt.widens (t f : FloatFmt) : Bool :=
  decide (f.frac ≤ t.frac) && decide (f.bias ≤ t.bias) && (t.hasInf || !f.hasInf)

/-- Float to float under SAT (R104, R105): to nearest with ties to even. A widening conversion passes `sat = false`, for
only a narrowing one clamps an infinite operand. -/
def narrowFlt (t : FloatFmt) (sat : Bool) : FloatVal → Nat
  | .nan => t.canonNan
  | .inf n => if sat then t.maxBits n else t.infBits n
  | .num n m e =>
    let mag := t.roundMag 0 n (dyadNum m e) (dyadDen e)
    if mag > t.maxFinite then (if sat then t.maxBits n else t.infBits n)
    else mag + (if n then t.signBit else 0)

/-- Float to integer (R106): `w` bits, signed or not. -/
def fltToInt (w : Nat) (signed sat : Bool) (v : FloatVal) : Int :=
  let lo : Int := if signed then -(2 ^ (w - 1) : Nat) else 0
  let hi : Int := if signed then (2 ^ (w - 1) : Nat) - 1 else (2 ^ w : Nat) - 1
  match v with
  | .nan => if sat then 0 else lo
  | .inf n => if sat then (if n then lo else hi) else lo
  | .num n m e =>
    let i := dyadNum m e / dyadDen e
    let i := if roundsUp 0 n (decide (i % 2 = 1)) (dyadNum m e % dyadDen e) (dyadDen e) then i + 1 else i
    let x : Int := if n then -(i : Int) else i
    if lo ≤ x ∧ x ≤ hi then x else if sat then max lo (min hi x) else lo

/-- The level of a QC4 code in units of 1/128 (R108). -/
def qc4Level : Nat → Int
  | 0 => -128 | 1 => -90 | 2 => -68 | 3 => -52 | 4 => -38 | 5 => -25 | 6 => -12 | 7 => 0
  | 8 => 10 | 9 => 20 | 10 => 31 | 11 => 43 | 12 => 56 | 13 => 72 | 14 => 93 | _ => 128

/-- An integer times a power of two as a value; zero is +0. -/
def ofIntVal (x : Int) (e : Int) : FloatVal := .num (decide (x < 0)) x.natAbs e

/-- Float formats by CVT code (R328). -/
def cvtFmt : Nat → FloatFmt
  | 5 => fmtF32
  | 6 => fmtF16
  | 7 => fmtBF16
  | 8 => fmtE4M3
  | _ => fmtE5M2

/-- Width and signedness of the integer formats by CVT code (R328). -/
def cvtInt : Nat → Nat × Bool
  | 0 => (32, true)
  | 1 => (32, false)
  | 2 => (16, true)
  | 3 => (8, true)
  | _ => (8, false)

/-- The register image of an integer result: sign-extended when signed (R328). -/
def intImage (c : Nat) (x : Int) : Nat :=
  if (cvtInt c).2 then wrapNat 32 (sext (cvtInt c).1 (wrapNat (cvtInt c).1 x)) else wrapNat (cvtInt c).1 x

/-- CVT (R328, R329). -/
def cvtOp (sat ftz : Bool) (tgt src : Nat) (a : Word) : Word :=
  if src ≥ 10 then BitVec.ofNat 32 ((cvtFmt tgt).flush ftz (narrowFlt (cvtFmt tgt) sat (ofIntVal (qc4Level (a.toNat % 16)) (-7))))
  else if src ≥ 5 then
    let v := (cvtFmt src).operand ftz (a.toNat % 2 ^ (cvtFmt src).width)
    if tgt ≥ 5 then
      let clamps := sat && !(cvtFmt tgt).widens (cvtFmt src)
      BitVec.ofNat 32 ((cvtFmt tgt).flush ftz (narrowFlt (cvtFmt tgt) clamps v))
    else BitVec.ofNat 32 (intImage tgt (fltToInt (cvtInt tgt).1 (cvtInt tgt).2 sat v))
  else
    let x : Int := if (cvtInt src).2 then sext (cvtInt src).1 a.toNat else (a.toNat % 2 ^ (cvtInt src).1 : Nat)
    if tgt ≥ 5 then BitVec.ofNat 32 ((cvtFmt tgt).flush ftz (narrowFlt (cvtFmt tgt) sat (ofIntVal x 0)))
    else
      let w := (cvtInt tgt).1
      let lo : Int := if (cvtInt tgt).2 then -(2 ^ (w - 1) : Nat) else 0
      let hi : Int := if (cvtInt tgt).2 then (2 ^ (w - 1) : Nat) - 1 else (2 ^ w : Nat) - 1
      BitVec.ofNat 32 (intImage tgt (if sat then max lo (min hi x) else x))

/-- PACK (R330). -/
def packOp (etype : Nat) (sat ftz : Bool) (a b : Word) : Word :=
  if etype = 4 then BitVec.ofNat 32 (narrow 16 sat a.toInt + 65536 * narrow 16 sat b.toInt)
  else
    let one := fun (x : Word) =>
      (fltFmt etype).flush ftz (narrowFlt (fltFmt etype) sat (fmtF32.operand ftz x.toNat))
    BitVec.ofNat 32 (one a + 65536 * one b)

/-- UNPACKL (e = 0) and UNPACKH (e = 1) (R330). -/
def unpackOp (etype : Nat) (ftz : Bool) (e : Nat) (a : Word) : Word :=
  if etype = 4 then BitVec.ofInt 32 (sext 16 (halfOf a e))
  else BitVec.ofNat 32 (fmtF32.flush ftz (narrowFlt fmtF32 false ((fltFmt etype).operand ftz (halfOf a e))))

/-! ### Fixed-rounding arithmetic of atomics, rows, engines and the matrix path -/

/-- Sum rounded in a fixed direction without flushing (R98, R115, R120, R121). -/
def addRnd (f : FloatFmt) (rnd : Nat) (a b : Nat) : Nat := f.round rnd ((f.decode a).add rnd (f.decode b))

/-- Product rounded in a fixed direction without flushing (R115). -/
def mulRnd (f : FloatFmt) (rnd : Nat) (a b : Nat) : Nat := f.round rnd ((f.decode a).mul (f.decode b))

/-- Both halves of a word added in BF16, or the word in F32 (R120). -/
def addWord (bf16 : Bool) (a b : Word) : Word :=
  if bf16 then
    BitVec.ofNat 32 (addRnd fmtBF16 0 (halfOf a 0) (halfOf b 0) + 65536 * addRnd fmtBF16 0 (halfOf a 1) (halfOf b 1))
  else BitVec.ofNat 32 (addRnd fmtF32 0 a.toNat b.toNat)

/-- Exact sum of products for one matrix step, as a value (R113, R114): an exact zero sum is +0 unless every product is
−0. -/
def stepSum : List FloatVal → FloatVal
  | [] => .num false 0 0
  | [x] => x
  | x :: r => x.add 0 (stepSum r)

end Sys2Proof.Machine
end

