-- ==== Sys2Proof/Machine/FloatOps.lean ====
section
/-!
DEFINITION. Floating-point, conversion and packing instructions, 0x50 to 0x64 (12_isa_compute R322 to R331).
-/
namespace Sys2Proof.Machine

/-- FADD (R323). -/
def execFadd (d a b : Reg) (s : State) : Host.Outcome State Fault Refusal :=
  s.issue (.fadd d a b) fun s => s.result d fun t l => 
    perFlt t.etype (fun f x y _ => faddE f t.rnd t.ftz x y) (t.rd a l) (t.rd b l) 0

/-- FSUB (R323). -/
def execFsub (d a b : Reg) (s : State) : Host.Outcome State Fault Refusal :=
  s.issue (.fsub d a b) fun s => s.result d fun t l => 
    perFlt t.etype (fun f x y _ => fsubE f t.rnd t.ftz x y) (t.rd a l) (t.rd b l) 0

/-- FMUL (R323). -/
def execFmul (d a b : Reg) (s : State) : Host.Outcome State Fault Refusal :=
  s.issue (.fmul d a b) fun s => s.result d fun t l => 
    perFlt t.etype (fun f x y _ => fmulE f t.rnd t.ftz x y) (t.rd a l) (t.rd b l) 0

/-- FFMA (R323). -/
def execFfma (d a b : Reg) (s : State) : Host.Outcome State Fault Refusal :=
  s.issue (.ffma d a b) fun s => s.result d fun t l => 
    perFlt t.etype (fun f x y z => ffmaE f t.rnd t.ftz x y z) (t.rd a l) (t.rd b l) (t.rd d l)

/-- FMIN (R324). -/
def execFmin (d a b : Reg) (s : State) : Host.Outcome State Fault Refusal :=
  s.issue (.fmin d a b) fun s => s.result d fun t l => 
    perFlt t.etype (fun f x y _ => fminE f t.ftz x y) (t.rd a l) (t.rd b l) 0

/-- FMAX (R324). -/
def execFmax (d a b : Reg) (s : State) : Host.Outcome State Fault Refusal :=
  s.issue (.fmax d a b) fun s => s.result d fun t l => 
    perFlt t.etype (fun f x y _ => fmaxE f t.ftz x y) (t.rd a l) (t.rd b l) 0

/-- FABS (R324). -/
def execFabs (d a : Reg) (s : State) : Host.Outcome State Fault Refusal :=
  s.issue (.fabs d a) fun s => s.result d fun t l => perFlt t.etype (fun f x _ _ => fabsE f x) (t.rd a l) 0 0

/-- FNEG (R324). -/
def execFneg (d a : Reg) (s : State) : Host.Outcome State Fault Refusal :=
  s.issue (.fneg d a) fun s => s.result d fun t l => perFlt t.etype (fun f x _ _ => fnegE f x) (t.rd a l) 0 0

/-- FCMP (R280, R325). -/
def execFcmp (cond : Fin 8) (comb : Fin 4) (pd : Fin 8) (a b : Reg) (s : State) : Host.Outcome State Fault Refusal :=
  s.issue (.fcmp cond comb pd a b) fun s => s.resultPred pd.val fun t l =>
    combine comb.val (t.pred pd.val l) (fcmpOp t.etype t.ftz cond.val (t.rd a l) (t.rd b l))

/-- FRCP (R102, R326). -/
def execFrcp (d a : Reg) (s : State) : Host.Outcome State Fault Refusal :=
  s.issue (.frcp d a) fun s => s.result d fun t l => perFlt t.etype (fun f x _ _ => frcpE f t.rnd t.ftz x) (t.rd a l) 0 0

/-- FRSQ (R102, R326). -/
def execFrsq (d a : Reg) (s : State) : Host.Outcome State Fault Refusal :=
  s.issue (.frsq d a) fun s => s.result d fun t l => perFlt t.etype (fun f x _ _ => frsqE f t.rnd t.ftz x) (t.rd a l) 0 0

/-- FSQRT (R102, R326). -/
def execFsqrt (d a : Reg) (s : State) : Host.Outcome State Fault Refusal :=
  s.issue (.fsqrt d a) fun s => s.result d fun t l => perFlt t.etype (fun f x _ _ => fsqrtE f t.rnd t.ftz x) (t.rd a l) 0 0

/-- FEXP2 (R102, R326). -/
def execFexp2 (d a : Reg) (s : State) : Host.Outcome State Fault Refusal :=
  s.issue (.fexp2 d a) fun s => s.result d fun t l => perFlt t.etype (fun f x _ _ => fexp2E f t.rnd t.ftz x) (t.rd a l) 0 0

/-- FLOG2 (R102, R326). -/
def execFlog2 (d a : Reg) (s : State) : Host.Outcome State Fault Refusal :=
  s.issue (.flog2 d a) fun s => s.result d fun t l => perFlt t.etype (fun f x _ _ => flog2E f t.rnd t.ftz x) (t.rd a l) 0 0

/-- FTANH (R102, R326). -/
def execFtanh (d a : Reg) (s : State) : Host.Outcome State Fault Refusal :=
  s.issue (.ftanh d a) fun s => s.result d fun t l => perFlt t.etype (fun f x _ _ => ftanhE f t.rnd t.ftz x) (t.rd a l) 0 0

/-- FRND (R327). -/
def execFrnd (d a : Reg) (s : State) : Host.Outcome State Fault Refusal :=
  s.issue (.frnd d a) fun s => s.result d fun t l => perFlt t.etype (fun f x _ _ => frndE f t.rnd t.ftz x) (t.rd a l) 0 0

/-- CVT (R328, R329). -/
def execCvt (d a : Reg) (tgt src : Fin 16) (s : State) : Host.Outcome State Fault Refusal :=
  s.issue (.cvt d a tgt src) fun s => s.result d fun t l => cvtOp t.sat t.ftz tgt.val src.val (t.rd a l)

/-- PACK (R330). -/
def execPack (d a b : Reg) (s : State) : Host.Outcome State Fault Refusal :=
  s.issue (.pack d a b) fun s => s.result d fun t l => packOp t.etype t.sat t.ftz (t.rd a l) (t.rd b l)

/-- UNPACKL (R330). -/
def execUnpackl (d a : Reg) (s : State) : Host.Outcome State Fault Refusal :=
  s.issue (.unpackl d a) fun s => s.result d fun t l => unpackOp t.etype t.ftz 0 (t.rd a l)

/-- UNPACKH (R330). -/
def execUnpackh (d a : Reg) (s : State) : Host.Outcome State Fault Refusal :=
  s.issue (.unpackh d a) fun s => s.result d fun t l => unpackOp t.etype t.ftz 1 (t.rd a l)

/-- FCLASS (R331). -/
def execFclass (d a : Reg) (s : State) : Host.Outcome State Fault Refusal :=
  s.issue (.fclass d a) fun s => s.result d fun t l => perFlt t.etype (fun f x _ _ => fclassE f x) (t.rd a l) 0 0

end Sys2Proof.Machine
end

