-- ==== Sys2Proof/Machine/Integer.lean ====
section
/-!
DEFINITION. Integer, move, compare and predicate instructions, 0x20 to 0x4A (12_isa_compute R310 to R321).
-/
namespace Sys2Proof.Machine

/-- MOV (R311). -/
def execMov (d a : Reg) (s : State) : Host.Outcome State Fault Refusal :=
  s.issue (.mov d a) fun s => s.result d fun t l => t.rd a l

/-- MOVI (R311). -/
def execMovi (d : Reg) (imm : BitVec 16) (s : State) : Host.Outcome State Fault Refusal :=
  s.issue (.movi d imm) fun s => s.result d fun _ _ => imm.signExtend 32

/-- MOVHI (R311): the low half is kept. -/
def execMovhi (d : Reg) (imm : BitVec 16) (s : State) : Host.Outcome State Fault Refusal :=
  s.issue (.movhi d imm) fun s => s.result d fun t l => imm ++ (t.rd d l).extractLsb' 0 16

/-- ADD (R312). -/
def execAdd (d a b : Reg) (s : State) : Host.Outcome State Fault Refusal :=
  s.issue (.add d a b) fun s => s.result d fun t l => addOp t.etype t.sat (t.rd a l) (t.rd b l)

/-- ADDI (R312). -/
def execAddi (d : Reg) (imm : BitVec 16) (s : State) : Host.Outcome State Fault Refusal :=
  s.issue (.addi d imm) fun s => s.result d fun t l => addOp t.etype t.sat (t.rd d l) (immElems t.etype imm)

/-- SUB (R312). -/
def execSub (d a b : Reg) (s : State) : Host.Outcome State Fault Refusal :=
  s.issue (.sub d a b) fun s => s.result d fun t l => subOp t.etype t.sat (t.rd a l) (t.rd b l)

/-- MUL (R312). -/
def execMul (d a b : Reg) (s : State) : Host.Outcome State Fault Refusal :=
  s.issue (.mul d a b) fun s => s.result d fun t l => mulOp t.etype t.sat (t.rd a l) (t.rd b l)

/-- MULHI (R313). -/
def execMulhi (d a b : Reg) (s : State) : Host.Outcome State Fault Refusal :=
  s.issue (.mulhi d a b) fun s => s.result d fun t l => mulhiOp (t.rd a l) (t.rd b l)

/-- MULHU (R313). -/
def execMulhu (d a b : Reg) (s : State) : Host.Outcome State Fault Refusal :=
  s.issue (.mulhu d a b) fun s => s.result d fun t l => mulhuOp (t.rd a l) (t.rd b l)

/-- MAD (R312). -/
def execMad (d a b : Reg) (s : State) : Host.Outcome State Fault Refusal :=
  s.issue (.mad d a b) fun s => s.result d fun t l => madOp t.etype t.sat (t.rd a l) (t.rd b l) (t.rd d l)

/-- MIN (R314). -/
def execMin (d a b : Reg) (s : State) : Host.Outcome State Fault Refusal :=
  s.issue (.min d a b) fun s => s.result d fun t l => minOp t.etype (t.rd a l) (t.rd b l)

/-- MAX (R314). -/
def execMax (d a b : Reg) (s : State) : Host.Outcome State Fault Refusal :=
  s.issue (.max d a b) fun s => s.result d fun t l => maxOp t.etype (t.rd a l) (t.rd b l)

/-- MINU (R314). -/
def execMinu (d a b : Reg) (s : State) : Host.Outcome State Fault Refusal :=
  s.issue (.minu d a b) fun s => s.result d fun t l => minuOp t.etype (t.rd a l) (t.rd b l)

/-- MAXU (R314). -/
def execMaxu (d a b : Reg) (s : State) : Host.Outcome State Fault Refusal :=
  s.issue (.maxu d a b) fun s => s.result d fun t l => maxuOp t.etype (t.rd a l) (t.rd b l)

/-- ABS (R314). -/
def execAbs (d a : Reg) (s : State) : Host.Outcome State Fault Refusal :=
  s.issue (.abs d a) fun s => s.result d fun t l => absOp t.etype (t.rd a l)

/-- NEG (R314). -/
def execNeg (d a : Reg) (s : State) : Host.Outcome State Fault Refusal :=
  s.issue (.neg d a) fun s => s.result d fun t l => negOp t.etype (t.rd a l)

/-- AND (R315). -/
def execAnd (d a b : Reg) (s : State) : Host.Outcome State Fault Refusal :=
  s.issue (.and d a b) fun s => s.result d fun t l => t.rd a l &&& t.rd b l

/-- OR (R315). -/
def execOr (d a b : Reg) (s : State) : Host.Outcome State Fault Refusal :=
  s.issue (.or d a b) fun s => s.result d fun t l => t.rd a l ||| t.rd b l

/-- XOR (R315). -/
def execXor (d a b : Reg) (s : State) : Host.Outcome State Fault Refusal :=
  s.issue (.xor d a b) fun s => s.result d fun t l => t.rd a l ^^^ t.rd b l

/-- ANDN (R315). -/
def execAndn (d a b : Reg) (s : State) : Host.Outcome State Fault Refusal :=
  s.issue (.andn d a b) fun s => s.result d fun t l => t.rd a l &&& ~~~(t.rd b l)

/-- NOT (R315). -/
def execNot (d a : Reg) (s : State) : Host.Outcome State Fault Refusal :=
  s.issue (.not d a) fun s => s.result d fun t l => ~~~(t.rd a l)

/-- SHL (R316). -/
def execShl (d a b : Reg) (s : State) : Host.Outcome State Fault Refusal :=
  s.issue (.shl d a b) fun s => s.result d fun t l => shlOp (t.rd a l) (t.rd b l)

/-- SHR (R316). -/
def execShr (d a b : Reg) (s : State) : Host.Outcome State Fault Refusal :=
  s.issue (.shr d a b) fun s => s.result d fun t l => shrOp (t.rd a l) (t.rd b l)

/-- SAR (R316). -/
def execSar (d a b : Reg) (s : State) : Host.Outcome State Fault Refusal :=
  s.issue (.sar d a b) fun s => s.result d fun t l => sarOp (t.rd a l) (t.rd b l)

/-- ROL (R316). -/
def execRol (d a b : Reg) (s : State) : Host.Outcome State Fault Refusal :=
  s.issue (.rol d a b) fun s => s.result d fun t l => rolOp (t.rd a l) (t.rd b l)

/-- POPC (R315). -/
def execPopc (d a : Reg) (s : State) : Host.Outcome State Fault Refusal :=
  s.issue (.popc d a) fun s => s.result d fun t l => popcOp (t.rd a l)

/-- CLZ (R315). -/
def execClz (d a : Reg) (s : State) : Host.Outcome State Fault Refusal :=
  s.issue (.clz d a) fun s => s.result d fun t l => clzOp (t.rd a l)

/-- BREV (R315). -/
def execBrev (d a : Reg) (s : State) : Host.Outcome State Fault Refusal :=
  s.issue (.brev d a) fun s => s.result d fun t l => brevOp (t.rd a l)

/-- BFX (R317). -/
def execBfx (d a b : Reg) (s : State) : Host.Outcome State Fault Refusal :=
  s.issue (.bfx d a b) fun s => s.result d fun t l => bfxOp (t.rd a l) (t.rd b l)

/-- BFI (R317). -/
def execBfi (d a b : Reg) (s : State) : Host.Outcome State Fault Refusal :=
  s.issue (.bfi d a b) fun s => s.result d fun t l => bfiOp (t.rd a l) (t.rd b l) (t.rd d l)

/-- ADD64 (R318). -/
def execAdd64 (d a b : Reg) (s : State) : Host.Outcome State Fault Refusal :=
  s.issue (.add64 d a b) fun s => s.result64 d fun t l => t.rd64 a l + t.rd64 b l

/-- SUB64 (R318). -/
def execSub64 (d a b : Reg) (s : State) : Host.Outcome State Fault Refusal :=
  s.issue (.sub64 d a b) fun s => s.result64 d fun t l => t.rd64 a l - t.rd64 b l

/-- MAD64 (R318). -/
def execMad64 (d a b : Reg) (s : State) : Host.Outcome State Fault Refusal :=
  s.issue (.mad64 d a b) fun s => s.result64 d fun t l => t.rd64 a l * t.rd64 b l + t.rd64 d l

/-- LEA (R318). -/
def execLea (d a b : Reg) (s : State) : Host.Outcome State Fault Refusal :=
  s.issue (.lea d a b) fun s => s.result64 d fun t l => t.rd64 a l + (t.rd b l).signExtend 64

/-- CMP (R280, R319): the result is combined into the predicate in each active lane. -/
def execCmp (cond : Fin 8) (comb : Fin 4) (pd : Fin 8) (a b : Reg) (s : State) : Host.Outcome State Fault Refusal :=
  s.issue (.cmp cond comb pd a b) fun s => s.resultPred pd.val fun t l =>
    combine comb.val (t.pred pd.val l) (cmpOp t.etype true cond.val (t.rd a l) (t.rd b l))

/-- CMPU (R280, R319): the result is combined into the predicate in each active lane. -/
def execCmpu (cond : Fin 8) (comb : Fin 4) (pd : Fin 8) (a b : Reg) (s : State) : Host.Outcome State Fault Refusal :=
  s.issue (.cmpu cond comb pd a b) fun s => s.resultPred pd.val fun t l =>
    combine comb.val (t.pred pd.val l) (cmpOp t.etype false cond.val (t.rd a l) (t.rd b l))

/-- SEL (R320): A where the guard holds, B where it does not; on the scalar datapath A when the guard holds in at
least one active lane. -/
def execSel (d a b : Reg) (s : State) : Host.Outcome State Fault Refusal :=
  s.issue (.sel d a b) fun s =>
    if namesVector (.sel d a b) then s.result d fun t l => if t.guard l then t.rd a l else t.rd b l
    else s.result d fun t _ => if t.guardAny then t.rd a 0 else t.rd b 0

/-- PAND (R321). -/
def execPand (d a b : Fin 8) (s : State) : Host.Outcome State Fault Refusal :=
  s.issue (.pand d a b) fun s => s.resultPred d.val fun t l => t.pred a.val l && t.pred b.val l

/-- POR (R321). -/
def execPor (d a b : Fin 8) (s : State) : Host.Outcome State Fault Refusal :=
  s.issue (.por d a b) fun s => s.resultPred d.val fun t l => t.pred a.val l || t.pred b.val l

/-- PXOR (R321). -/
def execPxor (d a b : Fin 8) (s : State) : Host.Outcome State Fault Refusal :=
  s.issue (.pxor d a b) fun s => s.resultPred d.val fun t l => xor (t.pred a.val l) (t.pred b.val l)

/-- PNOT (R321). -/
def execPnot (d a : Fin 8) (s : State) : Host.Outcome State Fault Refusal :=
  s.issue (.pnot d a) fun s => s.resultPred d.val fun t l => !t.pred a.val l

/-- PTOV (R321). -/
def execPtov (d : Reg) (p : Fin 8) (s : State) : Host.Outcome State Fault Refusal :=
  s.issue (.ptov d p) fun s => s.result d fun t l => if t.pred p.val l then 1 else 0

/-- VTOP (R321): a scalar A is broadcast. -/
def execVtop (p : Fin 8) (a : Reg) (s : State) : Host.Outcome State Fault Refusal :=
  s.issue (.vtop p a) fun s => s.resultPred p.val fun t l => decide (t.rd a l ≠ 0)

end Sys2Proof.Machine
end

