-- ==== Sys2Proof/Machine/Mem.lean ====
section
/-!
DEFINITION. Physical memory and its poison marks (R128, R493), the context table (R264), address translation (R125 to
R127, R523), home slices and their directory (R124, R133, R138 to R140), and the operations a home slice performs
(R247, R344, R354 to R360). A request that finds its line absent, or without the permission it needs, waits at home
while the controller walks the page table (R471).
-/
namespace Sys2Proof.Machine

/-! ### Addresses -/

/-- A global address is canonical when bits [63:57] equal bit 56 (R122). -/
def canonical (va : Nat) : Bool :=
  let hi := va / 2 ^ 57 % 128
  decide (hi = if va.testBit 56 then 127 else 0)

/-- The implemented bits [56:0] of an address. -/
def va57 (va : Nat) : Nat := va % 2 ^ 57

/-- The canonical address of 57 implemented bits (R122). -/
def canonOf (x : Nat) : Nat := if (va57 x).testBit 56 then va57 x + (2 ^ 64 - 2 ^ 57) else va57 x

/-- The home slice of an address (R124). -/
def sliceOf (va : Nat) : Nat :=
  let b := bitsOf va 9 48
  let x := bitsOf b 0 16 ^^^ bitsOf b 16 16 ^^^ bitsOf b 32 16
  x * 384 / 2 ^ 16

/-- Die of a slice: 96 slices each. -/
def dieOfSlice (sl : Nat) : Nat := sl / 96

/-- The translating controller of an address (R125). -/
def controllerOf (va : Nat) : Nat := 3 * dieOfSlice (sliceOf va) + va / 2 ^ 16 % 3

/-- The controller that owns a device physical address (R18, R125, R128). -/
def controllerOfPa (pa : Nat) : Nat := if pa < 2 ^ 40 then pa / 2 ^ 36 else 12 + (pa - 2 ^ 40) / 2 ^ 36

/-- A line identifier: context and line address. -/
def lineId (ctx va : Nat) : Nat := ctx * 2 ^ 50 + va57 va / 128
def lineCtx (lid : Nat) : Nat := lid / 2 ^ 50
def lineVa (lid : Nat) : Nat := lid % 2 ^ 50 * 128

/-- Byte `o` of a line, and a line with byte `o` replaced. -/
def lineByte (x : Line) (o : Nat) : Byte := x.extractLsb' (8 * o) 8
def setLineByte (x : Line) (o : Nat) (b : Byte) : Line :=
  (x &&& ~~~(BitVec.ofNat 1024 (255 * 2 ^ (8 * o)))) ||| BitVec.ofNat 1024 (b.toNat * 2 ^ (8 * o))

/-- Write bytes given by address into a line. -/
def setLineCells (x : Line) (cells : List (Nat × Nat)) : Line :=
  cells.foldl (fun x p => setLineByte x (p.1 % 128) (BitVec.ofNat 8 p.2)) x

/-- `n` bytes of a line from offset `o` as a number. -/
def lineNat (x : Line) (o n : Nat) : Nat := x.toNat / 2 ^ (8 * o) % 2 ^ (8 * n)

/-! ### Physical memory -/

/-- Does device memory exist at this physical address (R128)? -/
def physExists (pa : Nat) : Bool := decide (pa < 12 * 2 ^ 36) || (decide (2 ^ 40 ≤ pa) && decide (pa < 2 ^ 41))

/-- Read and write one byte; unlisted bytes read 0x00. -/
def Mem.byte (m : Mem) (pa : Nat) : Byte := SMap.get 0 m pa
def Mem.setByte (m : Mem) (pa : Nat) (b : Byte) : Mem := SMap.set 0 m pa b
def Mem.bytes (m : Mem) (pa n : Nat) : List Byte := (List.range n).map (fun i => m.byte (pa + i))
def Mem.setBytes (m : Mem) : Nat → List Byte → Mem
  | _, [] => m
  | pa, b :: r => Mem.setBytes (m.setByte pa b) (pa + 1) r

/-- The canonical form of a memory. -/
def Memory.wf (m : Mem) : Bool := SMap.wf (0 : Byte) m

/-- The 128 bytes of a physical line. -/
def State.physLine (s : State) (pa : Nat) : Line := BitVec.ofNat 1024 (leNat (s.dram.bytes pa 128))

/-- A number of `n` bytes in physical memory. -/
def State.physNat (s : State) (pa n : Nat) : Nat := leNat (s.dram.bytes pa n)

/-- Write physical bytes; a write that covers a whole half-sector clears its poison mark (R493). -/
def State.physWrite (s : State) (pa : Nat) (bs : List Byte) : State :=
  { s with dram := s.dram.setBytes pa bs,
           poison := s.poison.filter (fun k => ¬ (pa ≤ 16 * k ∧ 16 * k + 16 ≤ pa + bs.length)) }

/-- Is the sector that holds byte `o` of a line poisoned (R493)? -/
def sectorBad (p : BitVec 8) (o : Nat) : Bool := p.getLsbD (o / 32 * 2) || p.getLsbD (o / 32 * 2 + 1)

/-- The eight poison marks of a physical line (R493). -/
def State.physPoison (s : State) (pa : Nat) : BitVec 8 :=
  BitVec.ofNat 8 ((List.range 8).foldl (fun acc i => if s.poison.contains (pa / 16 + i) then acc + 2 ^ i else acc) 0)

/-- A field of a context's entry of the context table (R264, R272). -/
def State.ctxField (s : State) (ctx off n : Nat) : Nat :=
  s.physNat (bitsOf (s.reg 0x300).toNat 22 30 * 2 ^ 22 + 64 * ctx + off) n

/-- The partition of a context (R264, R266). -/
def State.partOfCtx (s : State) (ctx : Nat) : Nat := s.ctxField ctx 8 1 % 4

/-- A replacement-class entry (R132), reset 0x0000FFFF. -/
def State.rctEntry (s : State) (ctx cls : Nat) : Word := SMap.get 0xFFFF s.rct (8 * ctx + cls)

/-- The policy in force: 3 acts as 2, and WAYS = 0 acts as streaming (R132). -/
def rctPolicy (e : Word) : Nat :=
  let p := bitsOf e.toNat 16 2
  if p = 3 ∨ bitsOf e.toNat 0 16 = 0 then 2 else p

/-! ### Translation -/

/-- A translated leaf (R127). -/
structure Leaf where
  pa   : Nat
  cls  : Nat
  host : Bool
  tbl  : Bool
  rd   : Bool
  wr   : Bool
  ex   : Bool
  deriving DecidableEq, Repr

/-- Is an entry malformed as a table pointer or as a leaf of a level (R126, R127)? -/
def pteMalformed (level : Nat) (e : Nat) : Bool :=
  let leaf := e.testBit 6
  decide (bitsOf e 52 12 ≠ 0) || decide (bitsOf e 3 2 ≠ 0) ||
  (if leaf then
     decide (level ≥ 2) || (decide (level = 0) && !e.testBit 7 && decide (bitsOf e 12 4 ≠ 0)) ||
     (decide (level = 1) && decide (bitsOf e 12 13 ≠ 0)) || (e.testBit 7 && (!e.testBit 8 || decide (level ≠ 0)))
   else decide (level = 0) || decide (bitsOf e 7 5 ≠ 0))

/-- The leaf that an entry gives for an address. -/
def leafOf (level e va : Nat) : Leaf :=
  let base := bitsOf e 12 40 * 2 ^ 12
  let off := if level = 1 then va % 2 ^ 25 else va % 2 ^ 16
  { pa := if e.testBit 7 then base else base + off, cls := bitsOf e 9 3, host := e.testBit 8, tbl := e.testBit 7,
    rd := e.testBit 1, wr := e.testBit 2, ex := e.testBit 5 }

/-- The walk of the five levels (R126): from level `n - 1` down, to the level and entry of a leaf. -/
def State.walkFrom (s : State) (va : Nat) : Nat → Nat → Except BadAccess (Nat × Nat)
  | 0, _ => .error ⟨0x0B, 2, 1, va⟩
  | n + 1, table =>
    let idx := if n = 4 then bitsOf va 52 5 else bitsOf va (16 + 9 * n) 9
    let e := s.physNat (table + 8 * idx) 8
    if !physExists (table + 8 * idx) then .error ⟨0x0B, 2, 6, va⟩
    else if !e.testBit 0 then .error ⟨0x0B, 2, 0, va⟩
    else if pteMalformed n e then .error ⟨0x0B, 2, 1, va⟩
    else if e.testBit 6 then
      let l := leafOf n e va
      if l.host ∨ physExists l.pa then .ok (n, e) else .error ⟨0x0B, 2, 6, va⟩
    else s.walkFrom va n (bitsOf e 12 40 * 2 ^ 12)

/-- The leaf entry of an address of a context, with its level (R125, R126). -/
def State.walk (s : State) (ctx va : Nat) : Except BadAccess (Nat × Nat) :=
  let root := s.ctxField ctx 0 8
  if !root.testBit 0 then .error ⟨0x0B, 2, 0, va⟩
  else match s.walkFrom (va57 va) 5 (bitsOf root 12 40 * 2 ^ 12) with
    | .error b => .error { b with va := va }
    | r => r

/-- The number under which a controller caches the translation of an address at a level (R129). -/
def tlbPage (level va : Nat) : Nat := level * 2 ^ 60 + va57 va / 2 ^ (16 + 9 * level)

/-- The leaves that the translating controller of an address has cached for it (R129). -/
def State.cachedLeaves (s : State) (ctx va : Nat) : List Leaf :=
  (s.tlb.filter fun p => decide (p.1 = ctx ∧ p.2.2.2 = controllerOf va ∧
      (p.2.1 = tlbPage 0 va ∨ p.2.1 = tlbPage 1 va))).map fun p => leafOf (p.2.1 / 2 ^ 60) p.2.2.1.toNat (va57 va)

/-- A leaf a controller cached for an address (R129). -/
def State.cachedLeaf (s : State) (ctx va : Nat) : Option Leaf := (s.cachedLeaves ctx va).head?

/-- Translate an address (R125 to R129): the walk's leaf, or an older cached one that has not been invalidated. -/
def State.translate (s : State) (ctx va : Nat) : Except BadAccess Leaf :=
  let walked := match s.walk ctx va with
    | .ok (n, e) => .ok (leafOf n e (va57 va))
    | .error b => .error b
  let old := (s.cachedLeaves ctx va).filter fun l => match walked with
    | .ok w => decide (w ≠ l)
    | .error _ => true
  match old with
  | [] => walked
  | l :: r => ((l :: r)[Config.tlbPick s.tick % (r.length + 2)]?).elim walked fun l => .ok l

/-- A controller caches a translation it made (R129); one that faulted is never cached (R471). An older one stays until it is
invalidated. -/
def State.cacheWalk (s : State) (ctx va : Nat) : State :=
  match s.walk ctx va with
  | .ok (n, e) =>
    let k := (ctx, tlbPage n va, BitVec.ofNat 64 e, controllerOf va)
    if s.tlb.contains k then s else { s with tlb := k :: s.tlb }
  | .error _ => s

/-- The permission a request needs (R127): read, write, execute. -/
structure Need where
  rd : Bool
  wr : Bool
  ex : Bool
  deriving DecidableEq, Repr

/-- Does a group of words hold a load or a store (R289)? -/
def groupLoads (ws : List Word) : Bool :=
  ws.any (fun w => match decode w with
    | .ok (.ld8 _ _ _) | .ok (.ld8s _ _ _) | .ok (.ld16 _ _ _) | .ok (.ld16s _ _ _) | .ok (.ld32 _ _ _) => true
    | _ => false)
def groupStores (ws : List Word) : Bool :=
  ws.any (fun w => match decode w with
    | .ok (.st8 _ _ _) | .ok (.st16 _ _ _) | .ok (.st32 _ _ _) => true
    | _ => false)

/-- Permissions of a request (R127, R523). -/
def opNeed : HomeOp → Need
  | .load _ | .rowLd _ | .wreg _ | .tbTest => ⟨true, false, false⟩
  | .fetch => ⟨false, false, true⟩
  | .prefetch _ => ⟨true, false, false⟩
  | .store _ | .store4 | .rowSt _ => ⟨false, true, false⟩
  | .atom _ _ | .rowAdd _ _ | .lock _ | .unlock | .tbInit _ | .tbExpect _ | .tbArrive _ | .tbWait _ | .tbAbort
  | .reduce _ => ⟨false, true, false⟩
  | .discard _ => ⟨false, false, false⟩
  | .sink ws _ _ _ => ⟨groupLoads ws, groupStores ws, false⟩

/-- Requests that must find device memory (kind 0x7, R469). -/
def opDeviceOnly : HomeOp → Bool
  | .rowLd _ | .rowSt _ | .rowAdd _ _ | .lock _ | .unlock | .wreg _ | .tbInit _ | .tbExpect _ | .tbArrive _
  | .tbWait _ | .tbTest | .tbAbort => true
  | _ => false

/-- The first permission that is not granted: kind 0x2, 0x3 or 0x4 (R469). -/
def needFails (n : Need) (rd wr ex : Bool) : Option Nat :=
  if n.rd && !rd then some 2 else if n.wr && !wr then some 3 else if n.ex && !ex then some 4 else none

/-! ### What a request does to bytes -/

/-- New value of a word under an atomic operation (R355): `b` the operand, `d` the compare value of ACAS. -/
def atomNew (op : AtomOp) (old b d : Word) : Word :=
  match op with
  | .add => old + b
  | .min => if old.toInt ≤ b.toInt then old else b
  | .max => if b.toInt ≤ old.toInt then old else b
  | .minu => if old.toNat ≤ b.toNat then old else b
  | .maxu => if b.toNat ≤ old.toNat then old else b
  | .and => old &&& b
  | .or => old ||| b
  | .xor => old ^^^ b
  | .xch => b
  | .cas => if old = d then b else old
  | .faddF32 => addWord false old b
  | .faddBf16 => addWord true old b

/-- Is the operation AFADD (R120)? -/
def isFadd : AtomOp → Bool
  | .faddF32 | .faddBf16 => true
  | _ => false

/-- Lanes of one group (equal address) performed in ascending lane order (R119): old value of each lane, final value.
For AFADD the lanes are pre-summed (R120): `p` is the running sum. -/
def atomLanes (op : AtomOp) (m0 : Word) : Word → Option Word → List LaneAcc → List (Nat × Nat) × Word
  | cur, p, [] => ([], match p with
      | some p => if isFadd op then atomNew op m0 p 0 else cur
      | none => cur)
  | cur, p, a :: r =>
    let b := BitVec.ofNat 32 a.data
    let old := if isFadd op then (match p with | some p => atomNew op m0 p 0 | none => m0) else cur
    let p' := match p with
      | some p => if isFadd op then atomNew op p b 0 else p
      | none => b
    let rest := atomLanes op m0 (if isFadd op then cur else atomNew op cur b (BitVec.ofNat 32 a.data2)) (some p') r
    ((a.lane, old.toNat) :: rest.1, rest.2)

/-- Distinct values in order of first appearance. -/
def dedupNat : List Nat → List Nat
  | [] => []
  | x :: r => x :: (dedupNat r).filter (· ≠ x)

/-- The four bytes of a word at an address. -/
def cellsOf (va n x : Nat) : List (Nat × Nat) := (leBytes n x).mapIdx (fun i b => (va + i, b.toNat))

/-- An element sum or reduction of ROWADD and REDUCE-TILE on `w` bytes (R121, R242). -/
def reduceElem (typ old v : Nat) : Nat :=
  match typ / 16, typ % 16 with
  | 0, 0 => (old + v) % 2 ^ 32
  | 0, 1 => if sext 32 v < sext 32 old then v else old
  | 0, 2 => if sext 32 old < sext 32 v then v else old
  | 0, 3 => old &&& v
  | 0, 4 => old ||| v
  | 0, _ => old ^^^ v
  | 1, 0 => addRnd fmtF32 0 old v
  | 1, 1 => fminE fmtF32 false old v
  | 1, _ => fmaxE fmtF32 false old v
  | _, 0 => addRnd fmtBF16 0 old v
  | _, 1 => fminE fmtBF16 false old v
  | _, _ => fmaxE fmtBF16 false old v

/-- Bytes read as a number through a reader. -/
def readNat (rd : Nat → Byte) (va n : Nat) : Nat := leNat ((List.range n).map (fun i => rd (va + i)))

/-- A reader after writes. -/
def overlay (rd : Nat → Byte) (cells : List (Nat × Nat)) (va : Nat) : Byte :=
  match cells.reverse.find? (fun p => decide (p.1 = va)) with
  | some p => BitVec.ofNat 8 p.2
  | none => rd va

/-- What a request returns (lane, value) and writes (address, byte), given the bytes that stand there (R344, R345,
R354, R356, R242). Operations with state of their own at home (locks, barriers, WREG, sink packets) are elsewhere. -/
def opResult (q : HomeReq) (rd : Nat → Byte) : List (Nat × Nat) × List (Nat × Nat) :=
  match q.op with
  | .load n => (q.accs.map (fun a => (a.lane, readNat rd a.va n)), [])
  | .rowLd _ => (q.accs.map (fun a => (a.lane, readNat rd a.va 16)), [])
  | .store n => ([], q.accs.flatMap (fun a => cellsOf a.va n a.data))
  | .rowSt _ => ([], q.accs.flatMap (fun a => cellsOf a.va 16 a.data))
  | .store4 =>
    ([], q.accs.foldl (fun cells a =>
      let old := (overlay rd cells a.va).toNat
      cells ++ [(a.va, if a.data2 = 0 then old / 16 * 16 + a.data % 16 else old % 16 + a.data % 16 * 16)]) [])
  | .atom op _ =>
    (dedupNat (q.accs.map LaneAcc.va)).foldl (fun (p : List (Nat × Nat) × List (Nat × Nat)) va =>
      let m0 := BitVec.ofNat 32 (readNat rd va 4)
      let r := atomLanes op m0 m0 none (q.accs.filter (fun a => a.va = va))
      (p.1 ++ r.1, p.2 ++ cellsOf va 4 r.2.toNat)) ([], [])
  | .rowAdd _ bf =>
    ([], q.accs.foldl (fun cells a =>
      cells ++ (List.range (if bf then 8 else 4)).flatMap (fun e =>
        let w := if bf then 2 else 4
        let old := readNat (overlay rd cells) (a.va + w * e) w
        cellsOf (a.va + w * e) w (reduceElem (if bf then 0x20 else 0x10) old (a.data / 2 ^ (8 * w * e) % 2 ^ (8 * w)))))
      [])
  | .reduce typ =>
    ([], q.accs.flatMap (fun a =>
      let w := if typ / 16 = 2 then 2 else 4
      cellsOf a.va w (reduceElem typ (readNat rd a.va w) a.data)))
  | _ => ([], [])

/-- The lines a request touches (R167, R290). -/
def reqLines (q : HomeReq) : List Nat :=
  match q.op with
  | .rowLd n | .rowSt n | .rowAdd n _ => (List.range (ceilDiv n 128)).map (fun i => lineId q.ctx (q.va + 128 * i))
  | _ => [lineId q.ctx q.va]

/-! ### Home slices -/

/-- The half-sectors of a line that a list of cells covers whole. -/
def wholeHalves (cells : List (Nat × Nat)) : BitVec 8 :=
  BitVec.ofNat 8 ((List.range 8).foldl (fun acc i =>
    if (List.range 16).all (fun j => cells.any (fun c => decide (c.1 % 128 = 16 * i + j))) then acc + 2 ^ i else acc) 0)

/-- Mark of written bytes of a line. -/
def cellMask (cells : List (Nat × Nat)) : BitVec 128 :=
  cells.foldl (fun m c => m ||| BitVec.ofNat 128 (2 ^ (c.1 % 128))) 0

/-- A half of the bridge's host-facing cache, by host address / 64; one that is not held has state 0 (R142). -/
def State.halfAt (s : State) (h : Nat) : HostHalf := SMap.get {} s.halves h

/-- The sectors of a 64-byte half that a list of cells covers whole. -/
def wholeSectors (cells : List (Nat × Nat)) : BitVec 2 :=
  BitVec.ofNat 2 ((List.range 2).foldl (fun acc i =>
    if (List.range 32).all (fun j => cells.any (fun c => decide (c.1 % 64 = 32 * i + j))) then acc + 2 ^ i else acc) 0)

/-- Bytes of a 64-byte half written: offset and value; `bad` marks the poisoned sectors among them (R493). -/
def HostHalf.put (x : HostHalf) (cells : List (Nat × Nat)) (bad : BitVec 2) : HostHalf :=
  { x with dirty := true, poison := (x.poison &&& ~~~(wholeSectors cells)) ||| bad, data := ((cells.foldl (fun (l : Line) c => setLineByte l (c.1 % 64) (BitVec.ofNat 8 c.2)) (x.data.zeroExtend 1024))).truncate 512 }

/-- The bridge writes bytes of a line of host memory: `pa` is the line's host address; bytes of a sector that `bad` names carry the
CXL poison indication as 1 (R259, R493). -/
def State.hostSend (s : State) (ctx va pa : Nat) (cells : List (Nat × Nat)) (bad : BitVec 2) : State :=
  let q : HomeReq := ⟨.nobody, 0, ctx, va, .store 1,
    cells.map (fun c => ⟨0, c.1, c.2, if bad.getLsbD (c.1 % 64 / 32) then 1 else 0⟩)⟩
  { s with nextId := s.nextId + 1, bridge := s.bridge ++
    [{ id := s.nextId, q := q, pa := pa, stage := 9, tries := 0, old := 0, fill := none }] }

/-- Bytes of a host line leave the device caches: into the halves that the bridge holds exclusive, else to the host, and into a half
that it holds shared as well (R142, R259). `bad` are the poison marks of the line. -/
def State.hostWrite (s : State) (ctx va pa : Nat) (cells : List (Nat × Nat)) (bad : BitVec 8) : State :=
  (List.range 2).foldl (fun s h =>
    let mine := cells.filter fun c => decide (c.1 % 128 / 64 = h)
    let x := s.halfAt (pa / 64 + h)
    let marks := BitVec.ofNat 2 ((List.range 2).foldl (fun m i =>
      if mine.any (fun c => decide (c.1 % 64 / 32 = i)) && (sectorBad bad (64 * h + 32 * i)) then m + 2 ^ i else m) 0)
    let y := x.put mine marks
    if mine = [] then s
    else if x.state = 2 then { s with halves := SMap.set {} s.halves (pa / 64 + h) y }
    else
      let s : State := if x.state = 0 then s else { s with halves := SMap.set {} s.halves (pa / 64 + h) { y with dirty := x.dirty } }
      s.hostSend ctx va pa mine marks) s

/-- Bytes of a line in device memory are written: a half-sector that they cover whole loses its mark (R493). -/
def State.physCells (s : State) (base : Nat) (cells : List (Nat × Nat)) : State :=
  let whole := wholeHalves cells
  { s with dram := cells.foldl (fun m c => m.setByte (base + c.1 % 128) (BitVec.ofNat 8 c.2)) s.dram,
           poison := s.poison.filter fun k => !(decide (base / 16 ≤ k ∧ k < base / 16 + 8) && whole.getLsbD (k - base / 16)) }

/-- Send the dirty bytes of a line that a mask names to the memory that owns it, with the marks of their sectors (R133, R493). -/
def State.writeBackPart (s : State) (lid : Nat) (mask : BitVec 128) : State :=
  match SMap.look s.l2 lid with
  | none => s
  | some x =>
    let out := x.dirty &&& mask
    if out = 0 then s
    else
      let s := s.countUnit 1 (sliceOf (lineVa lid)) 4 6 1
      let bs := (List.range 128).filter (fun o => out.getLsbD o)
      let s := { s with l2 := SMap.put s.l2 lid { x with dirty := x.dirty &&& ~~~out } }
      if x.host then
        s.hostWrite (lineCtx lid) (lineVa lid) x.pa (bs.map fun o => (lineVa lid + o, (lineByte x.data o).toNat)) x.poison
      else
        let s := s.countUnit 2 (controllerOfPa x.pa) 4 2 1
        let s := { s with dram := bs.foldl (fun m o => m.setByte (x.pa + o) (lineByte x.data o)) s.dram }
        let sent := (List.range 8).filter fun i => bs.any fun o => decide (o / 32 = i / 2)
        { s with poison := s.poison.filter (fun k => ¬ (x.pa / 16 ≤ k ∧ k < x.pa / 16 + 8 ∧ sent.contains (k - x.pa / 16))) ++
                 sent.filterMap (fun i => if x.poison.getLsbD i then some (x.pa / 16 + i) else none) }

/-- Send the bytes of a line that are marked dirty to the memory that owns it (R133). Bytes that stand under two synonyms
reach their page in the order of these write-backs (R131; DESIGN CHOICE, log entry 100). -/
def State.writeBack (s : State) (lid : Nat) : State := s.writeBackPart lid (BitVec.allOnes 128)

/-- A data fill of a line that is still on its way to an L1 brings its values only. -/
def stripFill (lid : Nat) (p : Pending) : Pending :=
  match p.ev with
  | .loadReply q vals (some d) u bad =>
    if q.op ≠ .fetch ∧ lineId q.ctx q.va = lid then { p with ev := .loadReply q vals none u bad }
    else { p with ev := .loadReply q vals (some d) u bad }
  | _ => p

/-- Cores to which an invalidation of a line is on its way. -/
def State.invalidating (s : State) (lid : Nat) : List Nat :=
  s.agenda.filterMap fun p => match p.ev with
    | .sharerInvalidate c _ ctx va => if lineId ctx va = lid then some c else none
    | _ => none

/-- Drop a line everywhere: its L1 sharers and those that an invalidation is still to reach, fills on their way to them, then its
home slice (R135, R150). -/
def State.dropLine (s : State) (lid : Nat) : State :=
  match SMap.look s.l2 lid with
  | none => s
  | some x =>
    let s := (x.sharers ++ s.invalidating lid).foldl (fun s c => s.mapCore c (fun k => { k with l1 := SMap.drop k.l1 lid })) s
    { s with l2 := SMap.drop s.l2 lid, agenda := s.agenda.map (stripFill lid) }

/-- Evict a line: dirty bytes go to memory first (R133, R135). -/
def State.evictLine (s : State) (lid : Nat) : State := (s.writeBack lid).dropLine lid

/-- The lines that the ways of a line's set hold. -/
def State.setOf (s : State) (lid : Nat) : SMap L2Line :=
  s.l2.filter fun p => decide (p.2.way < 16) && decide (sliceOf (lineVa p.1) = sliceOf (lineVa lid)) &&
    decide (Config.l2Set p.1 % 768 = Config.l2Set lid % 768)

/-- Allocate a way of `ways` for a line (R132, R133): one whose age is 3 (an empty way counts as such; DESIGN CHOICE, log
entry 24), which gives up its line; with none, every way of `ways` ages by one and the search repeats. -/
def State.takeWay (s : State) (lid ways : Nat) : Nat → State × Nat
  | 0 => (s, 0)
  | n + 1 =>
    let set := s.setOf lid
    let holder := fun (w : Nat) => set.find? fun p => decide (p.2.way = w)
    let open3 := (List.range 16).filter fun w => ways.testBit w && (match holder w with
      | some p => decide (3 ≤ p.2.age)
      | none => true)
    match open3 with
    | [] =>
      let older := fun (p : Nat × L2Line) =>
        if ways.testBit p.2.way && set.any (fun x => decide (x.1 = p.1)) then (p.1, { p.2 with age := p.2.age + 1 }) else p
      State.takeWay { s with l2 := s.l2.map older } lid ways n
    | w :: r =>
      let w := if set = [] then w else (w :: r).getD (Config.victim s.tick % (r.length + 1)) w
      (match holder w with
       | some p => s.evictLine p.1
       | none => s, w)

/-- One line takes written words: data, dirty marks, poison and the unsettled mark of the write (R138, R160, R493). The
sharers stay where `upd` says that they are sent an update. -/
def L2Line.take (x : L2Line) (upd : Bool) (cells : List (Nat × Nat)) (wid : Nat) (dests : List Nat) : L2Line :=
  { x with
    data := setLineCells x.data cells, dirty := x.dirty ||| cellMask cells, age := 0,
    poison := x.poison &&& ~~~(wholeHalves cells),
    sharers := if upd then x.sharers else x.sharers.filter (fun c => !dests.contains c),
    unsettled := if dests = [] then x.unsettled else wid :: x.unsettled }

/-- The cells of a list that lie in a line. -/
def cellsIn (lid : Nat) (cells : List (Nat × Nat)) : List (Nat × Nat) :=
  cells.filter (fun c => decide (va57 c.1 / 128 = lid % 2 ^ 50))

/-- The bridge makes the host give up lines that a device write changes (R258): the back-invalidate snoops are sent, and
for those of write `wid` of a device agent the acknowledgement waits. -/
def State.snoopHost (s : State) (lids : List Nat) (wid : Nat) : State :=
  let hit := lids.filter s.hostLines.contains
  hit.foldl (fun s lid =>
    let q : HomeReq := ⟨.nobody, 0, lineCtx lid, lineVa lid, .discard 0, []⟩
    { s with hostLines := s.hostLines.filter (· ≠ lid), nextId := s.nextId + 1,
             bridge := s.bridge ++ [{ id := s.nextId, q := q, pa := 0, stage := 10, tries := 0, old := wid, fill := none }] }) s

/-- The number under which the host stands among the agents that must acknowledge a write. -/
def hostAgent : Nat := 256

/-- Is a reply the answer to the host's own write? -/
def hostsOwn : Instr → Bool
  | .writerAck q _ _ => match q.who with
    | .host _ => true
    | _ => false
  | _ => false

/-- Perform writes on lines that home holds (R138 steps 3 to 5, R167): the words are applied and sent to every sharer but
`skip`, as an update or, where the pattern counter of the one line says so, as an invalidation; `reply` is withheld until
every sharer has answered. A write of several lines is one update to each sharer of any of them, whatever their counters
say: an L1 never holds part of a row (R167). -/
def State.homeWriteLines (s : State) (lids : List Nat) (cells : List (Nat × Nat)) (skip : Option Nat) (ch : Chan)
    (reply : Instr) : State :=
  let wid := s.nextId
  let s := { s with nextId := wid + 1 }
  let sharersOf := fun (s : State) (lid : Nat) => match SMap.look s.l2 lid with
    | some x => x.sharers.filter (fun c => decide (some c ≠ skip))
    | none => []
  let updates := fun (s : State) (lid : Nat) => match SMap.look s.l2 lid with
    | some x => decide (1 < lids.length) || decide (x.pattern ≥ 2)
    | none => false
  let ups := lids.filter (updates s)
  let invs := lids.filter (fun lid => !updates s lid)
  let upTo := dedupNat (ups.flatMap (sharersOf s))
  let msgs : List (Nat × Instr) :=
    upTo.map (fun c => (c, .sharerUpdate c wid ((lids.head?.map lineCtx).getD 0)
      ((ups.filter (fun lid => (sharersOf s lid).contains c)).flatMap (fun lid => cellsIn lid cells)))) ++
    invs.flatMap (fun lid => (sharersOf s lid).map (fun c => (c, .sharerInvalidate c wid (lineCtx lid) (lineVa lid))))
  let sl := sliceOf ((lids.head?.map lineVa).getD 0)
  let s := lids.foldl (fun s lid => match SMap.look s.l2 lid with
    | some x =>
      let s := { s with l2 := SMap.put s.l2 lid (x.take (updates s lid) (cellsIn lid cells) wid (sharersOf s lid)) }
      if x.policy = 1 then s.writeBack lid else s
    | none => s) s
  let s := s.countUnit 1 sl 4 3 upTo.length
  let s := s.countUnit 1 sl 4 4 (msgs.length - upTo.length)
  let s := msgs.foldl (fun s m => s.send (.back sl m.1) m.2) s
  let hosts := if s.linkUp && !hostsOwn reply then (lids.filter s.hostLines.contains).map fun _ => hostAgent else []
  let s := if hosts = [] then s else s.snoopHost lids wid
  if msgs = [] ∧ hosts = [] then s.send ch reply
  else { s with writes := s.writes ++
    [{ wid := wid, lid := lids.headD 0, waits := msgs.map Prod.fst ++ hosts, notify := upTo, reply := reply }] }

/-- Perform writes on one line that home holds. -/
def State.homeWrite (s : State) (lid : Nat) (cells : List (Nat × Nat)) (skip : Option Nat) (ch : Chan) (reply : Instr) :
    State := s.homeWriteLines [lid] cells skip ch reply

/-- Does the bridge hold both halves of the host line at `pa` exclusive (R142, R260)? -/
def State.hostExclusive (s : State) (pa : Nat) : Bool :=
  decide ((s.halfAt (pa / 64)).state = 2 ∧ (s.halfAt (pa / 64 + 1)).state = 2)

/-- The first line of a request that home does not hold with the permission it needs (R523). -/
def State.missingLine (s : State) (q : HomeReq) : Option Nat :=
  (reqLines q).find? (fun lid => match SMap.look s.l2 lid with
    | none => true
    | some x => (needFails (opNeed q.op) x.rd x.wr x.ex).isSome || (opDeviceOnly q.op && x.host) ||
        (x.host && (opNeed q.op).wr && !s.hostExclusive x.pa))

/-- Bytes of a context as home slices hold them. -/
def State.heldByte (s : State) (ctx va : Nat) : Byte :=
  match SMap.look s.l2 (lineId ctx va) with
  | some x => lineByte x.data (va % 128)
  | none => 0

/-- Unsettled writes of the lines of a request (R160). -/
def State.unsettledOf (s : State) (q : HomeReq) : List Nat :=
  (reqLines q).flatMap (fun lid => match SMap.look s.l2 lid with
    | some x => x.unsettled
    | none => [])

/-- Does a request come from a core: of a team, or its PREFETCH (R349)? -/
def fromCore (q : HomeReq) : Bool :=
  match q.who, q.op with
  | .team _ _, _ => true
  | .nobody, .prefetch _ => true
  | _, _ => false

/-- The channel of an answer: back to the core for a core's request, else unordered (R140). -/
def replyChan (q : HomeReq) : Chan := if fromCore q then .back (sliceOf q.va) q.core else .free

/-- Does the operation only read (its answer is a LOAD_REPLY)? -/
def opIsRead : HomeOp → Bool
  | .load _ | .fetch | .prefetch _ | .rowLd _ => true
  | _ => false

/-- The answer to a failed request. -/
def failReply (q : HomeReq) (b : BadAccess) : Instr :=
  match q.op with
  | .sink _ _ _ _ => .sinkResult q 2 [] (some b)
  | op => if opIsRead op then .loadReply q [] none [] (some b) else .writerAck q [] (some b)

/-- The answer to a request that waited (R359, R360, R364). -/
def waitAnswer (q : HomeReq) (r : WaitReply) : Instr :=
  match q.who with
  | .team k o => .waitReturn k o r
  | _ => .writerAck q [] none

/-- Send a failed request's answer. -/
def State.fail (s : State) (q : HomeReq) (b : BadAccess) : State := s.send (replyChan q) (failReply q b)

/-- The event by which a request arrives at its home slice. -/
def arrivalEvent (q : HomeReq) : Instr :=
  match q.op with
  | .load _ | .fetch | .prefetch _ | .wreg _ => .homeRequest q
  | .store _ | .store4 | .discard _ | .reduce _ => .homeWrite q
  | .atom _ _ => .homeAtomic q
  | .rowLd _ | .rowSt _ | .rowAdd _ _ => .rowAtHome q
  | .lock _ => .lockAtHome q
  | .unlock => .unlockAtHome q
  | .tbInit _ => .tbInitOp q
  | .tbExpect _ => .tbExpectOp q
  | .tbArrive _ => .tbArriveOp q
  | .tbWait _ => .tbWaitOp q
  | .tbTest => .tbTestOp q
  | .tbAbort => .tbAbortOp q
  | .sink _ _ _ _ => .sinkPacketAtHome q

/-- Send a request on its way to the home slice: a core's requests travel on its ordered path (R138, R148), but for instruction
fetches, which may pass stores (R201). -/
def State.request (s : State) (q : HomeReq) : State :=
  s.send (if fromCore q && decide (q.op ≠ .fetch) then .path q.core (sliceOf q.va) else .free) (arrivalEvent q)

/-- An answer that waits, as the writer's own does, until every sharer has applied write `wid` (R138). -/
def State.alsoAnswer (s : State) (wid : Nat) (q : HomeReq) (r : Instr) : State :=
  if s.writes.any fun w => decide (w.wid = wid) then
    { s with writes := s.writes.map fun w => if w.wid = wid then { w with more := w.more ++ [(q, r)] } else w }
  else s.send (replyChan q) r

/-! ### Values read and not settled (R160) -/

/-- The core that a request's requester sits on, for notices (R160). -/
def homeCore (q : HomeReq) : Option Nat :=
  match q.who with
  | .team _ _ => some q.core
  | _ => none

/-- A core that read unsettled values is told when they settle (R160). -/
def State.notifyCore (s : State) (wids : List Nat) (core : Option Nat) : State :=
  match core with
  | none => s
  | some c =>
    let tell := fun (w : PendingWrite) =>
      if wids.contains w.wid && !w.notify.contains c then { w with notify := c :: w.notify } else w
    { s with writes := s.writes.map tell }

/-- A request has read unsettled values at home: its team waits for them at its next acquire (R160). -/
def State.sinkReads (s : State) (q : HomeReq) : State :=
  let wids := s.unsettledOf q
  match q.who with
  | .team k _ => (s.notifyCore wids (homeCore q)).mapTeam k fun t =>
      { t with unsettled := t.unsettled ++ wids.map fun w => (SeenWrite.home w, false) }
  | _ => s

/-- A request waits at home for a fill of `lid`; the first one sends a translation (R125, R471). -/
def State.awaitFill (s : State) (lid : Nat) (q : HomeReq) : State :=
  match s.fills.find? (fun p => decide (p.1 = lid)) with
  | some _ => { s with fills := s.fills.map (fun p => if p.1 = lid then (p.1, p.2 ++ [q]) else p) }
  | none => { s with fills := s.fills ++ [(lid, [q])] }.send .free
      (.translateRequest { q with va := if (reqLines q).length > 1 then canonOf (lineVa lid) else q.va })

/-- Is a fill of one of the request's lines in progress? Then the request waits behind it, in arrival order. -/
def State.fillOf (s : State) (q : HomeReq) : Option Nat :=
  (reqLines q).find? (fun lid => s.fills.any (fun p => decide (p.1 = lid)))

/-! ### Operations with state at home: locks, transaction barriers, WREG (R247, R359, R360, R483 to R486) -/

/-- Fields of word 0 of a barrier object (R246). -/
def tbPending (w : Nat) : Nat := w % 2 ^ 48
def tbPhase (w : Nat) : Bool := w.testBit 48
def tbSpent (w : Nat) : Bool := w.testBit 49 || w.testBit 50
def tbWaiters (w : Nat) : Nat := bitsOf w 56 8

/-- Word 0 from its fields; reserved bits are written zero (R486). -/
def tbWord (pending : Nat) (phase ovr abt : Bool) (waiters : Nat) : Nat :=
  pending % 2 ^ 48 + (if phase then 2 ^ 48 else 0) + (if ovr then 2 ^ 49 else 0) + (if abt then 2 ^ 50 else 0) +
    2 ^ 56 * waiters

/-- Release every waiter registered on a barrier (R247); each has read its words (R160). -/
def State.tbRelease (s : State) (ctx va : Nat) : State :=
  let rel := s.waiters.filter (fun w => decide (w.kind = 1 ∧ w.ctx = ctx ∧ w.va = va))
  let s := { s with waiters := s.waiters.filter (fun w => ¬ (w.kind = 1 ∧ w.ctx = ctx ∧ w.va = va)) }
  rel.foldl (fun s w => (s.sinkReads w.q).send (replyChan w.q) (waitAnswer w.q .tbReleased)) s

/-- What a barrier operation does to words 0 and 1: the new words, whether every waiter is released, the value returned,
and whether it is refused (R247, R464, R483 to R485). -/
def tbStep (op : HomeOp) (w0 w1 : Nat) : (Nat × Nat) × Bool × Nat × Bool :=
  match op with
  | .tbInit c => ((tbWord c false false false 0, c % 2 ^ 48), false, 0, false)
  | .tbExpect b =>
    if tbSpent w0 then ((w0, w1), false, 0, false)
    else if tbPending w0 + b ≥ 2 ^ 48 then ((w0, w1), false, 0, true)
    else ((tbWord (tbPending w0 + b) (tbPhase w0) false false (tbWaiters w0), w1), false, 0, false)
  | .tbArrive b =>
    if tbSpent w0 then ((w0, w1), false, 0, false)
    else if b < tbPending w0 then
      ((tbWord (tbPending w0 - b) (tbPhase w0) false false (tbWaiters w0), w1), false, 0, false)
    else if b = tbPending w0 then ((tbWord (w1 % 2 ^ 48) (!tbPhase w0) false false 0, w1), true, 0, false)
    else ((tbWord 0 (!tbPhase w0) true false 0, w1), true, 0, false)
  | .tbAbort =>
    if tbSpent w0 then ((w0, w1), false, 0, false)
    else ((tbWord 0 (!tbPhase w0) false true 0, w1), true, 0, false)
  | _ => ((w0, w1), false, w0, false)

/-- Lock-word value of a team (R358). -/
def State.lockValue (s : State) (k : Nat) : Nat :=
  let t := SMap.get default s.teams k
  let c := s.crewOf t
  c.grid + c.num * 2 ^ 40 + t.idx * 2 ^ 36

end Sys2Proof.Machine
end

