-- ==== Sys2Proof/Machine/Wft.lean ====
section
/-!
DEFINITION. The wait-for table (08_scheduling R218 to R221, 25_scheduling_failures R497 to R504): holders of objects,
effective priority, the walk that finds cycles, and the room of the table. Waits and holdings are fields of the teams;
the table's entries are those marked tracked.
-/
namespace Sys2Proof.Machine

/-- Is `h` the grid `g`, or a node of the instance `g`? -/
def State.namedBy (s : State) (h g : Nat) : Bool := decide (h = g) || decide ((s.gridAt h).inst.map Prod.fst = some g)

/-- Is `h` named by the handle `g`, or a descendant of what it names? Kin are at most 15 deep (R49). -/
def State.descends (s : State) : Nat → Nat → Nat → Bool
  | 0, h, g => s.namedBy h g
  | n + 1, h, g => s.namedBy h g || (match (s.gridAt h).parent with
      | some p => s.descends n p g
      | none => false)

/-- The gang of a team, if it is in one. -/
def State.gangOf (s : State) (t : Team) : Option Gang :=
  if t.gang.getLsbD 31 then (s.crewOf t).gangs.find? (fun g => decide (g.members.toNat = t.gang.toNat % 65536)) else none

/-- Key of team `i` of a crew. -/
def teamKey (crew i : Nat) : Nat := 16 * crew + i

/-- Device team-slot number of a team: its core and its slot there, its last ones while it is saved (R219; DESIGN CHOICE, log entry
130). -/
def State.slotNumber (s : State) (k : Nat) : Nat :=
  let t := SMap.get default s.teams k
  (s.crewOf t).core * 128 + t.slot

/-- Insert a team into a list in ascending order of a key. -/
def insertBy (f : Nat → Nat) (k : Nat) : List Nat → List Nat
  | [] => [k]
  | j :: r => if f k < f j then k :: j :: r else j :: insertBy f k r

/-- A stable sort by a key. -/
def sortBy (f : Nat → Nat) (l : List Nat) : List Nat := l.foldl (fun acc k => insertBy f k acc) []

/-- Teams in ascending device team-slot order (R219). -/
def State.bySlot (s : State) (l : List Nat) : List Nat := sortBy s.slotNumber l

/-- The participants of a barrier as they stand now (R47, R48): teams of the crew below CBAR; teams of the grid resident
on the cluster; the first KBAR teams of the placement group. -/
def State.barParts (s : State) (b : BarId) : List Nat :=
  let sel := fun (f : Team → Crew → Bool) => (s.teams.filter fun p => f p.2 (s.crewOf p.2)).map Prod.fst
  match b with
  | .crew k =>
    let r := (s.gridAt (s.crewAt k).grid).launch
    let n := if r.cbar = 0 then r.crewTeams else r.cbar
    sel fun t _ => decide (t.crew = k ∧ t.idx < n)
  | .cluster g c => sel fun t x => decide (x.grid = g ∧ clusterOfCore x.core = c ∧ t.place = .resident)
  | .group g n =>
    let r := (s.gridAt g).launch
    sel fun t x => decide (x.grid = g ∧ x.group = n ∧ groupPos r n x.num t.idx < r.kbar)

/-- The teams that hold the object a team waits on, in ascending slot order (R218). -/
def State.holders (s : State) (k : Nat) (o : WaitObj) : List Nat :=
  let t := SMap.get default s.teams k
  let sel := fun (f : Nat → Team → Bool) => s.bySlot ((s.teams.filter (fun p => f p.1 p.2)).map Prod.fst)
  match o with
  | .lock va => sel fun _ u => decide (s.ctxOf u = s.ctxOf t) && u.holdings.any (fun h => h.isLock && h.tracked && decide (h.va = va))
  | .tb va | .wreg va =>
    sel fun _ u => decide (s.ctxOf u = s.ctxOf t) && u.holdings.any (fun h => !h.isLock && h.tracked && decide (h.va = va))
  | .barrier b token =>
    let x := s.barAt b
    let parts := if x.opened then x.parts else s.barParts b
    if x.c = token then s.bySlot (parts.filter (fun j => !x.arrived.contains j)) else []
  | .grid h => sel fun _ u => s.descends 15 (s.crewOf u).grid h.toNat
  | .gang mask =>
    (match s.gangOf t with
     | some g => sel fun _ u => decide (u.crew = t.crew) && g.members.getLsbD u.idx && !g.dissolve.getLsbD u.idx
     | none => sel fun j u => decide (u.crew = t.crew) && mask.getLsbD u.idx && !(s.crewOf t).rendezvous.contains (mask, j))
  | .latch =>
    (match s.gangOf t with
     | some g => sel fun j u => decide (u.crew = t.crew) && g.members.getLsbD u.idx && !g.latch.any (fun c => decide (c.team = j))
     | none => [])
  | _ => []

/-- Base priority of a team: its grid's PRIO; teams of a SINGLE graph's running instance take at least the priority of
an acceptance that waits for it (R211, R220). -/
def State.basePrio (s : State) (t : Team) : Nat :=
  let g := s.gridOf t
  let held := fun (w : SingleWait) => s.insts.any fun p =>
    decide (p.2.ctx = w.ctx ∧ p.2.graph = w.graph) && s.descends 15 (s.crewOf t).grid p.1
  (s.singles.filter fun w => w.tracked && held w).foldl (fun m w => max m w.prio) g.launch.prio

/-- Effective priority to a depth: the largest of the base and of every tracked waiter on an object the team holds
(R220). -/
def State.effPrioAt (s : State) : Nat → Nat → Nat
  | 0, k => s.basePrio (SMap.get default s.teams k)
  | n + 1, k =>
    (s.teams.filter (fun p => match p.2.waitsOn with
      | some o => !p.2.waitUntracked && (s.holders p.1 o).contains k
      | none => false)).foldl (fun m p => max m (s.effPrioAt n p.1)) (s.basePrio (SMap.get default s.teams k))

/-- Effective priority (R220). -/
def State.effPrio (s : State) (k : Nat) : Nat := s.effPrioAt 16 k

/-- Objects whose holders the walk follows (R219). -/
def walkFollows : WaitObj → Bool
  | .lock _ | .barrier _ _ | .tb _ | .wreg _ | .gang _ | .latch => true
  | _ => false

/-- The walk of R219 at the team `h`: a chain of holders, from `h` on, whose last waits on an object of `me`. A path visits at most
`n` teams, which finds every cycle of up to `n + 1` teams and no longer one. -/
def State.chase (s : State) (me : Nat) : Nat → Nat → Option (List Nat)
  | 0, h => if h = me then some [] else none
  | n + 1, h =>
    if h = me then some []
    else
      let u := SMap.get default s.teams h
      match u.waitsOn with
      | some o =>
        if walkFollows o ∧ !u.waitUntracked then ((s.holders h o).findSome? (State.chase s me n)).map (h :: ·) else none
      | none => none

/-- At a barrier, a rendezvous or a latch the new waiter is itself arriving, so it is not one of those it waits for. -/
def arrives : WaitObj → Bool
  | .barrier _ _ | .gang _ | .latch => true
  | _ => false

/-- The cycle that a new wait of `k` on `o` closes: the other teams of it, in order, at most 15 (R219; that the 15 teams are those
of one path is DEDUCED, log entry 115). -/
def State.cycleOf (s : State) (k : Nat) (o : WaitObj) : Option (List Nat) :=
  let hs := s.holders k o
  if walkFollows o then (if arrives o then hs.filter (fun j => decide (j ≠ k)) else hs).findSome? (s.chase k 15) else none

/-- Waits of a team that the table records (R218, R381); parking and held saves are entries of their own (R444, R505). -/
def inTable : WaitObj → Bool
  | .lock _ | .barrier _ _ | .tb _ | .wreg _ | .grid _ | .pool _ | .gang _ | .latch => true
  | _ => false

/-- Has the team's wait an entry in the table? -/
def Team.waitEntry (t : Team) : Bool := match t.waitsOn with
  | some o => inTable o && !t.waitUntracked
  | none => false

/-- Entries of a team: its tracked wait, its tracked holdings, and those with no holder (R218, R444, R504, R505). -/
def Team.entryCount (t : Team) : Nat :=
  (if t.waitEntry then 1 else 0) + (t.holdings.filter (fun h => h.tracked)).length + t.noHolder.length

/-- Its entries that are in the extension (R503). -/
def Team.farCount (t : Team) : Nat :=
  (if t.waitEntry && t.waitExt then 1 else 0) + t.farHolds.length + (t.noHolder.filter id).length

/-- The die whose table holds the waits of a partition's launch unit: that of the partition's lowest cluster. -/
def State.launchDie (s : State) (part : Nat) : Nat :=
  (((List.range 64).find? fun c => decide (s.partOfCluster c = part)).getD 0) / 16

/-- Entries of the table of one die: those of its teams, and of acceptances that wait for a SINGLE graph (R211, R218). -/
def State.wftCount (s : State) (die : Nat) : Nat :=
  (s.teams.filter (fun p => decide (dieOfCore (s.crewOf p.2).core = die))).foldl (fun n p => n + (p.2.entryCount - p.2.farCount))
    (s.singles.filter fun w => w.tracked && !w.ext && decide (s.launchDie w.part = die)).length

/-- Entries of the extension (R503). -/
def State.extCount (s : State) : Nat :=
  s.teams.foldl (fun n p => n + p.2.farCount) (s.singles.filter fun w => w.tracked && w.ext).length

/-- Where one more entry of a die goes: its table, or the extension (`true`), where it stays; `none` where neither has room
(R502, R503). -/
def State.wftPlace (s : State) (die : Nat) : Option Bool :=
  if s.wftCount die < 4096 then some false
  else if (s.reg 0x630).getLsbD 63 ∧ s.extCount < 65536 then some true else none

/-- Is there room for one more entry on a die, in its table or the extension? -/
def State.wftRoom (s : State) (die : Nat) : Bool := (s.wftPlace die).isSome

/-- Entries of the wait-for table that teams of a partition hold now (R274). -/
def State.entriesIn (s : State) (part : Nat) : Nat :=
  (s.teams.filter (fun p => decide (s.partOfCluster (clusterOfCore (s.crewOf p.2).core) = part))).foldl
    (fun n p => n + p.2.entryCount) 0

/-- Highest number of entries held at once, per partition (R274): WFTPEAK takes the number held now when that is larger. -/
def State.peakReg (s : State) (m : SMap (BitVec 64)) (part : Nat) : SMap (BitVec 64) :=
  let off := 0x140000 + 0x80 * part + 8 * 7
  let old := (SMap.get 0 m off).toNat
  if s.entriesIn part > old % 2 ^ 48 then SMap.set 0 m off (BitVec.ofNat 64 (old / 2 ^ 63 * 2 ^ 63 + s.entriesIn part)) else m

/-- WFTPEAK of every partition follows the table. -/
def State.notePeaks (s : State) : State := { s with mgmt := ([0, 1, 2, 3] : List Nat).foldl s.peakReg s.mgmt }

/-- The object of a team's wait, as a cycle record and TINFO show it (R436, R500). -/
def Team.objectValue (t : Team) : WaitObj → Nat
  | .lock va | .tb va | .wreg va => va
  | .barrier _ token => token.toNat
  | .gang m => m.toNat
  | .latch => t.gang.toNat % 65536
  | _ => 0

/-- KIND of a wait in cycle records (R500). -/
def objectKind : WaitObj → Nat
  | .lock _ => 0
  | .barrier (.crew _) _ => 1
  | .barrier _ _ => 2
  | .tb _ => 3
  | .wreg _ => 4
  | _ => 5

/-- An entry that finds the table of its die full goes to the extension in device memory, in a place and a format of the
Z4's own (R502, R503). -/
def State.enterTable (s : State) (die : Nat) : State :=
  if s.wftCount die < 4096 then s
  else (s.countUnit 2 (controllerOfPa (2 ^ 21 * bitsOf (s.reg 0x630).toNat 21 31)) 4 2 1).physWrite (2 ^ 21 * bitsOf (s.reg 0x630).toNat 21 31 + 32 * (Config.ownPlace s.tick % 65536))
    ((List.range 32).map fun i => Config.ownByte (32 * s.tick + i))

/-- A holding is recorded; one that finds no room is not tracked, and its team is marked (R361, R504). -/
def State.addHolding (s : State) (k va : Nat) (isLock : Bool) : State :=
  match SMap.look s.teams k with
  | none => s
  | some t =>
    let die := dieOfCore (s.crewOf t).core
    let room := s.wftRoom die
    ((if room then s.enterTable die else s).setTeam k
      { t with holdings := t.holdings ++ [⟨va, isLock, false, room⟩], untracked := t.untracked || !room,
               farHolds := if s.wftPlace die = some true then t.farHolds ++ [(va, isLock)] else t.farHolds })

/-- An entry with no holder is made for a team that is parked, or whose save is held; without room it is not made (R444,
R505). -/
def State.addNoHolder (s : State) (k : Nat) : State :=
  let die := dieOfCore (s.crewOf (SMap.get default s.teams k)).core
  match s.wftPlace die with
  | none => s
  | some far => (s.enterTable die).mapTeam k fun t => { t with noHolder := far :: t.noHolder }

/-- The entry of a wait for a stopped unit goes (R494). -/
def Team.unregistered (t : Team) : Team :=
  match t.wait with
  | some (.stopped n) => if n = 0 then t else { t with noHolder := t.noHolder.drop 1 }
  | _ => t

/-- A host's reply is awaited: the team is parked with an entry of its own (R444). -/
def State.parkOn (s : State) (k tag : Nat) : State :=
  let t := SMap.get default s.teams k
  if t.escals.contains tag then s
  else (if t.escals = [] then s.addNoHolder k else s).mapTeam k fun t => { t with escals := t.escals ++ [tag] }

/-- Drop a holding; the untracked mark clears with the last untracked entry (R504). -/
def Team.dropHolding (t : Team) (va : Nat) (isLock : Bool) : Team :=
  let hs := t.holdings.filter (fun h => ¬ (h.va = va ∧ h.isLock = isLock))
  { t with holdings := hs, farHolds := t.farHolds.filter (· ≠ (va, isLock)),
           untracked := t.untracked && (t.waitUntracked && t.waitsOn.isSome || hs.any (fun h => !h.tracked)) }

/-- Holdings that count against the limit of 8 (R218, R359): a lock marked released does not. -/
def Team.holdingCount (t : Team) : Nat := (t.holdings.filter (fun h => !h.released)).length

end Sys2Proof.Machine
end

