-- ==== Sys2Proof/Machine/Chain.lean ====
section
/-!
DEFINITION. The format word of MMA and the chain state that MMAs of a team or gang share (14_isa_matrix_engines R389, R392,
R394): what an issue makes of it, and what an MMA that a fault has stopped leaves.
-/
namespace Sys2Proof.Machine

/-! ### MMA: the format word (R389, R390) -/

def fmtA (f : BitVec 64) : Nat := bitsOf f.toNat 0 4
def fmtB (f : BitVec 64) : Nat := bitsOf f.toNat 4 4
def fmtEnd (f : BitVec 64) : Bool := f.getLsbD 8
def fmtProw (f : BitVec 64) : Nat := bitsOf f.toNat 16 9
def fmtM (f : BitVec 64) : Nat := bitsOf f.toNat 32 8 + 1
def fmtN (f : BitVec 64) : Nat := bitsOf f.toNat 40 8 + 1
def fmtK (f : BitVec 64) : Nat := 8 * (bitsOf f.toNat 48 7 + 1)
def fmtPitch (f : BitVec 64) : Nat := bitsOf f.toNat 56 8

/-- Element width of a format code. -/
def codeWidth (c : Nat) : Nat := if c ≤ 1 then 16 else if c ≤ 4 then 8 else 4

/-- Step length of a pairing (R112); `none` when the two formats form no pairing. -/
def stepLen (a b : Nat) : Option Nat :=
  match a, b with
  | 0, 0 | 1, 1 | 0, 6 => some 8
  | 2, 2 | 2, 3 | 3, 2 | 3, 3 | 2, 6 | 4, 4 => some 16
  | 5, 5 => some 32
  | _, _ => none

/-- Is a chain of this A format an integer chain? -/
def intChain (a : Nat) : Bool := decide (a = 4 ∨ a = 5)

/-- Registers of one row of A. -/
def rowRegs (f : BitVec 64) : Nat := fmtK f * codeWidth (fmtA f) / 32

/-- The key of a chain (R392). -/
def keyOf (f : BitVec 64) : ChainKey :=
  { prow := fmtProw f, m := fmtM f, n := fmtN f, afmt := fmtA f, bfmt := fmtB f, isat := f.getLsbD 9 }

/-- First K row of an MMA under MROW (R392, R394). -/
def firstK (mrow : Word) : Nat := if mrow.getLsbD 31 then mrow.toNat % 1024 else 0

/-! ### Chains (R392, R394) -/

/-- The chain state after an MMA is issued (R392). -/
def ChainState.take (c : ChainState) (f : BitVec 64) (k0 : Nat) : ChainState :=
  let count := (if c.openKey.isSome then c.count else 0) + (fmtK f - k0)
  if fmtEnd f then { openKey := none, count := 0, closed := some (keyOf f) }
  else { c with openKey := some (keyOf f), count := count }

/-- The chain state when the last MMA issued has stopped at K row `k` (R392, R394): its chain is open, with the K rows done so
far. -/
def ChainState.reopen (c : ChainState) (j : MmaJob) : ChainState :=
  { c with openKey := some (keyOf j.fmt), count := j.count - (fmtK j.fmt - j.k0) }

/-- The chain state that a team's matrix instruction acts on: its gang's, or its own (R392). -/
def State.chainOf (s : State) (t : Team) : ChainState := match s.gangOf t with
  | some g => g.chain
  | none => t.chain

/-- Replace that chain state. -/
def State.setChain (s : State) (k : Nat) (c : ChainState) : State :=
  let t := SMap.get default s.teams k
  match s.gangOf t with
  | some g => s.mapCrew t.crew fun x => { x with gangs := x.gangs.map fun y => if y.members = g.members then { y with chain := c } else y }
  | none => s.mapTeam k fun t => { t with chain := c }

/-- Has a team MMAs in the datapath (R524)? -/
def State.mmaQueued (s : State) (k : Nat) : Bool :=
  (s.coreAt (s.crewOf (SMap.get default s.teams k)).core).jobs.any fun o => match o with
    | .mma j => j.parts.any fun p => decide (p.team = k)
    | _ => false

/-- The fault of a team's MMA is delivered (R394, R478): MROW names the first K row of the step that was not performed, and the
chain is open again unless a later MMA of the team has been issued. -/
def State.mmaStops (s : State) (k : Nat) (pc : Word) : State :=
  match (SMap.get default s.teams k).mma with
  | some j =>
    if j.parts.any fun p => decide (p.team = k ∧ p.pc = pc) then
      let s := s.mapTeam k fun t => { t with trap := { t.trap with mrow := BitVec.ofNat 32 (2 ^ 31 + j.k0 % 1024) } }
      if s.mmaQueued k then s else s.setChain k ((s.chainOf (SMap.get default s.teams k)).reopen j)
    else s
  | none => s

end Sys2Proof.Machine
end

