-- ==== Sys2Proof/Machine/Agents.lean ====
section
/-!
DEFINITION. Accesses that the Z4 makes on its own behalf (08_scheduling R203 to R211, R231 to R234, 10_host_peers
R271, R272, 25_scheduling_failures R500, R525): reads and writes of virtual memory through the home slice, appends to
queues, the re-read of a WREG word after a write (13_isa_memory_sync R360), and escalations to the host (R444, R477,
R495).
-/
namespace Sys2Proof.Machine

/-- Mark of a poisoned sector of a held line: a dirty L2 line, host memory or device memory (R469). -/
def poisonKind (x : L2Line) (va : Nat) : BadAccess :=
  let sector := (List.range 32).any (fun j => x.dirty.getLsbD (va % 128 / 32 * 32 + j))
  if sector then ⟨0x0D, 1, 1, va⟩ else if x.host then ⟨0x0D, 3, 2, va⟩ else ⟨0x0D, 2, 0, va⟩

/-- One byte as a hardware agent reads it: at its home slice, else at the controller (R125, R272, R523). -/
def State.agentByte (s : State) (ctx va : Nat) : Except BadAccess Byte :=
  if !canonical va then .error ⟨0x0B, 0, 5, va⟩
  else
    match SMap.look s.l2 (lineId ctx va) with
    | some x =>
      if sectorBad x.poison (va % 128) then .error (poisonKind x va)
      else if x.rd then .ok (lineByte x.data (va % 128))
      else
        match s.translate ctx va with
        | .error b => .error b
        | .ok l => if l.rd then .ok (lineByte x.data (va % 128)) else .error ⟨0x0B, 2, 2, va⟩
    | none =>
      match s.translate ctx va with
      | .error b => .error b
      | .ok l =>
        if !l.rd then .error ⟨0x0B, 2, 2, va⟩
        else if l.host then .error ⟨0x0B, 2, 7, va⟩
        else if s.poison.contains (l.pa / 32 * 2) || s.poison.contains (l.pa / 32 * 2 + 1) then .error ⟨0x0D, 2, 0, va⟩
        else .ok (s.dram.byte l.pa)

/-- `n` bytes as a hardware agent reads them. -/
def State.agentRead (s : State) (ctx : Nat) : Nat → Nat → Except BadAccess (List Byte)
  | _, 0 => .ok []
  | va, n + 1 =>
    match s.agentByte ctx va with
    | .error b => .error b
    | .ok x =>
      match s.agentRead ctx (va + 1) n with
      | .error b => .error b
      | .ok r => .ok (x :: r)

/-- A number of `n` bytes as a hardware agent reads it. -/
def State.agentNat (s : State) (ctx va n : Nat) : Except BadAccess Nat :=
  match s.agentRead ctx va n with
  | .error b => .error b
  | .ok l => .ok (leNat l)

/-- The request of an agent that takes no answer. -/
def nobodyReq (ctx va : Nat) : HomeReq := ⟨.nobody, 0, ctx, va, .store 1, []⟩

/-- May the line of `va` be written, and where does it lie (R127, R523)? `none` when home holds it with WR. -/
def State.agentTarget (s : State) (ctx va : Nat) : Except BadAccess (Option Leaf) :=
  if !canonical va then .error ⟨0x0B, 0, 5, va⟩
  else
    let held := match SMap.look s.l2 (lineId ctx va) with
      | some x => x.wr
      | none => false
    if held then .ok none
    else
      match s.translate ctx va with
      | .error b => .error b
      | .ok l => if l.wr then .ok (some l) else .error ⟨0x0B, 2, 3, va⟩

/-- The home re-reads every WREG word of a line after a write to it (R360); the value may be unsettled (R160). -/
def State.rereadWregs (s : State) (ctx va : Nat) : State :=
  let hit := fun (w : HomeWaiter) => decide (w.kind = 2 ∧ w.ctx = ctx ∧ va57 w.va / 128 = va57 va / 128)
  s.waiters.foldl (fun s w =>
    if hit w then
      match s.agentNat ctx w.va 4, w.q.op with
      | .ok v, .wreg c =>
        if v = c then s
        else
          ({ s with waiters := s.waiters.filter (fun x => decide (x ≠ w)) }.sinkReads w.q).send (replyChan w.q)
            (waitAnswer w.q (.wregValue v))
      | .error b, _ =>
        { s with waiters := s.waiters.filter (fun x => decide (x ≠ w)) }.send (replyChan w.q)
          (.writerAck w.q [] (some b))
      | _, _ => s
    else s) s

/-- What a write to a line sets off: WREG words are read again (R360), and appends that wait for room in a ring are tried
again after a write to its RIDX line (R234, R271). -/
def State.afterWrite (s : State) (ctx va : Nat) : State :=
  let line := va57 va / 128
  let s := s.rereadWregs ctx va
  let s := s.frees.foldl (fun s f =>
    if f.ctx = ctx ∧ va57 (f.queue + 0x10) / 128 = line then s.send .free (.freeQueueRetry f.id) else s) s
  if ctx = 0 ∧ s.heq ≠ [] ∧ va57 (bitsOf (s.reg 0x108).toNat 8 49 * 256 + 0x10) / 128 = line then s.send .free .heqRetry
  else s

/-- A write past the home slice changes a line that the host may hold: its acknowledgement waits for the snoop response (R258). -/
def State.snoopFor (s : State) (lid : Nat) (ack : Instr) : State :=
  if s.hostLines.contains lid && s.linkUp then
    let wid := s.nextId
    let s := ({ s with nextId := wid + 1 } : State).snoopHost [lid] wid
    { s with writes := s.writes ++ [{ wid := wid, lid := lid, waits := [hostAgent], notify := [], reply := ack }] }
  else s.send .free ack

/-- Write cells that lie in one line, given where it lies: at the home slice that holds it, else in its memory (R272). -/
def State.agentCells (s : State) (ctx va : Nat) (l : Option Leaf) (cells : List (Nat × Nat)) : State :=
  let lid := lineId ctx va
  let s : State :=
    match SMap.look s.l2 lid with
    | some x =>
      let s := ({ s with l2 := SMap.put s.l2 lid { x with wr := true } }).countUnit 1 (sliceOf va) 4 1 1
      s.homeWrite lid cells none .free (.writerAck (nobodyReq ctx va) [] none)
    | none =>
      match l with
      | none => s
      | some l =>
        let base := l.pa - va % 128
        if l.host then s.hostWrite ctx va base cells 0
        else ((s.countUnit 2 (controllerOfPa base) 4 2 1).physCells base cells).snoopFor lid (.writerAck (nobodyReq ctx va) [] none)
  s.afterWrite ctx va

/-- Bytes with their addresses. -/
def cellsFrom (va : Nat) (bs : List Byte) : List (Nat × Nat) := bs.mapIdx (fun i b => (va + i, b.toNat))

/-- Line addresses of a range. -/
def linesOfRange (va n : Nat) : List Nat :=
  if n = 0 then [] else (List.range ((va % 128 + n - 1) / 128 + 1)).map (fun i => va / 128 * 128 + 128 * i)

/-- The lines of a range with their targets, or the first fault. -/
def State.agentTargets (s : State) (ctx : Nat) : List Nat → Except BadAccess (List (Nat × Option Leaf))
  | [] => .ok []
  | va :: r =>
    match s.agentTarget ctx va with
    | .error b => .error b
    | .ok l =>
      match s.agentTargets ctx r with
      | .error b => .error b
      | .ok m => .ok ((va, l) :: m)

/-- A write of a hardware agent: nothing of it is made when any of its lines faults (R525). -/
def State.agentWrite (s : State) (ctx va : Nat) (bs : List Byte) : Except BadAccess State :=
  match s.agentTargets ctx (linesOfRange va bs.length) with
  | .error b => .error { b with va := max b.va va }
  | .ok ts =>
    let cells := cellsFrom va bs
    .ok (ts.foldl (fun s p => s.agentCells ctx p.1 p.2 (cells.filter (fun c => decide (c.1 / 128 * 128 = p.1)))) s)

/-- As `agentWrite`, keeping the state when the write faults. -/
def State.agentWriteOr (s : State) (ctx va : Nat) (bs : List Byte) : State :=
  match s.agentWrite ctx va bs with
  | .ok s' => s'
  | .error _ => s

/-- The packet of R525: a write of the Z4 that meets a translation fault or poisoned data. -/
def State.agentFault (s : State) (kind ctx : Nat) (b : BadAccess) (name handle : Nat) (stream : Nat := 0) : State :=
  s.heqPush 0x16 (s.partOfCtx ctx) ctx
    [(0x0C, kind), (0x0D, 16 * b.site + b.kind), (0x0E, b.cause), (0x10, b.va), (0x18, name), (0x20, ctx),
     (0x24, handle), (0x28, stream)]

/-! ### Queues (R202, R204) -/

/-- A queue descriptor as read: BASE, LOG2N, PRIO, RIDX, WIDX. -/
structure QueueDesc where
  base : Nat
  size : Nat
  prio : Nat
  ridx : Nat
  widx : Nat
  deriving DecidableEq, Repr

/-- Read a queue descriptor (R202). Of one that breaks its limits LOG2N counts modulo 32 and PRIO modulo 16, and reserved bytes
and the alignment of BASE are not looked at (DESIGN CHOICE, log entry 108). -/
def State.queueDesc (s : State) (ctx qa : Nat) : Except BadAccess QueueDesc :=
  match s.agentNat ctx qa 8, s.agentNat ctx (qa + 8) 1, s.agentNat ctx (qa + 9) 1, s.agentNat ctx (qa + 0x10) 8,
      s.agentNat ctx (qa + 0x80) 8 with
  | .ok b, .ok n, .ok p, .ok r, .ok w => .ok ⟨b, 2 ^ (n % 32), p % 16, r, w⟩
  | .error b, _, _, _, _ | _, .error b, _, _, _ | _, _, .error b, _, _ | _, _, _, .error b, _ | _, _, _, _, .error b =>
    .error b

/-- What a unit finds at the head of a queue: nothing ready, an unreadable descriptor or slot, or a packet (R206, R509). -/
inductive QueueHead where
  | idle
  | bad (ctx qa stream : Nat)
  | ready (ctx qa : Nat) (d : QueueDesc) (pkt : Nat)
  deriving DecidableEq, Repr

/-- Read the head slot of the queue whose descriptor lies at `qa` (R206, R509). -/
def State.headOf (s : State) (ctx qa : Nat) : QueueHead :=
  match s.queueDesc ctx qa with
  | .error _ => (match s.agentNat ctx (qa + 0x10) 8 with
    | .ok r => .bad ctx qa r
    | .error _ => .bad ctx qa (2 ^ 64 - 1))
  | .ok d => (match s.agentNat ctx (d.base + 64 * (d.ridx % d.size)) 64 with
    | .error _ => .bad ctx qa d.ridx
    | .ok pkt => if pkt % 2 ^ 64 = (d.ridx + 1) % 2 ^ 64 then .ready ctx qa d pkt else .idle)

/-- The result of an append by the steps of R204. -/
inductive Appended where
  /-- The slot is written. -/
  | done (s : State)
  /-- The ring is full; the slot has been claimed. -/
  | full (s : State) (slot : Nat)
  /-- The append faults, before (`none`) or after the claim. -/
  | failed (s : State) (b : BadAccess) (slot : Option Nat)

/-- Write a claimed slot, if the ring has room for it: its bytes, then SEQ (R204 steps 2 to 4). -/
def State.fillSlot (s : State) (ctx qa i : Nat) (d : QueueDesc) (pkt : BitVec 512) : Appended :=
  if i < d.ridx + d.size then
    let va := d.base + 64 * (i % d.size)
    match s.agentWrite ctx (va + 8) (leBytes 56 (pkt.toNat / 2 ^ 64)) with
    | .error b => .failed s b (some i)
    | .ok s =>
      match s.agentWrite ctx va (leBytes 8 (i + 1)) with
      | .error b => .failed s b (some i)
      | .ok s => .done s
  else .full s i

/-- Append a packet: claim a slot by adding 1 to WIDX, unless one was claimed already, then fill it (R204). -/
def State.append (s : State) (ctx qa : Nat) (slot : Option Nat) (pkt : BitVec 512) : Appended :=
  match s.queueDesc ctx qa with
  | .error b => .failed s b slot
  | .ok d =>
    match slot with
    | some i => s.fillSlot ctx qa i d pkt
    | none =>
      match s.agentWrite ctx (qa + 0x80) (leBytes 8 ((d.widx + 1) % 2 ^ 64)) with
      | .error b => .failed s b none
      | .ok s => s.fillSlot ctx qa d.widx d pkt

/-! ### Answers to the requests of engines -/

/-- A field of a packet, by byte offset (R238). -/
def Packet.f (p : Packet) (off n : Nat) : Nat := bitsOf p.raw.toNat (8 * off) (8 * n)

def Packet.kind (p : Packet) : Nat := p.f 8 1

/-- The event by which an accepted packet goes on, by its KIND (R238). -/
def Packet.event (p : Packet) : Instr :=
  match p.kind with
  | 0 => .copy p.id
  | 1 => .reduceTile p.id
  | 2 => .gatherRows p.id
  | 3 => .fill p.id
  | 4 => .discardPacket p.id
  | 5 => .collectiveStep p.id
  | 6 => .nearmemBlock p.id
  | 7 => .prefetchL2 p.id
  | _ => .tbArrive p.id

/-- Make an action happen at some later step, once. -/
def State.poke (s : State) (ev : Instr) : State :=
  if s.agenda.any (fun p => decide (p.ev = ev)) then s else s.send .free ev

def State.packetAt (s : State) (pid : Nat) : Option Packet := s.packets.find? fun p => decide (p.id = pid)

def State.mapPacket (s : State) (pid : Nat) (f : Packet → Packet) : State :=
  { s with packets := s.packets.map fun p => if p.id = pid then f p else p }

/-- A packet, or the acceptance of its engine, goes on. -/
def State.pokePacket (s : State) (pid : Nat) : State :=
  match s.packetAt pid with
  | none => s
  | some p => s.poke (if p.accepted then p.event else .droverAccept p.engine)

/-- Destination bytes that an acknowledged request accounts for (R245). -/
def ackBytes (q : HomeReq) : Nat :=
  match q.op with
  | .store n => n * q.accs.length
  | .reduce typ => (if typ / 16 = 2 then 2 else 4) * q.accs.length
  | .discard _ => (q.accs.map LaneAcc.data).foldl (· + ·) 0
  | _ => 0

/-- Requests whose faults are dropped (R474, R487). -/
def dropsFault : HomeOp → Bool
  | .prefetch _ | .discard _ => true
  | _ => false

/-- An answer reaches a Drover packet: a write is acknowledged, or a read returns; its first fault is kept (R479). -/
def State.droverReply (s : State) (pid : Nat) (q : HomeReq) (vals : List (Nat × Nat)) (bad : Option BadAccess) : State :=
  (s.mapPacket pid fun p =>
    let p := { p with failed := if dropsFault q.op ∨ p.failed.isSome then p.failed else bad }
    if p.outs.contains q then
      { p with outs := p.outs.erase q, acked := p.acked + (if bad.isNone || dropsFault q.op then ackBytes q else 0) }
    else if p.accepted then { p with reads := p.reads - 1, got := p.got ++ vals }
    else { p with reads := 0, desc := vals.head?.map fun v => BitVec.ofNat 512 v.2 }).pokePacket pid

/-- An answer reaches a channel engine: of a command block, a parameter block, or a line of a row outside its stack, read or
written (R150, R252, R253). -/
def State.engineReply (s : State) (e : Nat) (q : HomeReq) (vals : List (Nat × Nat)) (bad : Option BadAccess) : State :=
  let mark := (q.accs.head?.map LaneAcc.data2).getD 0
  match q.op with
  | .store _ =>
    let sub := (q.accs.head?.map LaneAcc.lane).getD 0
    let take := fun (b : Submission) =>
      if b.id = sub then { b with outs := b.outs - 1, failed := if b.failed.isSome then b.failed else bad } else b
    let s := s.mapEngine e fun x =>
      let subs := x.subs.map take
      { x with subs := subs, waiting := x.waiting && !(x.sent && decide ((subs.head?.map Submission.outs).getD 0 = 0)) }
    let s := if (s.engineAt e).sent then s.poke (.submissionTake e) else s
    if bad.isSome then s.poke (.nmEnd e) else s
  | _ => (s.mapEngine e fun x => { x with answers := x.answers ++ [(q, vals.head?.map Prod.snd, bad)] }).poke
      (if mark = 1 then .nmBind e else .submissionTake e)

/-- Bytes of a peer's packet that this chip has accepted (R491). -/
def State.inboundDone (s : State) (r : InboundReq) : Nat :=
  ((s.inboundBytes.find? fun p => decide (p.1 = r.peer ∧ p.2.1 = r.tag)).map fun p => p.2.2).getD 0

/-- Note how many bytes of a peer's packet this chip has accepted; 0 forgets the packet. -/
def State.noteInbound (s : State) (r : InboundReq) (n : Nat) : State :=
  let rest := s.inboundBytes.filter fun p => decide (¬ (p.1 = r.peer ∧ p.2.1 = r.tag))
  { s with inboundBytes := if n = 0 then rest else (r.peer, r.tag, n) :: rest }

/-- An inbound request is refused, and its packet's arrival will not be made (R245, R491). -/
def State.refuseInbound (s : State) (r : InboundReq) (done : Nat) : State :=
  let s := s.noteInbound r 0
  { s with peerOut := s.peerOut ++ [.refused r.peer r.tag done],
           inboundRefused := if s.inboundRefused.contains (r.peer, r.tag) then s.inboundRefused
             else s.inboundRefused ++ [(r.peer, r.tag)] }

/-- An inbound request is over: refused, or, for an arrival, reported (R250, R491). -/
def State.inboundEnd (s : State) (x : Inbound) : State :=
  let s : State := { s with inbound := s.inbound.filter (fun y => decide (y.id ≠ x.id)) }
  if x.failed then s.refuseInbound x.r (s.inboundDone x.r - x.r.bytes.length)
  else if x.r.arrive ≠ 0 then
    let s := s.noteInbound x.r 0
    { s with peerOut := s.peerOut ++ [.arrived x.r.peer x.r.tag] }
  else s

/-- The arrival of a peer's packet is made once every piece before it is acknowledged (R245, R250); none is made for a packet of
which a piece was refused. -/
def State.inboundArrive (s : State) (id : Nat) : State :=
  match s.inbound.find? fun x => decide (x.id = id) with
  | none => s
  | some x =>
    let same := fun (y : Inbound) => decide (y.r.peer = x.r.peer ∧ y.r.tag = x.r.tag)
    if x.outs ≠ [] ∨ x.arriving ∨ x.r.arrive = 0 ∨ (s.inbound.takeWhile fun y => decide (y.id ≠ id)).any same then s
    else if s.inboundRefused.contains (x.r.peer, x.r.tag) then
      { s with inbound := s.inbound.filter (fun y => decide (y.id ≠ id)),
               inboundRefused := s.inboundRefused.filter (· ≠ (x.r.peer, x.r.tag)) }
    else if x.r.tb = 0 then s.inboundEnd x
    else
      let q : HomeReq := ⟨.peer id, 0, x.ctx, x.r.tb, .tbArrive x.r.arrive, [⟨0, x.r.tb, 0, 0⟩]⟩
      let put := fun (y : Inbound) => if y.id = id then { y with outs := [q], arriving := true } else y
      ({ s with inbound := s.inbound.map put } : State).send .free (.tbArriveOp q)

/-- The writes of a piece are issued once every earlier piece of its packet is over (R240, R242); one without writes arrives. -/
def State.inboundBegin (s : State) (id : Nat) : State :=
  match s.inbound.find? fun x => decide (x.id = id) with
  | none => s
  | some x =>
    let same := fun (y : Inbound) => decide (y.r.peer = x.r.peer ∧ y.r.tag = x.r.tag)
    if x.begun ∨ x.outs = [] then s.inboundArrive id
    else if (s.inbound.takeWhile fun y => decide (y.id ≠ id)).any same then s
    else
      x.outs.foldl State.request
        { s with inbound := s.inbound.map fun y => if y.id = id then { y with begun := true } else y }

/-- An inbound request of a peer goes on: its arrival follows the acknowledgement of its writes and of every piece before it,
and the report follows that (R250). -/
def State.inboundGoOn (s : State) (id : Nat) : State :=
  match s.inbound.find? fun x => decide (x.id = id) with
  | none => s
  | some x =>
    if x.outs ≠ [] then s
    else if !x.failed && !x.arriving && decide (x.r.arrive ≠ 0) then s.inboundArrive id
    else (s.inbound.map Inbound.id).foldl State.inboundBegin (s.inboundEnd x)

/-- An answer reaches an inbound request. -/
def State.peerReply (s : State) (id : Nat) (q : HomeReq) (bad : Option BadAccess) : State :=
  let put := fun (y : Inbound) =>
    if y.id = id then { y with outs := y.outs.erase q, failed := y.failed || bad.isSome } else y
  ({ s with inbound := s.inbound.map put } : State).inboundGoOn id

/-- An answer reaches a requester other than a team or the host. -/
def State.unitReply (s : State) (q : HomeReq) (vals : List (Nat × Nat)) (bad : Option BadAccess) : State :=
  match q.who with
  | .drover pid => s.droverReply pid q vals bad
  | .engine e => s.engineReply e q vals bad
  | .peer id => s.peerReply id q bad
  | _ => s

/-! ### Escalations -/

/-- Does a function of MODESEL act in host-assisted mode (R270)? While HEQ.V = 0 none does (R271). -/
def State.hostMode (s : State) (fn : Nat) : Bool := (s.reg 0x100).getLsbD fn && (s.reg 0x108).getLsbD 63

/-- Open an escalation of function `fn` with its packet; its tag is the answer (R444, R495). -/
def State.openEscalation (s : State) (e : Escalation) (part : Nat) (detail : List (Nat × Nat)) : State :=
  let tag := s.nextTag
  let s := s.heqPush e.fn part e.ctx ((0x0C, tag) :: detail)
  { s with escs := s.escs ++ [{ e with tag := tag }], nextTag := (tag + 1) % 2 ^ 32 }

/-- An escalation that parks one team (R444). -/
def teamEscalation (fn ctx k : Nat) : Escalation :=
  { fn := fn, tag := 0, ctx := ctx, page := 0, reqs := [], teams := [k], pkts := [], engines := [],
    bad := default, key := 0 }

/-- Park the running team for the host's reply to a function of its own (R444); `key` is the object of a wait. -/
def State.parkForHost (s : State) (fn key : Nat) (detail : List (Nat × Nat)) : State :=
  let t := s.me
  let c := s.crewOf t
  let tag := s.nextTag
  let s := s.openEscalation { teamEscalation fn c.ctx s.cur with key := key } (s.gridOf t).part
    ([(0x10, c.grid), (0x14, c.num), (0x18, t.idx)] ++ detail)
  (s.mapMe (fun t => { t with wait := some (.host fn tag), stood := some (t.pc, false), waitSince := s.tick })).parkOn s.cur tag

/-! ### Waits (R497 to R504) -/

/-- The cycle record of R500, written in either mode; a record that faults is lost and HEAD still advances (R525). -/
def State.writeCycle (s : State) (o : WaitObj) (chain : List Nat) : State :=
  let t := s.me
  let c := s.crewOf t
  let p := (s.gridOf t).part
  let ctl := (s.reg (0x708 + 16 * p)).toNat
  let cap := ctl % 2 ^ 16
  let head := bitsOf ctl 32 16
  if !ctl.testBit 63 ∨ cap = 0 then s
  else
    let base := canonOf (bitsOf (s.reg (0x700 + 16 * p)).toNat 9 48 * 512)
    let pair := fun (u : Team) (w : WaitObj) =>
      (s.crewOf u).grid + 2 ^ 32 * (s.crewOf u).num + 2 ^ 56 * (16 * u.idx + objectKind w) + 2 ^ 64 * u.objectValue w
    let pairs := pair t o :: chain.map (fun k =>
      let u := SMap.get default s.teams k
      pair u (u.waitsOn.getD o))
    let rec0 := (head + 1) % 2 ^ 16 + 2 ^ 32 * c.grid + 2 ^ 64 * c.num + 2 ^ 96 * t.idx + 2 ^ 104 * pairs.length +
      2 ^ 112 * c.ctx + 2 ^ 128 * (s.clk % 2 ^ 64)
    let num := rec0 + 2 ^ 512 * pairs.foldr (fun p acc => p + 2 ^ 128 * acc) 0
    let s := s.setReg (0x708 + 16 * p)
      (BitVec.ofNat 64 (ctl % 2 ^ 32 + 2 ^ 32 * ((head + 1) % 2 ^ 16) + 2 ^ 48 * (ctl / 2 ^ 48)))
    match s.agentWrite p (base + 512 * (head % cap)) (leBytes 512 num) with
    | .ok s => s
    | .error b => s.agentFault 2 p b 0 p

/-- A wait is registered: the team stalls at its instruction (R215, R218). One that stands already keeps its place (R225). -/
def State.stall (s : State) (o : WaitObj) (arrived : Bool) : State :=
  s.mapMe fun t => { t with wait := some o, waitSince := if t.standing = some o then t.standSince else s.tick,
                            stood := some (t.pc, arrived), standing := none }

/-- What happens before a wait is admitted (R497): a cycle traps uncharged or escalates (R498, R501), a full table marks
the wait untracked or escalates (R504); otherwise `go` sends the request or records the arrival. `ch` charges the
instruction. A registration that already stands is not made again (R225). -/
def State.admitWait (s : State) (ch : State → State) (o : WaitObj) (go : State → State) : State :=
  let t := s.me
  if t.arrived then go (ch s)
  else
    match (if t.admission ≠ 0 then none else s.cycleOf s.cur o) with
    | some chain =>
      let s := s.writeCycle o chain
      if s.hostMode 1 then
        let head := s.reg (0x708 + 16 * (s.gridOf t).part)
        (ch s).parkForHost 1 (t.objectValue o) [(0x19, 0), (0x1C, bitsOf head.toNat 32 16)]
      else s.trap (preciseTrap 0x0C 0 (t.objectValue o % 2 ^ 32) (t.objectValue o / 2 ^ 32))
    | none =>
      let s := ch s
      if t.admission = 2 then go (s.mapMe (fun t => { t with untracked := true, waitUntracked := true }))
      else if s.wftRoom (dieOfCore s.myCore) then
        let far := decide (s.wftPlace (dieOfCore s.myCore) = some true)
        go ((if t.waitUntracked ∨ t.waitExt ≠ far then s.mapMe (fun t => { t with waitUntracked := false, waitExt := far }) else s).enterTable
          (dieOfCore s.myCore))
      else if s.hostMode 2 then s.parkForHost 2 0 [(0x19, objectKind o)]
      else
        let c := s.crewOf t
        let s := s.heqPush 2 (s.gridOf t).part c.ctx
          [(0x10, c.grid), (0x14, c.num), (0x18, t.idx), (0x19, objectKind o)] true
        go (s.mapMe (fun t => { t with untracked := true, waitUntracked := true }))

/-- ISSUE OF AN INSTRUCTION THAT MAY WAIT: `obj` is the object it would wait on, `none` when it need not wait. -/
def State.issueWait (s : State) (i : Instr) (checks : State → Option TrapRec) (obj : State → Option WaitObj)
    (body : State → State) : Host.Outcome State Fault Refusal :=
  match decodeCheck i s.me with
  | some r => .next (s.trap r)
  | none =>
    match checks s with
    | some r => .next (s.trap r)
    | none =>
      match obj s with
      | none => .next (body (s.charge (issueCharge i s.me)))
      | some o => .next (s.admitWait (fun s => s.charge (issueCharge i s.me)) o body)

end Sys2Proof.Machine
end

