-- ==== Sys2Proof/Machine/Budget.lean ====
section
/-!
DEFINITION. Budgets and yields (02_execution R59 to R63, 08_scheduling R221 to R225, 25_scheduling_failures R507, R508,
R513) and the room of the spill region (03_state R90).
-/
namespace Sys2Proof.Machine

/-! ### Room in the spill region (R90) -/

/-- Round up to the units of the spill region. -/
def up4K (n : Nat) : Nat := ceilDiv n 4096 * 4096

/-- Saved image of a team: P × W / 8 KiB and 8 KiB (R89). -/
def Team.imageBytes (t : Team) : Nat := up4K (t.passes * t.window / 8 * 1024 + 8192)

/-- Mask-stack area of a team in the spill region. -/
def stackBytes (n : Nat) : Nat := up4K (136 * n)

/-- Local memory and accumulator rows of a crew in the spill region. -/
def Crew.regionBytes (c : Crew) : Nat := up4K c.localBytes + up4K (1024 * c.accRows)

/-- Bytes of a context's spill region in use: spilled mask stacks, images of the teams `sel` names, and the regions of the
crews `reg` names. -/
def State.spillSum (s : State) (ctx : Nat) (sel : Team → Bool) (reg : Crew → Bool) : Nat :=
  (s.teams.filter (fun p => decide (s.ctxOf p.2 = ctx))).foldl (fun n p =>
    n + stackBytes p.2.spilled + (if sel p.2 then p.2.imageBytes else 0)) 0 +
  (s.crews.filter (fun p => decide (p.2.ctx = ctx) && reg p.2)).foldl (fun n p => n + p.2.regionBytes) 0

/-- Is the image of a team in the spill region: saved, or held for a bucket with its other state saved (R505)? -/
def Team.imaged (t : Team) : Bool := decide (t.place = .saved) || (decide (t.place = .saving) && (match t.wait with
  | some (.pinBucket _) => true
  | _ => false))

/-- Bytes in use now. -/
def State.spillHeld (s : State) (ctx : Nat) : Nat := s.spillSum ctx Team.imaged Crew.taken

/-- Bytes in use or promised to saves that are chosen and not made. -/
def State.spillUsed (s : State) (ctx : Nat) : Nat :=
  s.spillSum ctx (fun t => decide (t.place ≠ .resident) || t.evict) fun c => c.taken || c.taking

/-- Is there room for `n` more bytes now? -/
def State.spillFree (s : State) (ctx n : Nat) : Bool := decide (s.spillHeld ctx + n ≤ s.ctxField ctx 0x18 8)

/-- Is there room for `n` more bytes beside what is promised? -/
def State.spillRoom (s : State) (ctx n : Nat) : Bool := decide (s.spillUsed ctx + n ≤ s.ctxField ctx 0x18 8)

/-- The Z4 writes `n` bytes to the spill region of a context, in that context, 4 KiB units in places of its own choosing and
in a layout of its own (R89, R90, R272). Software must not look there meanwhile. `use` keeps apart the writes of one step. -/
def State.spillWrite (s : State) (ctx use n : Nat) : State :=
  let units := s.ctxField ctx 0x18 8 / 4096
  let key := (8 * s.tick + use) * 2 ^ 32
  (List.range (ceilDiv n 4096)).foldl (fun s i =>
    s.agentWriteOr ctx (s.ctxField ctx 0x10 8 + 4096 * (Config.ownPlace (key + i) % units))
      ((List.range (min 4096 (n - 4096 * i))).map fun j => Config.ownByte (key + 4096 * i + j))) s

/-- Is there room for the save of a team that is under way (R90)? -/
def State.saveRoom (s : State) (t : Team) : Bool :=
  decide (s.spillHeld (s.ctxOf t) + (if t.imaged then 0 else t.imageBytes) ≤ s.ctxField (s.ctxOf t) 0x18 8)

/-! ### Pools and top-ups -/

/-- The grid whose pools a grid draws from: a hidden task grid draws from its spawning grid (R56). -/
def State.poolGridFrom (s : State) : Nat → Nat → Nat
  | 0, h => h
  | n + 1, h => match (s.gridAt h).hidden, (s.gridAt h).parent with
    | true, some p => s.poolGridFrom n p
    | _, _ => h

def State.poolGrid (s : State) (h : Nat) : Nat := s.poolGridFrom 16 h

/-- What one pool grants a budget `v` with quantum `q` (R62). -/
def grantOf (q : Nat) (v : Int) (pool : Nat) : Nat := if v < q then min (q - v).toNat pool else 0

/-- What the pools grant a team: its initial budgets, whole (R60), or a top-up that brings both budgets to 1 (R62). -/
def State.grant (s : State) (k : Nat) (first : Bool) : Option (Nat × Nat) :=
  let t := SMap.get default s.teams k
  let r := (s.gridOf t).launch
  let g := s.gridAt (s.poolGrid (s.crewOf t).grid)
  if first then
    if r.ibudInit ≤ g.ipool ∧ r.mbudInit ≤ g.mpool then some (r.ibudInit, r.mbudInit) else none
  else
    let gi := grantOf r.iquant t.ibud g.ipool
    let gm := grantOf r.mquant t.mbud g.mpool
    if 1 ≤ t.ibud + gi ∧ 1 ≤ t.mbud + gm then some (gi, gm) else none

/-- Members of a gang, as team keys. -/
def State.gangKeys (s : State) (crew : Nat) (g : Gang) : List Nat :=
  (s.teamsOfCrew crew).filter (fun k => g.members.getLsbD (SMap.get default s.teams k).idx)

/-- No member of a yielding gang resumes before all have been topped up (R63, R513). -/
def State.gangRelease (s : State) (k : Nat) : State :=
  let t := SMap.get default s.teams k
  match s.gangOf t with
  | none => s.mapTeam k (fun t => if t.wait = some .gangYield then { t with wait := none } else t)
  | some g =>
    let ks := s.gangKeys t.crew g
    if ks.all (fun j => (SMap.get default s.teams j).wait = some .gangYield) then
      ks.foldl (fun s j => s.mapTeam j (fun u => { u with wait := none })) s
    else s

/-- Parked teams of a grid's pools, resident and not chosen for eviction, in the order of R62 (R226). -/
def State.parkedOn (s : State) (h : Nat) : List Nat :=
  let ks := (s.teams.filter (fun p => decide (p.2.place = .resident ∧ s.poolGrid (s.crewOf p.2).grid = h) && !p.2.evict &&
    (match p.2.wait with
     | some (.budget _) => true
     | _ => false))).map Prod.fst
  sortBy (fun k => (15 - s.effPrio k) * 2 ^ 64 + (SMap.get default s.teams k).waitSince) ks

/-- Give a team its grant, if the pools can (R60, R62). -/
def State.tryTopUp (s : State) (k : Nat) (first : Bool) : Option State :=
  match s.grant k first with
  | none => none
  | some (gi, gm) =>
    let t := SMap.get default s.teams k
    let h := s.poolGrid (s.crewOf t).grid
    let s := s.mapGrid h (fun g => { g with ipool := g.ipool - gi, mpool := g.mpool - gm })
    let s := s.mapTeam k (fun t => { t with ibud := t.ibud + gi, mbud := t.mbud + gm,
                                            wait := if t.gang.getLsbD 31 && !first then some .gangYield else none })
    some (s.gangRelease k)

/-- A team parks on its grid's pools; in host-assisted mode the grid opens an escalation (R62, R507, R508). -/
def State.park (s : State) (k : Nat) (first : Bool) : State :=
  let t := SMap.get default s.teams k
  let h := s.poolGrid (s.crewOf t).grid
  let s := s.mapTeam k (fun t => { t with wait := some (.budget first), waitSince := s.tick })
  if s.hostMode 4 ∧ ¬ s.escs.any (fun e => decide (e.fn = 4 ∧ e.key = h)) then
    let g := s.gridAt h
    s.openEscalation { fn := 4, tag := 0, ctx := g.ctx, page := 0, reqs := [], teams := [], pkts := [], engines := [],
                       bad := default, key := h } g.part
      [(0x10, h), (0x14, (s.parkedOn h).length), (0x18, g.ipool), (0x20, g.mpool)]
  else s

/-- Top up a team or park it. -/
def State.topUp (s : State) (k : Nat) (first : Bool) : State :=
  match s.tryTopUp k first with
  | some s => s
  | none => s.park k first

/-- A restored team, or one whose save was not made, is topped up; one that parked before its first draw makes that draw
(R60, R226), and one in BWAITY stays parked (R249). -/
def State.topUpBack (s : State) (k : Nat) : State :=
  match (SMap.get default s.teams k).wait with
  | some (.batchesYield _ _) => s
  | some (.budget true) => s.topUp k true
  | _ => s.topUp k false

/-- Serve parked teams one at a time, stopping at the first that the pools cannot bring to 1 (R62). -/
def State.serveList (s : State) : List Nat → State
  | [] => s
  | k :: r =>
    let first := decide ((SMap.get default s.teams k).wait = some (.budget true))
    match s.tryTopUp k first with
    | some s => s.serveList r
    | none => s

/-- Serve the parked teams of a pool after a refill; a refill that serves them all closes the escalation (R508). -/
def State.servePool (s : State) (h : Nat) : State :=
  let s := s.serveList (s.parkedOn h)
  if s.parkedOn h = [] then { s with escs := s.escs.filter (fun e => decide (¬ (e.fn = 4 ∧ e.key = h))) } else s

/-- Add to a grid's pools, which saturate (R368), and serve its parked teams. -/
def State.refill (s : State) (h gi gm : Nat) : State :=
  let h := s.poolGrid h
  (s.mapGrid h (fun g => { g with ipool := min (g.ipool + gi) (2 ^ 64 - 1), mpool := min (g.mpool + gm) (2 ^ 64 - 1) })).servePool h

/-! ### The yield -/

/-- Steps 1 to 3 of R61 on the team itself: PHASE at device scope, and the resume PC from the continuation. A wait
whose arrival is recorded stands, and a sleep ends (R225, R305). A team that RETT issues again resumes at that instruction (R441,
R445). -/
def Team.yield (t : Team) : Team :=
  { t.unregistered.hold (phaseHold 4) with
    pc := if t.contpc.getLsbD 0 && t.reissue.isNone then t.contpc &&& ~~~3 else t.pc, contpc := if t.reissue.isNone then 0 else t.contpc,
    standing := if t.arrived then t.waitsOn else none, standSince := if t.wait.isSome then t.waitSince else t.standSince, wait := none, mustYield := false, struck := false,
    trap := if t.halted then { t.trap with tnpc := if t.contpc.getLsbD 0 then t.contpc &&& ~~~3 else t.trap.tnpc } else t.trap }

/-- Every other member of a gang yields at its next boundary (R63). -/
def State.pullGang (s : State) (k : Nat) : State :=
  let t := SMap.get default s.teams k
  match s.gangOf t with
  | none => s
  | some g => (s.gangKeys t.crew g).foldl (fun s j =>
      if j = k then s
      else s.mapTeam j (fun u => match u.wait with
        | some .gangYield | some (.budget _) | some (.batchesYield _ _) => u
        | _ => { u with mustYield := true })) s

/-- THE YIELD of R61: counted (R274), then topped up, or saved when chosen for eviction (R226). A member that an
earlier member's yield pulled along pulls nobody. -/
def State.yieldTeam (s : State) (k : Nat) : State :=
  match SMap.look s.teams k with
  | none => s
  | some t =>
    let s := s.setTeam k t.yield
    let s := s.countPart (s.partOfCluster (clusterOfCore (s.crewOf t).core)) 9 1
    let s := if t.mustYield then s else s.pullGang k
    if t.evict then (s.mapTeam k (fun t => { t with place := .saving })).send .free (.teamSave k)
    else s.topUp k false

end Sys2Proof.Machine
end

