-- ==== Sys2Proof/Machine/Control.lean ====
section
/-!
DEFINITION. Control instructions 0x00 to 0x15 (12_isa_compute R295 to R309, 23_exceptions_by_instruction R456, R457):
branches, the mask stack, the life of a team, code invalidation, traps and sleep.
-/
namespace Sys2Proof.Machine

/-- A J24 target: 4 × OFF from the instruction, modulo 2³² (R277). -/
def jumpTarget (pc : Word) (off : BitVec 24) : Word := pc + 4 * off.signExtend 32

/-- NOP (R308): no effect beyond its charge. -/
def execNop (s : State) : Host.Outcome State Fault Refusal := s.issue .nop State.advance

/-- SETMODE (R73, R308): writes all 16 bits of MODE; a reserved ETYPE or SCOPE fails the decode check (R450). -/
def execSetmode (imm : BitVec 16) (s : State) : Host.Outcome State Fault Refusal :=
  s.issue (.setmode imm) fun s => (s.mapMe fun t => { t with mode := imm }).advance

/-! ### Branches and calls (R296, R297) -/

/-- The control-transfer trap of a taken indirect branch to a misaligned target (R297, R452). -/
def transferCheck (s : State) (target : Word) : Option TrapRec :=
  if s.me.guardAny ∧ target.toNat % 4 ≠ 0 then some (preciseTrap 2 0 target.toNat 0) else none

/-- Go to a target when the guard holds in an active lane, writing s61 for a call (R296). -/
def State.branch (s : State) (target : Word) (link : Bool) : State :=
  if s.me.guardAny then
    (if link then s.mapMe (fun t => t.writeS 61 (t.pc + 4)) else s).advanceTo target
  else s.advance

/-- BR (R296). -/
def execBr (off : BitVec 24) (s : State) : Host.Outcome State Fault Refusal :=
  s.issue (.br off) fun s => s.branch (jumpTarget s.me.pc off) false

/-- BRI (R296, R297). -/
def execBri (a : Reg) (s : State) : Host.Outcome State Fault Refusal :=
  s.issueIf (.bri a) (fun s => transferCheck s (s.me.rd a 0)) fun s => s.branch (s.me.rd a 0) false

/-- CALL (R296). -/
def execCall (off : BitVec 24) (s : State) : Host.Outcome State Fault Refusal :=
  s.issue (.call off) fun s => s.branch (jumpTarget s.me.pc off) true

/-- CALLI (R296, R297): the target is read before s61 is written. -/
def execCalli (a : Reg) (s : State) : Host.Outcome State Fault Refusal :=
  s.issueIf (.calli a) (fun s => transferCheck s (s.me.rd a 0)) fun s => s.branch (s.me.rd a 0) true

/-- RET (R296, R297). -/
def execRet (s : State) : Host.Outcome State Fault Refusal :=
  s.issueIf .ret (fun s => transferCheck s (s.me.readS 61)) fun s => s.branch (s.me.readS 61) false

/-! ### Structured divergence (R91, R298 to R300) -/

/-- Does a push find its 32 hardware entries full, so that it must spill the oldest (R91)? -/
def Team.pushSpills (t : Team) : Bool := decide (t.stack.length - t.spilled ≥ 32)

/-- The trap of a push that must spill and finds no room (R300, R452). -/
def spillCheck (s : State) : Option TrapRec :=
  let t := s.me
  if t.pushSpills && !s.spillFree s.myCtx (stackBytes (t.spilled + 1) - stackBytes t.spilled) then
    some (preciseTrap 3 3 0 0)
  else none

/-- Push an entry; a spill charges 3 MBUD (R91, R223). -/
def State.pushMask (s : State) (e : MaskEntry) : State :=
  let s := if s.me.pushSpills then
      ((s.chargeMem 3).mapMe (fun t => { t with spilled := t.spilled + 1 })).spillWrite s.myCtx 0 136
    else s
  s.mapMe fun t => { t with stack := e :: t.stack }

/-- Pop the top entry into the active mask; a pop that empties the hardware stack refills it (R91, R223). -/
def State.popMask (s : State) : State :=
  match s.me.stack with
  | [] => s
  | e :: r =>
    let s := s.mapMe fun t => { t with mask := e.mask, stack := r }
    if s.me.spilled > 0 ∧ r.length ≤ s.me.spilled then
      (s.chargeMem 3).mapMe fun t => { t with spilled := t.spilled - 1 }
    else s

/-- The mask-structure trap when the top entry is not of the kind required (R299, R452). -/
def topCheck (loop : Bool) (s : State) : Option TrapRec :=
  match s.me.stack with
  | [] => some (preciseTrap 3 (if loop then 1 else 0) 0 0)
  | e :: _ => if e.loop = loop then none else some (preciseTrap 3 (if loop then 1 else 0) 0 0)

/-- SPLIT (R298). -/
def execSplit (p : Fin 8) (s : State) : Host.Outcome State Fault Refusal :=
  s.issueIf (.split p) spillCheck fun s =>
    ((s.pushMask ⟨false, s.me.mask⟩).mapMe fun t => { t with mask := t.mask &&& t.predMask p.val }).advance

/-- FLIP (R298, R299). -/
def execFlip (s : State) : Host.Outcome State Fault Refusal :=
  s.issueIf .flip (topCheck false) fun s =>
    (s.mapMe fun t => match t.stack with
      | e :: _ => { t with mask := e.mask &&& ~~~t.mask }
      | [] => t).advance

/-- JOIN (R298, R299). -/
def execJoin (s : State) : Host.Outcome State Fault Refusal :=
  s.issueIf .join (topCheck false) fun s => s.popMask.advance

/-- LBEGIN (R298). -/
def execLbegin (s : State) : Host.Outcome State Fault Refusal :=
  s.issueIf .lbegin spillCheck fun s => (s.pushMask ⟨true, s.me.mask⟩).advance

/-- Clear lanes in every SPLIT entry above the innermost LOOP entry (R298). -/
def breakEntries (b : LaneMask) : List MaskEntry → List MaskEntry
  | [] => []
  | e :: r => if e.loop then e :: r else { e with mask := e.mask &&& ~~~b } :: breakEntries b r

/-- Number of SPLIT entries above the innermost LOOP entry. -/
def splitsAbove (l : List MaskEntry) : Nat := (l.takeWhile (fun e => !e.loop)).length

/-- LBRK (R298 to R300): each spilled entry that is rewritten charges 3 MBUD. -/
def execLbrk (p : Fin 8) (s : State) : Host.Outcome State Fault Refusal :=
  s.issueIf (.lbrk p)
    (fun s => if s.me.stack.any (fun e => e.loop) then none else some (preciseTrap 3 2 0 0))
    fun s =>
      let t := s.me
      let b := t.mask &&& t.predMask p.val
      let rewritten := splitsAbove t.stack - (t.stack.length - t.spilled)
      ((if rewritten > 0 then (s.chargeMem (3 * rewritten)).spillWrite s.myCtx 0 (136 * rewritten) else s).mapMe fun t =>
        { t with mask := t.mask &&& ~~~b, stack := breakEntries b t.stack }).advance

/-- LEND (R298, R299). -/
def execLend (off : BitVec 24) (s : State) : Host.Outcome State Fault Refusal :=
  s.issueIf (.lend off) (topCheck true) fun s =>
    if s.me.mask ≠ 0 then s.advanceTo (jumpTarget s.me.pc off) else s.popMask.advance

/-! ### The life of a team -/

/-- EXIT (R44, R301, R457): it waits for the team's batches, then the team ends; in a handler, or issued again by
RETT, the crew is released (R441). The
release before it is in the readiness of the step. -/
def execExit (s : State) : Host.Outcome State Fault Refusal :=
  s.issue .exit fun s =>
    if s.me.batches ≠ [] then s.stall .exitBatches false
    else
      let t := s.me
      let s := s.endTeam s.cur
      if (t.trap.inHandler ∨ t.reissue.isSome) ∧ s.teamsOfCrew t.crew ≠ [] then s.releaseCrew t.crew else s

/-- TRIGGER (R53, R54, R302): a mark, and PUB at device scope. -/
def execTrigger (s : State) : Host.Outcome State Fault Refusal :=
  s.issue .trigger fun s =>
    let crew := s.me.crew
    ((s.mapMe fun t => { (t.hold (releaseHold 4)) with triggered := true }).noteTrigger crew).advance

/-- YIELD (R303): all four steps of R61. -/
def execYield (s : State) : Host.Outcome State Fault Refusal :=
  s.issue .yield fun s => s.advance.yieldTeam s.cur

/-- CONT (R80, R304). -/
def execCont (off : BitVec 24) (s : State) : Host.Outcome State Fault Refusal :=
  s.issue (.cont off) fun s => (s.mapMe fun t => { t with contpc := jumpTarget t.pc off &&& ~~~3 ||| 1 }).advance

/-- SLEEP (R305): not ready until n clk have passed; SLEEP 0 is NOP. -/
def execSleep (a : Reg) (s : State) : Host.Outcome State Fault Refusal :=
  s.issue (.sleep a) fun s =>
    let n := min (s.me.rd a 0).toNat 65535
    let s := s.advance
    if n = 0 then s
    else (s.mapMe fun t => { t with wait := some (.sleep (s.clk + n)) }).later (s.clk + n) (.sleepEnd s.cur)

/-- SLEEP_END (R216, R305): the team is ready again. -/
def execSleepEnd (team : Nat) (s : State) : Host.Outcome State Fault Refusal :=
  .next (s.mapTeam team fun t => match t.wait with
    | some (.sleep due) => if due ≤ s.clk then { t with wait := none } else t
    | _ => t)

/-- BUDGET_YIELD (R61, R224): the team yields at this boundary. -/
def execBudgetYield (team : Nat) (s : State) : Host.Outcome State Fault Refusal := .next (s.yieldTeam team)

/-! ### Code (R306, R307) -/

/-- Does a line of the address space hold a byte at CODEBASE + ((start + i) mod 2³²), i < len? -/
def lineInCode (line codebase start len : Nat) : Bool :=
  (List.range 128).any fun b =>
    let off := (line + b + (2 ^ 57 - va57 codebase)) % 2 ^ 57
    decide (off < 2 ^ 32) && decide ((off + 2 ^ 32 - start) % 2 ^ 32 < len)

/-- The entry of a line that a team's instruction fetch waits for; its instruction is written as NOP, which never has
outstanding requests of its own. -/
def isFetch (o : Outstanding) : Bool := decide (o.instr = .nop)

/-- The lines that `hit` names leave a core's instruction cache, and fetches of such lines that are on their way to the core
bring nothing (R92, R306). -/
def State.dropCode (s : State) (core : Nat) (hit : Nat → Bool) : State :=
  let s := s.mapCore core fun c => { c with icache := c.icache.filter fun p => !hit p.1 }
  let drop := fun (t : Team) => { t with outs := t.outs.filter fun o => !(isFetch o && o.lines.any hit) }
  { s with teams := s.teams.map fun p => if (s.crewOf p.2).core = core then (p.1, drop p.2) else p }

/-- Does an invalidation name a line: one of its context with a byte of its range, or any where the range has 65,536 bytes
or more (R306)? -/
def IcInv.hits (v : IcInv) (lid : Nat) : Bool :=
  decide (lineCtx lid = v.ctx) && (decide (v.len ≥ 65536) || lineInCode (lineVa lid) v.base v.start v.len)

/-- ICINV (R306): an invalidation of the team's range begins on its core, and later instructions issue while it proceeds.
Earlier releases have completed (readiness of the step). -/
def execIcinv (d a : Reg) (s : State) : Host.Outcome State Fault Refusal :=
  s.issue (.icinv d a) fun s =>
    let v : IcInv := ⟨s.cur, s.myCtx, s.myGrid.launch.codebase, (s.me.rd d 0).toNat, (s.me.rd a 0).toNat⟩
    (s.mapCore s.myCore fun c => { c with icinvs := c.icinvs ++ [v] }).advance

/-- The oldest invalidation that proceeds on a core completes: its lines leave the instruction cache, and fetches of such
lines that are in flight to the core bring nothing (R306). -/
def State.invalidateNext (s : State) (core : Nat) : State :=
  match (s.coreAt core).icinvs with
  | [] => s
  | v :: rest => (s.mapCore core fun c => { c with icinvs := rest }).dropCode core v.hits

/-- IFENCE (R307), every earlier ICINV of the team being complete (readiness of the step): what was fetched before, or is on
its way, is discarded, and the words after it are fetched again. -/
def execIfence (s : State) : Host.Outcome State Fault Refusal :=
  s.issue .ifence fun s => (s.mapMe fun t => { t with outs := t.outs.filter fun o => !isFetch o }).advance

/-! ### Traps -/

/-- TRAP (R309): charged, then the precise software trap with IMM as its code. -/
def execTrap (imm : BitVec 16) (s : State) : Host.Outcome State Fault Refusal :=
  s.issue (.trap imm) fun s => s.trap (preciseTrap 4 0 imm.toNat 0)

/-- RETT (R441); outside a handler it fails the decode check with SUB 0x09. -/
def execRett (s : State) : Host.Outcome State Fault Refusal := s.issue .rett State.returnFromTrap

/-- HALT_ARRIVE (R437): the sibling records TPC and issues at most `skid` further instructions; a stalled sibling stops
at once, be it at a wait, at the result of a missed load or sunk group, or at a host's reply. One that is halted already keeps its
record (DEDUCED, log entry 15). -/
def execHaltArrive (team : Nat) (t : TrapRec) (skid : Nat) (s : State) : Host.Outcome State Fault Refusal :=
  .next (s.mapTeam team fun u =>
    if u.halted then u else
    let u := { u with trap := { u.trap with tpc := u.pc } }
    let h : HaltState := { left := skid, count := 0, info := t }
    if u.wait.isSome ∨ u.stalled ∨ !u.escals.isEmpty ∨ skid = 0 then u.stopHalted h else { u with halt := some h })

/-- PART_TRAP (R394, R438, R470): a fault of an outstanding instruction is delivered, with its PC, and its entry ends; that of an
MMA sets MROW. -/
def execPartTrap (team : Nat) (t : TrapRec) (pc : Nat) (s : State) : Host.Outcome State Fault Refusal :=
  let ends := fun (o : Outstanding) => decide (o.pc.toNat = pc ∧ o.pend = 0) && o.bad.isSome
  let s := s.mapTeam team fun u =>
    { u with outs := u.outs.filter fun o => !ends o,
             faultLines := u.faultLines ++ (u.outs.filter ends).flatMap Outstanding.badLines }
  .next ((s.mmaStops team (BitVec.ofNat 32 pc)).takeTrap team t (BitVec.ofNat 32 pc) (BitVec.ofNat 32 pc))

end Sys2Proof.Machine
end

