-- ==== Sys2Proof/Machine/Access.lean ====
section
/-!
DEFINITION. The issue side of memory instructions: effective addresses (13_isa_memory_sync R340, R345, R355), what is
checked at issue (24_memory_failures R474, R475), the remap filter (05_memory R130, 10_host_peers R265), the L1 (R134,
R138, R171), grouping lanes into requests (R119, R223), outstanding entries and their results (R344, R438, R470).
-/
namespace Sys2Proof.Machine

/-! ### Addresses -/

/-- Effective address of a lane (R340). -/
def Team.ea (t : Team) (a b : Reg) (l : Nat) : Nat :=
  ((t.rd64 a l) + (t.rd b l).signExtend 64).toNat

/-- Address held in a pair. -/
def Team.addr (t : Team) (a : Reg) (l : Nat) : Nat := (t.rd64 a l).toNat

/-- Byte and nibble that ST4 names (R345): B counts nibbles. -/
def Team.nibble (t : Team) (a b : Reg) (l : Nat) : Nat × Nat :=
  let k := (t.rd b l).toInt
  ((((t.rd64 a l).toNat : Int) + k / 2) % 2 ^ 64 |>.toNat, (k % 2).toNat)

/-- Access size of a load or store. -/
def sizeOf : Instr → Nat
  | .ld8 _ _ _ | .ld8s _ _ _ | .st8 _ _ _ | .st4 _ _ _ => 1
  | .ld16 _ _ _ | .ld16s _ _ _ | .st16 _ _ _ => 2
  | .ld64 _ _ _ | .st64 _ _ _ => 8
  | .ld128 _ _ _ | .st128 _ _ _ | .ldl128 _ _ _ | .stl128 _ _ _ => 16
  | _ => 4

/-- Value of a register group of `n` bytes in a lane. -/
def Team.rdBytes (t : Team) (d : Reg) (n l : Nat) : Nat :=
  if n ≤ 4 then (t.rd d l).toNat % 2 ^ (8 * n)
  else (List.range (n / 4)).foldl (fun acc i => acc + (t.rd (regAt d i) l).toNat * 2 ^ (32 * i)) 0

/-- Write a value of `n` bytes to a register group in a lane: words in ascending registers (R344). -/
def Team.wrBytes (t : Team) (d : Reg) (n l v : Nat) : Team :=
  (List.range (ceilDiv n 4)).foldl (fun t i => t.wr (regAt d i) l (BitVec.ofNat 32 (v / 2 ^ (32 * i)))) t

/-- Row groups: number of lanes per group, and for each group of the team its first lane. -/
def rowGroups (t : Team) (len : Nat) : List Nat :=
  (List.range (ceilDiv t.lanes (len / 16))).map (fun k => k * (len / 16))

/-- Lanes of the row group that starts at lane `f`. -/
def groupLanes (len f : Nat) : List Nat := (List.range (len / 16)).map (fun j => f + j)

/-- Groups that act: all their lanes are active (R291); under a guard, those whose first lane holds it (R354). -/
def Team.actingGroups (t : Team) (len : Nat) (guarded : Bool) : List Nat :=
  (rowGroups t len).filter fun f => (groupLanes len f).all (fun l => t.live.getLsbD l && decide (l < t.lanes)) &&
    (!guarded || t.guard f)

/-- Global accesses of an instruction as it stands: lane, address, bytes. PREFETCH is no access (R165). -/
def memAccs (i : Instr) (t : Team) : List (Nat × Nat × Nat) :=
  match i with
  | .ld8 _ a b | .ld8s _ a b | .ld16 _ a b | .ld16s _ a b | .ld32 _ a b | .ld64 _ a b | .ld128 _ a b =>
    (t.actLanes i).map fun l => (l, t.ea a b l, sizeOf i)
  | .st8 _ a b | .st16 _ a b | .st32 _ a b | .st64 _ a b | .st128 _ a b =>
    (t.guardedLanes i).map fun l => (l, t.ea a b l, sizeOf i)
  | .st4 _ a b => (t.guardedLanes i).map fun l => (l, (t.nibble a b l).1, 1)
  | .discard d a b => (t.actLanes i).map fun l => (l, t.ea a b l, (t.rd d l).toNat)
  | .rowld _ a b => (t.actingGroups (t.rd b 0).toNat false).map fun f => (f, t.addr a f, (t.rd b 0).toNat)
  | .rowst _ a b | .rowadd _ a b => (t.actingGroups (t.rd b 0).toNat true).map fun f => (f, t.addr a f, (t.rd b 0).toNat)
  | .aadd _ a _ | .amin _ a _ | .amax _ a _ | .aminu _ a _ | .amaxu _ a _ | .aand _ a _ | .aor _ a _ | .axor _ a _
  | .axch _ a _ | .acas _ a _ | .afadd _ a _ => (t.guardedLanes i).map fun l => (l, t.addr a l, 4)
  | .lock a | .unlock a => [(0, t.addr a 0, 8)]
  | .wreg _ a _ => [(0, t.addr a 0, 4)]
  | .tbinit a _ | .tbexp a _ | .tbarr a _ | .tbwait a _ => [(0, t.addr a 0, 16)]
  | .tbtest _ a => [(0, t.addr a 0, 16)]
  | _ => []

/-- The precise trap of operands that break a limit in some lanes: the record is that of the lowest such lane, and the
set shows every one (R454). -/
def limitTrap (sub : Nat) (bad : List (Nat × Nat)) : Option TrapRec :=
  match bad with
  | [] => none
  | (_, v) :: _ => some (preciseTrap 8 sub (v % 2 ^ 32) (v / 2 ^ 32)
      (BitVec.ofNat 1024 (bad.foldl (fun m p => m ||| 2 ^ p.1) 0)))

/-- Alignment of every access of an instruction to its own size (R459, R463). -/
def alignCheck (i : Instr) (s : State) : Option TrapRec :=
  limitTrap 0 ((memAccs i s.me).filterMap fun p => if p.2.1 % p.2.2 ≠ 0 then some (p.1, p.2.1) else none)

/-! ### What a lane meets at issue -/

/-- Does an access hit a range registered on the core's die (R179, R475)? Its own context and virtual address are compared, as
they are before the remap filter of R130 (DESIGN CHOICE, log entry 128). -/
def State.rangeHit (s : State) (die ctx va n : Nat) (write : Bool) : Bool :=
  s.ranges.any fun r => decide (r.die = die ∧ r.ctx = ctx ∧ va < r.hi ∧ r.lo < va + n) && (write || r.dst)

/-- The fault of a lane at issue: non-canonical (R474), or a range-lock hit (R475). -/
def State.laneFault (s : State) (va n : Nat) (write : Bool) : Option BadAccess :=
  if !canonical va then some ⟨0x0B, 0, 5, va⟩
  else if s.rangeHit (dieOfCore s.myCore) s.myCtx va n write then some ⟨0x0A, 0, if write then 1 else 0, va⟩
  else none

/-- The remap filter of a core: primary context and canonical primary address (R122, R130, R265). -/
def State.remapped (s : State) (core ctx va : Nat) : Nat × Nat :=
  match (s.coreAt core).remap.find? (fun p => p.2.valid && decide (p.2.actx = ctx) &&
      (if p.2.big then decide (bitsOf va 25 32 = p.2.aliasPage / 2 ^ 9) else decide (bitsOf va 16 41 = p.2.aliasPage))) with
  | some (_, e) =>
    (e.pctx, canonOf (if e.big then e.primPage / 2 ^ 9 * 2 ^ 25 + va % 2 ^ 25 else e.primPage * 2 ^ 16 + va % 2 ^ 16))
  | none => (ctx, va)

/-- A line of the core's L1. -/
def State.l1Line (s : State) (core lid : Nat) : Option L1Line := SMap.look (s.coreAt core).l1 lid

/-- Where an access goes: the L1 is looked up under its own address, then under the primary one (R130). -/
def State.locate (s : State) (core ctx va : Nat) : Nat × Nat :=
  if (s.l1Line core (lineId ctx va)).isSome then (ctx, va) else s.remapped core ctx va

/-! ### Requests and outstanding entries -/

/-- Group accesses into requests: one for each key, in order of first appearance. -/
def groupAccs (l : List ((Nat × Nat) × Nat × LaneAcc)) : List ((Nat × Nat) × Nat × List LaneAcc) :=
  l.foldl (fun acc p =>
    if acc.any (fun g => decide (g.1 = p.1)) then
      acc.map (fun g => if g.1 = p.1 then (g.1, g.2.1, g.2.2 ++ [p.2.2]) else g)
    else acc ++ [(p.1, p.2.1, [p.2.2])]) []

/-- Requests of located lanes, one for each line of each pass: `(context, access)` in ascending lane order. -/
def lineReqs (core : Nat) (op : HomeOp) (l : List (Nat × LaneAcc)) : List HomeReq :=
  (groupAccs (l.map fun p => ((p.2.lane / 32, lineId p.1 p.2.va), p.1, p.2))).map fun g =>
    ⟨.nobody, core, g.2.1, (g.2.2.head?.map LaneAcc.va).getD 0, op, g.2.2⟩

/-- Requests of an aggregated atomic: one for each address (R119), or one for each lane for ACAS. Addresses are compared as
they stand after the remap filter (R130), so that an alias and its primary share a request (DESIGN CHOICE, log entry 101). -/
def atomReqs (core : Nat) (op : HomeOp) (each : Bool) (l : List (Nat × LaneAcc)) : List HomeReq :=
  (groupAccs (l.map fun p => ((if each then p.2.lane else 0, p.1 * 2 ^ 64 + p.2.va), p.1, p.2))).map fun g =>
    ⟨.nobody, core, g.2.1, (g.2.2.head?.map LaneAcc.va).getD 0, op, g.2.2⟩

/-- A lane mask of a list of lanes. -/
def lanesMask (l : List Nat) : LaneMask := BitVec.ofNat 1024 (l.foldl (fun m x => m ||| 2 ^ x) 0)

/-- Record faulted lanes: the fault reported is that of the lowest lane (R436, R470). -/
def Outstanding.addBad (o : Outstanding) (lanes : List Nat) (b : BadAccess) : Outstanding :=
  if lanes = [] then o
  else
    let low := lanes.foldl min 1023
    let lower := (List.range low).any (fun l => o.lanes.getLsbD l)
    { o with lanes := o.lanes ||| lanesMask lanes, bad := if lower then o.bad else some b }

/-- A result of an instruction in a lane, from the value its request returned. -/
def Team.putResult (t : Team) (i : Instr) (l v : Nat) : Team :=
  match i with
  | .ld8 d _ _ => t.wr d l (BitVec.ofNat 32 (v % 2 ^ 8))
  | .ld8s d _ _ => t.wr d l ((BitVec.ofNat 8 v).signExtend 32)
  | .ld16 d _ _ => t.wr d l (BitVec.ofNat 32 (v % 2 ^ 16))
  | .ld16s d _ _ => t.wr d l ((BitVec.ofNat 16 v).signExtend 32)
  | .ld32 d _ _ => t.wr d l (BitVec.ofNat 32 v)
  | .ld64 d _ _ => t.wrBytes d 8 l v
  | .ld128 d _ _ => t.wrBytes d 16 l v
  | .rowld d _ _ => t.wrBytes d 16 l v
  | .aadd d _ _ | .amin d _ _ | .amax d _ _ | .aminu d _ _ | .amaxu d _ _ | .aand d _ _ | .aor d _ _ | .axor d _ _
  | .axch d _ _ | .acas d _ _ | .afadd d _ _ => t.wr d l (BitVec.ofNat 32 v)
  | .wreg d _ _ => t.wr d 0 (BitVec.ofNat 32 v)
  | .tbtest d _ => t.wrBytes d 8 0 v
  | .reclaim d _ _ | .pinq d _ | .launch d _ _ => t.wr d 0 (BitVec.ofNat 32 v)
  | .accrd d _ _ => t.wr d l (BitVec.ofNat 32 v)
  | .scld d _ _ => t.wr d 0 (BitVec.ofNat 32 v)
  | .qsub _ => { t with packet := some (BitVec.ofNat 512 v) }
  | _ => t

/-- Write the results an instruction has gathered. -/
def Team.putResults (t : Team) (i : Instr) (got : List (Nat × Nat)) : Team :=
  got.foldl (fun t p => t.putResult i p.1 p.2) t

/-- The PART trap of an outstanding instruction whose last reply has returned (R469, R470). -/
def partTrapOf (o : Outstanding) : Option TrapRec :=
  o.bad.map fun b =>
    { cause := b.cause, sub := if b.cause = 8 then b.kind else 16 * b.site + b.kind, prec := false, part := true,
      info0 := b.va % 2 ^ 32, info1 := b.va / 2 ^ 32, lanes := o.lanes }

/-- A stop of a sink group joins the one its team still has to raise: the record is that of the lowest stopped lane, and
the set shows every stopped lane (R460). -/
def joinStop (old : Option (TrapRec × Word)) (pc : Word) (stops : List (Nat × Nat × Nat)) : Option (TrapRec × Word) :=
  stops.foldl (fun acc p =>
    let set := BitVec.ofNat 1024 (2 ^ p.1)
    match acc with
    | none => some (preciseTrap 8 p.2.1 (p.2.2 % 2 ^ 32) (p.2.2 / 2 ^ 32) set |> fun r => { r with prec := false }, pc)
    | some (r, q) =>
      if (List.range p.1).any (fun l => r.lanes.getLsbD l) then some ({ r with lanes := r.lanes ||| set }, q)
      else some ({ r with sub := p.2.1, info0 := p.2.2 % 2 ^ 32, info1 := p.2.2 / 2 ^ 32, lanes := r.lanes ||| set }, q)) old

/-- The stops of a sink group are kept with its team until they are raised (R460): those of a re-issue join the stop of their first
run, and those of another group are a stop of their own, raised after it. -/
def Team.keepStops (t : Team) (o : Outstanding) : Team :=
  let joins := fun (p : TrapRec × Word) => o.old && decide (p.2 = o.pc)
  match t.heldStop with
  | none => { t with heldStop := joinStop none o.pc o.stops }
  | some p =>
    if o.stops = [] then t
    else if joins p then { t with heldStop := joinStop (some p) o.pc o.stops }
    else if t.laterStops.any joins then
      { t with laterStops := t.laterStops.map fun x => if joins x then (joinStop (some x) o.pc o.stops).getD x else x }
    else { t with laterStops := t.laterStops ++ (joinStop none o.pc o.stops).toList }

/-- An outstanding instruction has its last reply: results are written and the entry is removed; or, with faulted
lanes, results of the other lanes are written and the trap is sent (R470). Stopped lanes of a sink group are kept for a
trap of their own (R460). -/
def State.finishOut (s : State) (k : Nat) (o : Outstanding) : State :=
  let s := s.mapTeam k fun t => (t.putResults o.instr o.got).keepStops o
  match partTrapOf o with
  | none => s.mapTeam k fun t => { t with outs := t.outs.filter fun x => decide (x.id ≠ o.id) }
  | some r =>
    if isFetch o then s else
    let done := fun (x : Outstanding) => if x.id = o.id then { x with got := [], stops := [] } else x
    (s.mapTeam k fun t => { t with outs := t.outs.map done }).send .free (.partTrap k r o.pc.toNat)

/-- An outstanding entry of the running team, as it stands at issue. -/
def newOut (t : Team) (i : Instr) (cls : OutClass) (regs lines : List Nat) : Outstanding :=
  { id := t.nextOut, instr := i, pc := t.pc, cls := cls, mode := t.mode, pend := 0, regs := regs, lines := lines,
    got := [], bad := none, lanes := 0, stops := [], old := t.reissue.isSome }

/-- Lines of a list of requests. -/
def linesOf (reqs : List HomeReq) : List Nat := reqs.flatMap reqLines

/-! ### Requests that wait behind a fault (R438) -/

/-- Might a request for a line still fault? Its home does not hold it with every permission and clean of poison. -/
def State.mayFault (s : State) (lid : Nat) : Bool :=
  match SMap.look s.l2 lid with
  | some x => !(x.rd && x.wr && decide (x.poison = 0) && !x.host)
  | none => true

/-- Must requests of entry `id` to a line wait (R438)? An older request to it has faulted, may still fault, or waits itself. -/
def State.lineBlocked (s : State) (t : Team) (id lid : Nat) : Bool :=
  t.faultLines.contains lid ||
  t.outs.any (fun o => !isFetch o && decide (o.cls ≠ .sync ∧ o.cls ≠ .launch) && (decide (o.id < id) || o.old) &&
    (o.badLines.contains lid || (decide (o.pend > 0) && o.lines.contains lid && s.mayFault lid))) ||
  t.behind.any fun q => (match q.who with
    | .team _ o => decide (o < id)
    | _ => false) && (reqLines q).contains lid

/-- Does an entry still have requests that wait behind a fault, while the team's handler runs? Orders of the handler do not
wait for it. -/
def Team.waitsBehind (t : Team) (o : Outstanding) : Bool :=
  t.trap.inHandler && t.behind.any fun q => match q.who with
    | .team _ i => decide (i = o.id)
    | _ => false

/-- A request leaves the core; a plain store's is kept until it is acknowledged (R138). -/
def State.emit (s : State) (q : HomeReq) : State :=
  (match q.op with
   | .store _ => s.mapCore q.core fun c => { c with stores := c.stores ++ [(⟨q, none⟩ : PendStore)] }
   | _ => s).request q

/-- A request of the running team leaves, or waits behind a fault; those of a handler and of a re-issue do not wait. -/
def State.emitOr (s : State) (id : Nat) (q : HomeReq) : State :=
  let t := s.me
  if !t.trap.inHandler && t.reissue.isNone && (reqLines q).any (s.lineBlocked t id) then
    s.setMe { t with behind := t.behind ++ [q] }
  else s.emit q

/-- Is a request performed at home, be it a read or a write, while the core's L1 may hold the line as it was (R138, R158, R159)? -/
def actsAtHome (q : HomeReq) : Bool :=
  match q.op with
  | .atom _ l1 => !l1
  | .store _ => q.accs.any fun a => decide (a.data2 = 1)
  | .store4 | .rowSt _ | .rowAdd _ _ | .discard _ | .unlock | .tbInit _ | .tbExpect _ | .tbArrive _ | .load _ | .rowLd _
  | .tbTest => true
  | _ => false

/-- The lines of lanes that were refused at issue (R438). -/
def State.badLinesOf (s : State) (bad : List (Nat × BadAccess)) : List Nat :=
  (bad.filter fun p => canonical p.2.va).map fun p =>
    let w := s.locate s.myCore s.myCtx p.2.va
    lineId w.1 w.2

/-- SEND: the requests of an instruction leave the core; lanes served or faulted at issue are recorded with the entry,
and an instruction with neither request nor fault is complete at once. -/
def State.sendOut (s : State) (i : Instr) (cls : OutClass) (reqs : List HomeReq) (got : List (Nat × Nat))
    (bad : List (Nat × BadAccess)) (regs : List Nat := regsWritten i) : State :=
  if reqs = [] ∧ bad = [] then s.mapMe fun t => t.putResults i got
  else
    let t := s.me
    let o := { newOut t i cls regs (linesOf reqs) with
                 pend := reqs.length, got := got, atHome := linesOf (reqs.filter actsAtHome) }
    let o := { bad.foldl (fun o p => o.addBad [p.1] p.2) o with badLines := s.badLinesOf bad }
    let s := s.setMe { t with outs := t.outs ++ [o], nextOut := t.nextOut + 1 }
    let s := reqs.foldl (fun s q => s.emitOr o.id { q with who := .team s.cur o.id }) s
    if reqs = [] then s.finishOut s.cur o else s

/-! ### The pool of outstanding line requests (R24, R143) -/

/-- The size of a core's pool (R17, R24). -/
def poolSize : Nat := 1280

/-- Do the requests of an instruction take entries of the pool, other than as plain stores (R24)? Atomics, ROWST, ROWADD, DISCARD
and the operations on locks and barriers take none (DESIGN CHOICE, log entry 113). -/
def usesPool : Instr → Bool
  | .ld8 _ _ _ | .ld8s _ _ _ | .ld16 _ _ _ | .ld16s _ _ _ | .ld32 _ _ _ | .ld64 _ _ _ | .ld128 _ _ _ | .rowld _ _ _
  | .st4 _ _ _ | .sink _ _ _ | .scld _ _ _ | .qsub _ | .mma _ _ _ => true
  | _ => false

/-- Does an entry wait for the matrix datapath besides its requests (R386, R391)? -/
def waitsDatapath : Instr → Bool
  | .scld _ _ _ | .mma _ _ _ => true
  | _ => false

/-- Requests of an entry that hold the pool's entries: those on their way, but for plain stores and those that wait at the
core. -/
def State.outPool (s : State) (k : Nat) (t : Team) (o : Outstanding) : Nat :=
  if usesPool o.instr && !isFetch o then
    let mine := fun (q : HomeReq) => decide (q.who = .team k o.id)
    o.pend - (if waitsDatapath o.instr then 1 else 0) - (t.behind.filter mine).length -
      ((s.coreAt (s.crewOf t).core).stores.filter fun p => mine p.q).length
  else 0

/-- Entries of a core's pool in use (R24): L1 misses, ST4 and packets, plain stores awaiting acknowledgement, prefetches. -/
def State.poolUsed (s : State) (core : Nat) : Nat :=
  (s.teams.filter fun p => decide ((s.crewOf p.2).core = core)).foldl (fun n p =>
    p.2.outs.foldl (fun n o => n + s.outPool p.1 p.2 o) n) 0 +
    (s.coreAt core).stores.length + (s.coreAt core).prefetches.length

/-- Has the pool room for `need` requests (R24)? One instruction that needs more than there are waits for an empty pool. -/
def State.poolRoom (s : State) (core need : Nat) : Bool := decide (need = 0 ∨ s.poolUsed core + min poolSize need ≤ poolSize)

/-- Does a request that waited take an entry of the pool when it leaves (R24)? -/
def Team.draws (t : Team) (q : HomeReq) : Bool :=
  (match q.op with
   | .store _ => true
   | _ => false) || t.outs.any fun o => usesPool o.instr && (match q.who with
    | .team _ i => decide (i = o.id)
    | _ => false)

/-- The first request of a team that waits no longer, if the pool has an entry for it (R24). -/
def State.nextBehind (s : State) (t : Team) : Option HomeReq :=
  t.behind.find? fun q => (match q.who with
    | .team _ o => !(reqLines q).any (s.lineBlocked t o)
    | _ => true) && (!t.draws q || s.poolRoom (s.crewOf t).core 1)

/-- A request that waited behind a fault leaves the core. -/
def State.forward (s : State) (k : Nat) : State :=
  match SMap.look s.teams k with
  | none => s
  | some t => match s.nextBehind t with
    | none => s
    | some q => (s.setTeam k { t with behind := t.behind.filter fun x => decide (x ≠ q) }).emit q

/-- Acquire at a scope after an access whose ORD is 1 or 3 (R161, R346). -/
def State.acquireAt (s : State) (scope : Nat) : State :=
  if s.me.ord = 1 ∨ s.me.ord = 3 then s.mapMe fun t => t.hold (acquireHold scope) else s

/-- The scope of an instruction that is no row operation: SCOPE 6 acts as SCOPE 4 (R455). -/
def Team.plainScope (t : Team) : Nat := if t.scope = 6 then 4 else t.scope

/-- The acquire of an access that is no row operation. -/
def State.acquireAfter (s : State) : State := s.acquireAt s.me.plainScope

end Sys2Proof.Machine
end

