-- ==== Sys2Proof/Machine/Loads.lean ====
section
/-!
DEFINITION. Loads, stores, local memory, PREFETCH, DISCARD, row operations and atomics, 0x78 to 0x8A, 0x8C to 0x8E and
0xA0 to 0xAA (13_isa_memory_sync R343 to R350, R353 to R356; 06_consistency R158 to R174).
-/
namespace Sys2Proof.Machine

/-! ### Loads (R344, R346) -/

/-- What a lane of a load meets: a fault at issue, a hit in L1 with its value and line, or a request. -/
inductive LaneLoad where
  | bad (l : Nat) (b : BadAccess)
  | hit (l v lid : Nat)
  | miss (ctx : Nat) (a : LaneAcc)

/-- Class one lane of a load (R134, R474, R475, R523). -/
def State.classLoad (s : State) (p : Nat × Nat × Nat) : LaneLoad :=
  match s.laneFault p.2.1 p.2.2 false with
  | some b => .bad p.1 b
  | none =>
    let w := s.locate s.myCore s.myCtx p.2.1
    match s.l1Line s.myCore (lineId w.1 w.2) with
    | some x => if x.rd then .hit p.1 (lineNat x.data (w.2 % 128) p.2.2) (lineId w.1 w.2) else .miss w.1 ⟨p.1, w.2, 0, 0⟩
    | none => .miss w.1 ⟨p.1, w.2, 0, 0⟩

/-- Outstanding operations of a core on a line (R171). -/
def State.lineOps (s : State) (core lid : Nat) : List NearOp := (s.coreAt core).ops.filter fun o => decide (o.lid = lid)

/-- Writes to a line held in L1 that are not settled: those its updates brought, and the core's own plain stores and crew-scope
operations that are not acknowledged (R138, R160, R171). -/
def State.lineWrites (s : State) (core lid : Nat) (x : L1Line) : List SeenWrite :=
  x.unsettled.map SeenWrite.home ++ (s.lineOps core lid).map (fun o => .store o.team o.out) ++ (s.coreAt core).stores.filterMap fun p =>
    match p.q.who with
    | .team k o => if p.q.accs.any fun a => decide (lineId p.q.ctx a.va = lid) then some (.store k o) else none
    | _ => none

/-- The running team reads lines held in L1: their unsettled writes count as read (R160). -/
def State.seeL1 (s : State) (core : Nat) (lids : List Nat) (row : Bool) : State :=
  (dedupNat lids).foldl (fun s lid => match s.l1Line core lid with
    | none => s
    | some x =>
      let seen := (s.lineWrites core lid x).map fun w => (w, row)
      s.mapMe fun t => { t with unsettled := t.unsettled ++ seen.filter fun w => !t.unsettled.contains w }) s

/-- Lines that a load hits: the bit of R139 is cleared, and unsettled writes of the line count as read (R134, R160). -/
def State.touchL1 (s : State) (core : Nat) (lids : List Nat) (row : Bool := false) : State :=
  (dedupNat lids).foldl (fun s lid => match s.l1Line core lid with
    | none => s
    | some x => s.mapCore core fun c =>
        { c with l1 := SMap.put c.l1 lid { x with read := x.read.map fun _ => true, last := s.tick } })
    (s.seeL1 core lids row)

/-- Is a miss of the line already outstanding on the core, of a load or a PREFETCH, so that a load merges into it (R223)? -/
def State.missOut (s : State) (core lid : Nat) : Bool :=
  (s.coreAt core).prefetches.contains lid ||
  s.teams.any fun p => decide ((s.crewOf p.2).core = core) &&
    p.2.outs.any fun o => decide (o.cls = .load ∧ o.pend > 0) && !isFetch o && o.lines.contains lid

/-- MBUD units of load requests: 2 each, unless they merge (R223). -/
def State.missCharge (s : State) (core : Nat) (reqs : List HomeReq) : Nat :=
  2 * (reqs.filter fun q => !s.missOut core (lineId q.ctx q.va)).length

/-- Send a load's lanes: hits are served from L1, misses become one request for each line of each pass. -/
def State.sendLoads (s : State) (i : Instr) (size : Nat) (ls : List LaneLoad) (cls : OutClass) : State :=
  let core := s.myCore
  let hits := ls.filterMap fun x => match x with
    | .hit l v lid => some (l, v, lid)
    | _ => none
  let bads := ls.filterMap fun x => match x with
    | .bad l b => some (l, b)
    | _ => none
  let reqs := lineReqs core (.load size) (ls.filterMap fun x => match x with
    | .miss c a => some (c, a)
    | _ => none)
  let s := if reqs = [] then s else s.chargeMem (s.missCharge core reqs)
  let s := s.touchL1 core (hits.map fun h => h.2.2)
  let s := if hits = [] then s else s.countUnit 0 core 8 3 hits.length
  let s := if reqs = [] then s else s.countUnit 0 core 8 4 reqs.length
  s.sendOut i cls reqs (hits.map fun h => (h.1, h.2.1)) bads

/-- A global load (R344). -/
def execLoad (i : Instr) (s : State) : Host.Outcome State Fault Refusal :=
  s.issueIf i (alignCheck i) fun s =>
    (s.sendLoads i (sizeOf i) ((memAccs i s.me).map s.classLoad) .load).acquireAfter.advance

/-- LD8 (R344). -/
def execLd8 (d a b : Reg) (s : State) : Host.Outcome State Fault Refusal := execLoad (.ld8 d a b) s
/-- LD8S (R344). -/
def execLd8s (d a b : Reg) (s : State) : Host.Outcome State Fault Refusal := execLoad (.ld8s d a b) s
/-- LD16 (R344). -/
def execLd16 (d a b : Reg) (s : State) : Host.Outcome State Fault Refusal := execLoad (.ld16 d a b) s
/-- LD16S (R344). -/
def execLd16s (d a b : Reg) (s : State) : Host.Outcome State Fault Refusal := execLoad (.ld16s d a b) s
/-- LD32 (R344). -/
def execLd32 (d a b : Reg) (s : State) : Host.Outcome State Fault Refusal := execLoad (.ld32 d a b) s
/-- LD64 (R344). -/
def execLd64 (d a b : Reg) (s : State) : Host.Outcome State Fault Refusal := execLoad (.ld64 d a b) s
/-- LD128 (R344). -/
def execLd128 (d a b : Reg) (s : State) : Host.Outcome State Fault Refusal := execLoad (.ld128 d a b) s

/-! ### Stores (R138, R344, R345) -/

/-- Split lanes into those that fault at issue and those that go on, with their located addresses. -/
def State.splitLanes (s : State) (l : List (Nat × Nat × Nat)) (write : Bool) :
    List (Nat × BadAccess) × List (Nat × Nat × Nat) :=
  (l.filterMap fun p => (s.laneFault p.2.1 p.2.2 write).map fun b => (p.1, b),
   l.filterMap fun p => match s.laneFault p.2.1 p.2.2 write with
     | some _ => none
     | none =>
       let w := s.locate s.myCore s.myCtx p.2.1
       some (p.1, w.1, w.2))

/-- The writer's own L1 copy takes a plain store at issue, where WR is recorded on it (R138, R523). Crew-scope operations
that came before it on a word that it covers are seen no more. -/
def State.storeL1 (s : State) (core ctx va n v : Nat) : State :=
  match s.l1Line core (lineId ctx va) with
  | none => s
  | some x =>
    if x.wr then
      let cells := cellsOf va n v
      let x' := { x with data := setLineCells x.data cells, base := setLineCells x.base cells, last := s.tick }
      let hide := fun (o : NearOp) =>
        if o.lid = lineId ctx va ∧ va ≤ o.va ∧ o.va + 4 ≤ va + n then { o with shown := false } else o
      s.mapCore core fun c => { c with l1 := SMap.put c.l1 (lineId ctx va) x', ops := c.ops.map hide }
    else s

/-- Data that a store's request carries for a lane: its value, and a mark where the L1 holds the line but may not take the
store (R138, R523). -/
def State.storeAcc (s : State) (core ctx l va v : Nat) : LaneAcc :=
  ⟨l, va, v, match s.l1Line core (lineId ctx va) with
    | some x => if x.wr then 0 else 1
    | none => 0⟩

/-- Half-lines of 64 bytes that each pass of a store writes (R223). -/
def halfLines (l : List (Nat × Nat × Nat)) : Nat :=
  (dedupNat (l.map fun p => (p.1 / 32) * 2 ^ 96 + p.2.1 * 2 ^ 60 + p.2.2 / 64)).length

/-- A plain store (R344): it updates the writer's L1 copy at issue and travels home. -/
def execStore (i : Instr) (d : Reg) (s : State) : Host.Outcome State Fault Refusal :=
  s.issueIf i (alignCheck i) fun s =>
    let t := s.me
    let n := sizeOf i
    let core := s.myCore
    let sp := s.splitLanes (memAccs i t) true
    let s := sp.2.foldl (fun s p => s.storeL1 core p.2.1 p.2.2 n (t.rdBytes d n p.1)) s
    let reqs := lineReqs core (.store n) (sp.2.map fun p =>
      (p.2.1, s.storeAcc core p.2.1 p.1 p.2.2 (t.rdBytes d n p.1)))
    let s := if reqs = [] then s else s.chargeMem (halfLines sp.2)
    (s.sendOut i .store reqs [] sp.1).advance

/-- ST4 (R345): a masked read-modify-write at home. -/
def execSt4 (d a b : Reg) (s : State) : Host.Outcome State Fault Refusal :=
  s.issue (.st4 d a b) fun s =>
    let t := s.me
    let sp := s.splitLanes (memAccs (.st4 d a b) t) true
    let reqs := lineReqs s.myCore .store4 (sp.2.map fun p =>
      (p.2.1, ⟨p.1, p.2.2, (t.rd d p.1).toNat % 16, (t.nibble a b p.1).2⟩))
    let s := if reqs = [] then s else s.chargeMem (halfLines sp.2)
    (s.sendOut (.st4 d a b) .store reqs [] sp.1).advance

/-- ST8 (R344). -/
def execSt8 (d a b : Reg) (s : State) : Host.Outcome State Fault Refusal := execStore (.st8 d a b) d s
/-- ST16 (R344). -/
def execSt16 (d a b : Reg) (s : State) : Host.Outcome State Fault Refusal := execStore (.st16 d a b) d s
/-- ST32 (R344). -/
def execSt32 (d a b : Reg) (s : State) : Host.Outcome State Fault Refusal := execStore (.st32 d a b) d s
/-- ST64 (R344). -/
def execSt64 (d a b : Reg) (s : State) : Host.Outcome State Fault Refusal := execStore (.st64 d a b) d s
/-- ST128 (R344). -/
def execSt128 (d a b : Reg) (s : State) : Host.Outcome State Fault Refusal := execStore (.st128 d a b) d s

/-! ### Local memory (R123, R137, R347, R348) -/

/-- A local address of a lane: (a + b) mod 2³². -/
def Team.la (t : Team) (a b : Reg) (l : Nat) : Nat := (t.rd a l + t.rd b l).toNat

/-- Number of crews in a placement group (R48). -/
def groupSize (r : LaunchRec) (group : Nat) : Nat :=
  if r.kbar = 0 then 0
  else
    let g := ceilDiv r.kbar r.crewTeams
    min g (r.crews - group * g)

/-- The crew that a local address with X = 1 names, by rank, once it has been placed (R123). -/
def State.partner (s : State) (rank : Nat) : Option (Nat × Crew) :=
  let me := s.myCrew
  s.crews.find? fun p => decide (p.2.grid = me.grid ∧ p.2.group = me.group ∧ p.2.rank = rank)

/-- Does a local access of `n` bytes break the limits of R123 or R348? -/
def State.localBreach (s : State) (la n : Nat) : Bool :=
  let r := s.myGrid.launch
  let rank := bitsOf la 19 9
  decide (la ≥ 2 ^ 29) ||
  (if la.testBit 28 then
     decide (rank ≥ groupSize r s.myCrew.group) ||
     (match s.partner rank with
      | some (_, c) => c.exited
      | none => false)
   else decide (rank ≠ 0)) ||
  decide (la % 2 ^ 19 + n > r.localBytes)

/-- Checks of a local access: alignment, then the local-address limits (R454, R459). -/
def localCheck (lanes : Team → List Nat) (a b : Reg) (n : Nat) (s : State) : Option TrapRec :=
  let t := s.me
  let las := (lanes t).map fun l => (l, t.la a b l)
  match limitTrap 0 (las.filter fun p => decide (p.2 % n ≠ 0)) with
  | some r => some r
  | none => limitTrap 1 (las.filter fun p => s.localBreach p.2 n)

/-- The crew whose local memory an address reaches, or its rank when the access must wait (R348). -/
def State.localTarget (s : State) (la : Nat) : Except Nat Nat :=
  if la.testBit 28 then
    match s.partner (bitsOf la 19 9) with
    | some (k, c) => if c.taken then .error (bitsOf la 19 9) else .ok k
    | none => .error (bitsOf la 19 9)
  else .ok s.me.crew

/-- The first lane that must wait for its partner's region. -/
def State.localWait (s : State) (las : List (Nat × Nat)) : Option Nat :=
  las.findSome? fun p => match s.localTarget p.2 with
    | .error r => some r
    | .ok _ => none

/-- Passes with a partner access: 1 MBUD each (R223). -/
def partnerPasses (las : List (Nat × Nat)) : Nat :=
  (dedupNat ((las.filter fun p => p.2.testBit 28).map fun p => p.1 / 32)).length

/-- Is the sector of a crew's local memory poisoned (R493)? -/
def Crew.poisoned (c : Crew) (o : Nat) : Bool := c.memPoison.contains (o / 32 * 2) || c.memPoison.contains (o / 32 * 2 + 1)

/-- A local load of `n` bytes per lane (R347); a poisoned partner sector faults its lanes (R470, R493). -/
def execLocalLoad (i : Instr) (d a b : Reg) (n : Nat) (s : State) : Host.Outcome State Fault Refusal :=
  s.issueIf i (localCheck (fun t => t.actLanes i) a b n) fun s =>
    let t := s.me
    let las := (t.actLanes i).map fun l => (l, t.la a b l)
    match s.localWait las with
    | some r => s.stall (.partner r) false
    | none =>
      let s := if partnerPasses las = 0 then s else s.chargeMem (partnerPasses las)
      let key := fun (la : Nat) => match s.localTarget la with
        | .ok k => s.crewAt k
        | .error _ => s.myCrew
      let bad := fun (p : Nat × Nat) => p.2.testBit 28 && (key p.2).poisoned (p.2 % 2 ^ 19)
      let got := (las.filter fun p => !bad p).map fun p => (p.1, leNat ((key p.2).mem.bytes (p.2 % 2 ^ 19) n))
      let s := s.mapMe fun t => got.foldl (fun t p => t.wrBytes d n p.1 p.2) t
      (s.sendOut i .load [] [] ((las.filter bad).map fun p => (p.1, ⟨0x0D, 2, 0, p.2⟩))).acquireAfter.advance

/-- A local store (R347). -/
def execLocalStore (i : Instr) (d a b : Reg) (n : Nat) (s : State) : Host.Outcome State Fault Refusal :=
  s.issueIf i (localCheck (fun t => t.guardedLanes i) a b n) fun s =>
    let t := s.me
    let las := (t.guardedLanes i).map fun l => (l, t.la a b l)
    match s.localWait las with
    | some r => s.stall (.partner r) false
    | none =>
      let s := if partnerPasses las = 0 then s else s.chargeMem (partnerPasses las)
      (las.foldl (fun s p => match s.localTarget p.2 with
        | .error _ => s
        | .ok k => s.mapCrew k fun c =>
            { c with mem := c.mem.setBytes (p.2 % 2 ^ 19) (leBytes n (t.rdBytes d n p.1)),
                     memPoison := c.memPoison.filter fun h => decide (¬ (n = 16 ∧ h = p.2 % 2 ^ 19 / 16)) }) s).advance

/-- LDL32 (R347). -/
def execLdl32 (d a b : Reg) (s : State) : Host.Outcome State Fault Refusal := execLocalLoad (.ldl32 d a b) d a b 4 s
/-- LDL128 (R347). -/
def execLdl128 (d a b : Reg) (s : State) : Host.Outcome State Fault Refusal := execLocalLoad (.ldl128 d a b) d a b 16 s
/-- STL32 (R347). -/
def execStl32 (d a b : Reg) (s : State) : Host.Outcome State Fault Refusal := execLocalStore (.stl32 d a b) d a b 4 s
/-- STL128 (R347). -/
def execStl128 (d a b : Reg) (s : State) : Host.Outcome State Fault Refusal := execLocalStore (.stl128 d a b) d a b 16 s

/-! ### PREFETCH and DISCARD (R349, R350) -/

/-- Requests of a PREFETCH: one for each line of each pass, of the lanes with a canonical address or of the others, whose requests are
dropped (R349, R462, R474). -/
def State.prefetchReqs (s : State) (lvl : Bool) (a b : Reg) (good : Bool := true) : List HomeReq :=
  let t := s.me
  lineReqs s.myCore (.prefetch !lvl) (((t.actLanes (.prefetch lvl a b)).filter fun l => canonical (t.ea a b l) == good).map fun l =>
    let w := s.locate s.myCore s.myCtx (t.ea a b l)
    (w.1, (⟨l, w.2, 0, 0⟩ : LaneAcc)))

/-- PREFETCH (R349, R462): its requests leave on the core's path, 2 MBUD each (R223), and take entries of the pool (R24). One that is
dropped is charged too (R462). -/
def execPrefetch (lvl : Bool) (a b : Reg) (s : State) : Host.Outcome State Fault Refusal :=
  s.issue (.prefetch lvl a b) fun s =>
    let reqs := s.prefetchReqs lvl a b
    let units := 2 * (reqs.length + (s.prefetchReqs lvl a b false).length)
    let s := if units = 0 then s else s.chargeMem units
    let out := reqs.map fun q => lineId q.ctx q.va
    let s := if reqs = [] then s else s.mapCore s.myCore fun c => { c with prefetches := c.prefetches ++ out }
    (reqs.foldl State.request s).advance

/-- DISCARD's operand limits (R350, R459). -/
def discardCheck (d a b : Reg) (s : State) : Option TrapRec :=
  limitTrap 2 ((memAccs (.discard d a b) s.me).filterMap fun p =>
    let n := p.2.2
    if ¬ (n = 32 ∨ n = 64 ∨ n = 96 ∨ n = 128) ∨ p.2.1 % 32 ≠ 0 ∨ p.2.1 % 128 + n > 128 then some (p.1, p.2.1) else none)

/-- DISCARD (R350): it is ordered and acknowledged like a store (R181); a non-canonical lane sends nothing (R487). -/
def execDiscard (d a b : Reg) (s : State) : Host.Outcome State Fault Refusal :=
  s.issueIf (.discard d a b) (discardCheck d a b) fun s =>
    let core := s.myCore
    let accs := ((memAccs (.discard d a b) s.me).filter fun p => canonical p.2.1).map fun p =>
      let w := s.locate core s.myCtx p.2.1
      (w.1, (⟨p.1, w.2, p.2.2, 0⟩ : LaneAcc))
    let reqs := lineReqs core (.discard 0) accs
    let s := if reqs = [] then s else s.chargeMem reqs.length
    (s.sendOut (.discard d a b) .store reqs [] []).advance

/-! ### Row operations (R291, R353, R354) -/

/-- Row groups that hold an active lane: first lane, whether every lane is active. -/
def Team.touchedGroups (t : Team) (len : Nat) : List (Nat × Bool) :=
  (rowGroups t len).filterMap fun f =>
    let ls := groupLanes len f
    if ls.any fun l => t.live.getLsbD l && decide (l < t.lanes) then
      some (f, ls.all fun l => t.live.getLsbD l && decide (l < t.lanes))
    else none

/-- The operand limits of row operations, in the order of their SUB codes (R448, R459). -/
def rowCheck (a b : Reg) (s : State) : Option TrapRec :=
  let t := s.me
  let len := (t.rd b 0).toNat
  if t.actives = [] then none
  else if ¬ (len = 64 ∨ len = 128 ∨ len = 256 ∨ len = 512) then limitTrap 0x10 (t.actives.map fun l => (l, len))
  else
    let gs := t.touchedGroups len
    let rows := fun (f : Nat) =>
      ((groupLanes len f).filter fun l => t.live.getLsbD l && decide (l < t.lanes)).map fun l => (l, t.addr a f)
    match limitTrap 0x11 ((gs.filter fun g => !g.2).flatMap fun g => rows g.1) with
    | some r => some r
    | none => limitTrap 0x12 ((gs.filter fun g => decide (t.addr a g.1 % len ≠ 0)).flatMap fun g => rows g.1)

/-- Groups of a row operation that fault at issue, by lane, and the others with their located rows. -/
def State.splitRows (s : State) (gs : List (Nat × Nat × Nat)) (write : Bool) :
    List (Nat × BadAccess) × List (Nat × Nat × Nat) :=
  let sp := s.splitLanes gs write
  let len := (gs.head?.map fun g => g.2.2).getD 64
  (sp.1.flatMap fun p => (groupLanes len p.1).map fun l => (l, p.2), sp.2)

/-- The data that the lanes of a group carry. -/
def rowAccs (t : Team) (d : Reg) (len f row : Nat) (data : Bool) : List LaneAcc :=
  (List.range (len / 16)).map fun j => ⟨f + j, row + 16 * j, if data then t.rdBytes d 16 (f + j) else 0, 0⟩

/-- Is an update of a line on its way to a core, received and not yet applied (R168, R169)? -/
def State.updateWaits (s : State) (core lid : Nat) : Bool :=
  s.agenda.any fun p => match p.ev with
    | .sharerUpdate c _ ctx cells => decide (c = core) && cells.any fun x => decide (lineId ctx x.1 = lid)
    | _ => false

/-- ROWLD (R168, R169, R354): a group whose lines all stand in L1 is served there as one image. -/
def execRowld (d a b : Reg) (s : State) : Host.Outcome State Fault Refusal :=
  s.issueIf (.rowld d a b) (rowCheck a b) fun s =>
    let t := s.me
    let core := s.myCore
    let len := (t.rd b 0).toNat
    let sp := s.splitRows (memAccs (.rowld d a b) t) false
    let lids := fun (p : Nat × Nat × Nat) => (linesOfRange p.2.2 len).map (lineId p.2.1)
    let inL1 := fun (p : Nat × Nat × Nat) => (lids p).all fun lid => match s.l1Line core lid with
      | some x => x.rd
      | none => false
    let hits := sp.2.filter inL1
    let got := hits.flatMap fun p => (rowAccs t d len p.1 p.2.2 false).map fun x =>
      (x.lane, match s.l1Line core (lineId p.2.1 x.va) with
        | some y => lineNat y.data (x.va % 128) 16
        | none => 0)
    let stale := (hits.filter fun p => (lids p).any (s.updateWaits core)).length
    let reqs := (sp.2.filter fun p => !inL1 p).map fun p =>
      (⟨.nobody, core, p.2.1, p.2.2, .rowLd len, rowAccs t d len p.1 p.2.2 false⟩ : HomeReq)
    let s := if reqs = [] then s else s.chargeMem (reqs.length * (1 + len / 64))
    let s := s.touchL1 core (hits.flatMap lids) true
    let s := if stale = 0 then s else s.countPart (s.partOfCluster (clusterOfCore core)) 0 stale
    (s.sendOut (.rowld d a b) .rowLoad reqs got sp.1).acquireAt s.me.scope |>.advance

/-- A row write (R354): one request for each acting group whose guard holds, in ascending order. Every acting group is charged
(R288). -/
def execRowWrite (i : Instr) (d a b : Reg) (op : Nat → HomeOp) (s : State) : Host.Outcome State Fault Refusal :=
  s.issueIf i (rowCheck a b) fun s =>
    let t := s.me
    let core := s.myCore
    let len := (t.rd b 0).toNat
    let sp := s.splitRows (memAccs i t) true
    let reqs := sp.2.map fun p => (⟨.nobody, core, p.2.1, p.2.2, op len, rowAccs t d len p.1 p.2.2 true⟩ : HomeReq)
    let acting := (t.touchedGroups len).filter fun g => g.2
    let s := if acting = [] then s else s.chargeMem (acting.length * (1 + len / 64))
    (s.sendOut i .rowStore reqs [] sp.1).advance

/-- ROWST (R354). -/
def execRowst (d a b : Reg) (s : State) : Host.Outcome State Fault Refusal :=
  execRowWrite (.rowst d a b) d a b .rowSt s

/-- ROWADD (R121, R354): F32, or BF16x2 under ETYPE 3. -/
def execRowadd (d a b : Reg) (s : State) : Host.Outcome State Fault Refusal :=
  execRowWrite (.rowadd d a b) d a b (fun len => .rowAdd len (decide (s.me.etype = 3))) s

/-! ### Atomics (R119, R120, R170 to R173, R355, R356) -/

/-- Operations that L1 may perform at crew scope (R170). -/
def l1Atom : AtomOp → Bool
  | .add | .min | .max | .minu | .maxu | .and | .or | .xor => true
  | _ => false

/-- An aggregated group performed on the L1 copy: old values to the lanes, operations kept outstanding (R171). -/
def State.atomL1 (s : State) (core out : Nat) (op : AtomOp) (q : HomeReq) : State × List (Nat × Nat) :=
  let lid := lineId q.ctx q.va
  match s.l1Line core lid with
  | none => (s, [])
  | some x =>
    let m0 := BitVec.ofNat 32 (lineNat x.data (q.va % 128) 4)
    let r := atomLanes op m0 m0 none q.accs
    let x' := { x with data := setLineCells x.data (cellsOf q.va 4 r.2.toNat), last := s.tick,
                       base := if (s.lineOps core lid).any NearOp.shown then x.base else x.data }
    let new := q.accs.map fun a => ({ lid := lid, va := q.va, team := s.cur, out := out, op := op, data := a.data } : NearOp)
    (s.mapCore core fun c => { c with l1 := SMap.put c.l1 lid x', ops := c.ops ++ new }, r.1)

/-- An atomic (R356): crew-scope operations whose line stands in L1 are performed there and forwarded; every other is
performed at home. Each aggregated request charges 1 MBUD (R223). -/
def execAtom (i : Instr) (op : AtomOp) (d b : Reg) (s : State) : Host.Outcome State Fault Refusal :=
  s.issueIf i (alignCheck i) fun s =>
    let t := s.me
    let core := s.myCore
    let sp := s.splitLanes (memAccs i t) true
    let cas := decide (op = .cas)
    let reqs := atomReqs core (.atom op false) cas (sp.2.map fun p =>
      (p.2.1, ⟨p.1, p.2.2, (t.rd b p.1).toNat, if cas then (t.rd d p.1).toNat else 0⟩))
    let atL1 := fun (q : HomeReq) => decide (t.scope = 1) && l1Atom op &&
      (match s.l1Line core (lineId q.ctx q.va) with
       | some x => x.rd && x.wr
       | none => false)
    let s := if reqs = [] then s else s.chargeMem reqs.length
    let s := s.seeL1 core ((reqs.filter atL1).map fun q => lineId q.ctx q.va) false
    let near := (reqs.filter atL1).foldl (fun (p : State × List (Nat × Nat)) q =>
      let r := p.1.atomL1 core t.nextOut op q
      (r.1, p.2 ++ r.2)) (s, [])
    let s := near.1.mapMe fun t => t.putResults i near.2
    let reqs' := reqs.map fun q => if atL1 q then { q with op := .atom op true } else q
    let regs := if reqs.all atL1 then [] else regsWritten i
    (s.sendOut i .atomic reqs' [] sp.1 regs).acquireAfter.advance

/-- AADD (R355). -/
def execAadd (d a b : Reg) (s : State) : Host.Outcome State Fault Refusal := execAtom (.aadd d a b) .add d b s
/-- AMIN (R355). -/
def execAmin (d a b : Reg) (s : State) : Host.Outcome State Fault Refusal := execAtom (.amin d a b) .min d b s
/-- AMAX (R355). -/
def execAmax (d a b : Reg) (s : State) : Host.Outcome State Fault Refusal := execAtom (.amax d a b) .max d b s
/-- AMINU (R355). -/
def execAminu (d a b : Reg) (s : State) : Host.Outcome State Fault Refusal := execAtom (.aminu d a b) .minu d b s
/-- AMAXU (R355). -/
def execAmaxu (d a b : Reg) (s : State) : Host.Outcome State Fault Refusal := execAtom (.amaxu d a b) .maxu d b s
/-- AAND (R355). -/
def execAand (d a b : Reg) (s : State) : Host.Outcome State Fault Refusal := execAtom (.aand d a b) .and d b s
/-- AOR (R355). -/
def execAor (d a b : Reg) (s : State) : Host.Outcome State Fault Refusal := execAtom (.aor d a b) .or d b s
/-- AXOR (R355). -/
def execAxor (d a b : Reg) (s : State) : Host.Outcome State Fault Refusal := execAtom (.axor d a b) .xor d b s
/-- AXCH (R355). -/
def execAxch (d a b : Reg) (s : State) : Host.Outcome State Fault Refusal := execAtom (.axch d a b) .xch d b s
/-- ACAS (R355): D supplies the compare value, and lanes are performed one by one. -/
def execAcas (d a b : Reg) (s : State) : Host.Outcome State Fault Refusal := execAtom (.acas d a b) .cas d b s
/-- AFADD (R120, R283, R355): BF16x2 under ETYPE 3, else F32. -/
def execAfadd (d a b : Reg) (s : State) : Host.Outcome State Fault Refusal :=
  execAtom (.afadd d a b) (if s.me.etype = 3 then .faddBf16 else .faddF32) d b s

end Sys2Proof.Machine
end

