-- ==== Sys2Proof/Machine/Serai.lean ====
section
/-!
DEFINITION. Sink groups (05_memory R143 to R148, 11_encoding R289, R290, 13_isa_memory_sync R351, R352,
23_exceptions_by_instruction R460, R461, 24_memory_failures R472, R473): the shape of a group, how one lane runs its
words, SINK itself, and the run of a packet at a Serai unit.
-/
namespace Sys2Proof.Machine

/-! ### Fetching words -/

/-- Virtual address of a word of code (R275). -/
def codeVa (codebase : Nat) (pc : Word) : Nat := (codebase + pc.toNat) % 2 ^ 64

/-- A word of code as a core's instruction cache holds it, or the fault that its fetch reports (R473, R469, R493). `none`
when the line is not there. -/
def State.codeWord (s : State) (core ctx va : Nat) : Option (Except BadAccess Word) :=
  if !canonical va then some (.error ⟨0x0B, 0, 5, va⟩)
  else
    match SMap.look (s.coreAt core).icache (lineId ctx va) with
    | none => none
    | some x =>
      if !x.ex then some (.error ⟨0x0B, 2, 4, va⟩)
      else if sectorBad x.poison (va % 128) then some (.error ⟨0x0D, 2, 0, va⟩)
      else some (.ok (BitVec.ofNat 32 (lineNat x.data (va % 128) 4)))

/-- The words of the group after the SINK at `pc`, as far as they have been fetched (R289). -/
def State.groupWords (s : State) (core ctx codebase : Nat) (pc : Word) (n : Nat) : List (Option (Except BadAccess Word)) :=
  (List.range n).map fun i => s.codeWord core ctx (codeVa codebase (pc + BitVec.ofNat 32 (4 + 4 * i)))

/-- The words, when every one is there without a fault. -/
def goodWords : List (Option (Except BadAccess Word)) → Option (List Word)
  | [] => some []
  | some (.ok w) :: r => (goodWords r).map fun ws => w :: ws
  | _ => none

/-- The first fault among the words, once every word has been fetched. -/
def badWord (l : List (Option (Except BadAccess Word))) : Option BadAccess :=
  if l.any Option.isNone then none
  else l.findSome? fun x => match x with
    | some (.error b) => some b
    | _ => none

/-! ### The shape of a group (R290, R450) -/

/-- May the instruction be the anchor? -/
def isAnchor : Instr → Bool
  | .ld8 _ _ _ | .ld8s _ _ _ | .ld16 _ _ _ | .ld16s _ _ _ | .ld32 _ _ _ => true
  | _ => false

/-- A store of a group. -/
def isGroupStore : Instr → Bool
  | .st8 _ _ _ | .st16 _ _ _ | .st32 _ _ _ => true
  | _ => false

/-- May the instruction be another word of a group? -/
def isMember : Instr → Bool
  | .add _ _ _ | .addi _ _ | .sub _ _ _ | .min _ _ _ | .max _ _ _ | .minu _ _ _ | .maxu _ _ _ | .and _ _ _ | .or _ _ _
  | .xor _ _ _ | .andn _ _ _ | .shl _ _ _ | .shr _ _ _ | .sar _ _ _ | .fadd _ _ _ | .fmul _ _ _ | .ffma _ _ _
  | .fmin _ _ _ | .fmax _ _ _ | .cmp _ _ _ _ _ | .cmpu _ _ _ _ _ | .fcmp _ _ _ _ _ | .sel _ _ _ | .mov _ _ => true
  | i => isAnchor i || isGroupStore i

/-- s63 and p7 are never counted. -/
def counted (c : Nat) : Bool := decide (c ≠ 255 ∧ c ≠ 263)

/-- Registers and predicates a group word reads, by code. -/
def memberReads (i : Instr) (t : Team) : List Nat :=
  (((roles i).filter Role.reads).flatMap Role.codes ++
  (match i with
   | .cmp _ comb p _ _ | .cmpu _ comb p _ _ | .fcmp _ comb p _ _ =>
     if comb.val = 0 ∨ p.val = 7 then [] else [256 + p.val]
   | .sel _ _ _ | .st8 _ _ _ | .st16 _ _ _ | .st32 _ _ _ => [256 + t.gp]
   | _ => [])).filter counted

/-- Registers and predicates a group word writes, by code. -/
def memberWrites (i : Instr) : List Nat := (regsWritten i).filter counted

/-- Live-in registers of a group (R290). -/
def liveIns (t : Team) : List Nat → List Instr → List Nat
  | _, [] => []
  | done, i :: r => (memberReads i t).filter (fun c => !done.contains c) ++ liveIns t (done ++ memberWrites i) r

/-- The SUB codes that word `k` of a group breaks, each with the word (R450). -/
def wordBreaches (t : Team) (k : Nat) (w : Word) : List (Nat × Nat) :=
  match decode w with
  | .error (.unassigned) => [(0, w.toNat)]
  | .error (.mustBeZero) => [(1, w.toNat)]
  | .error (.badValue) => [(2, w.toNat)]
  | .ok i =>
    if (if k = 0 then isAnchor i else isMember i) then
      ((breaches i t).map fun c => (c, w.toNat)) ++
        (if (roles i).any (fun r => r.writes && !isVec r.reg) then [(0x10 + k, w.toNat)] else [])
    else [(0x10 + k, w.toNat)]

/-- The instructions of a group. -/
def groupInstrs (ws : List Word) : List Instr :=
  ws.filterMap fun w => match decode w with
    | .ok i => some i
    | .error _ => none

/-- The registers a group takes in and writes, for the interlocks of R148. -/
def groupRegs (t : Team) (ws : List Word) : List Nat × List Nat :=
  (dedupNat (liveIns t [] (groupInstrs ws)), dedupNat ((groupInstrs ws).flatMap memberWrites))

/-- The breach of a group's shape that is reported: the lowest SUB code, and its word (R290, R447, R450). -/
def groupBreach (t : Team) (sink : Nat) (ws : List Word) : Option (Nat × Nat) :=
  let g := groupRegs t ws
  let all := (ws.mapIdx (fun k w => wordBreaches t k w)).flatten ++
    (if g.1.length > 4 then [(0x20, sink)] else []) ++ (if g.2.length > 4 then [(0x21, sink)] else [])
  (leastSub (all.map Prod.fst)).bind fun c => all.find? fun p => decide (p.1 = c)

/-! ### One lane of a group (R146) -/

/-- A team of one lane that holds the registers of a sunk lane. -/
def laneTeam (mode : BitVec 16) (regs : List (Nat × Nat)) : Team :=
  regs.foldl (fun t p =>
    if p.1 < 256 then t.wr (Reg.ofCode p.1) 0 (BitVec.ofNat 32 p.2)
    else t.writePred (p.1 - 256) 1 (BitVec.ofNat 1024 (p.2 % 2)))
    { lanes := 1, mask := 1, window := 192, mode := mode }

/-- The value of a register code in lane `l` of a team; a predicate counts 0 or 1. -/
def codeValue (t : Team) (c l : Nat) : Nat :=
  if c < 256 then (t.rd (Reg.ofCode c) l).toNat else if t.pred (c - 256) l then 1 else 0

/-- The registers of a lane after a member has run. -/
def keepRegs (t : Team) (regs : List (Nat × Nat)) (written : List Nat) : List (Nat × Nat) :=
  (dedupNat (regs.map Prod.fst ++ written)).map fun c => (c, codeValue t c 0)

/-- A machine that holds one team only, on which a member has the effect of its own chapter (R146). -/
def soloState (t : Team) : State := { teams := [(0, t)] }

/-- The team after a member that accesses no memory. -/
def memberRun (i : Instr) (t : Team) : Team :=
  let out := match i with
    | .add d a b => execAdd d a b (soloState t)
    | .addi d imm => execAddi d imm (soloState t)
    | .sub d a b => execSub d a b (soloState t)
    | .min d a b => execMin d a b (soloState t)
    | .max d a b => execMax d a b (soloState t)
    | .minu d a b => execMinu d a b (soloState t)
    | .maxu d a b => execMaxu d a b (soloState t)
    | .and d a b => execAnd d a b (soloState t)
    | .or d a b => execOr d a b (soloState t)
    | .xor d a b => execXor d a b (soloState t)
    | .andn d a b => execAndn d a b (soloState t)
    | .shl d a b => execShl d a b (soloState t)
    | .shr d a b => execShr d a b (soloState t)
    | .sar d a b => execSar d a b (soloState t)
    | .fadd d a b => execFadd d a b (soloState t)
    | .fmul d a b => execFmul d a b (soloState t)
    | .ffma d a b => execFfma d a b (soloState t)
    | .fmin d a b => execFmin d a b (soloState t)
    | .fmax d a b => execFmax d a b (soloState t)
    | .cmp cond comb p a b => execCmp cond comb p a b (soloState t)
    | .cmpu cond comb p a b => execCmpu cond comb p a b (soloState t)
    | .fcmp cond comb p a b => execFcmp cond comb p a b (soloState t)
    | .sel d a b => execSel d a b (soloState t)
    | .mov d a => execMov d a (soloState t)
    | _ => .next (soloState t)
  match out with
  | .next s => SMap.get default s.teams 0
  | _ => t

/-- The access at which a lane stands: address, size, and data of a store. -/
structure SinkAcc where
  va   : Nat
  n    : Nat
  data : Option Nat
  deriving DecidableEq, Repr

/-- The instruction a lane stands at. -/
def SinkInstr (words : List Word) (e : SinkEnv) : Option Instr :=
  match words[e.next]? with
  | some w => (match decode w with
    | .ok i => some i
    | .error _ => none)
  | none => none

/-- Run one word of a lane that accesses no memory, or give its access; a member whose address leaves the anchor's line
or is not aligned stops the lane (R460). -/
def laneWord (words : List Word) (mode : BitVec 16) (e : SinkEnv) : SinkEnv × Option SinkAcc :=
  match SinkInstr words e with
  | none => ({ e with next := words.length }, none)
  | some i =>
    let t := laneTeam mode e.regs
    let go := fun (a b : Reg) (data : Option Nat) =>
      let va := t.ea a b 0
      if va % sizeOf i ≠ 0 then ({ e with stop := some (0, va) }, none)
      else if va / 128 ≠ e.va / 128 then ({ e with stop := some (6, va) }, none)
      else (e, some ⟨va, sizeOf i, data⟩)
    match i with
    | .ld8 _ a b | .ld8s _ a b | .ld16 _ a b | .ld16s _ a b | .ld32 _ a b => go a b none
    | .st8 d a b | .st16 d a b | .st32 d a b =>
      if t.guard 0 then go a b (some (t.rdBytes d (sizeOf i) 0)) else ({ e with next := e.next + 1 }, none)
    | i => ({ e with next := e.next + 1, regs := keepRegs (memberRun i t) e.regs (memberWrites i) }, none)

/-- The lane after the load it stands at has returned `v`, or its store has been made. -/
def laneDone (words : List Word) (mode : BitVec 16) (e : SinkEnv) (v : Nat) : SinkEnv :=
  match SinkInstr words e with
  | some i =>
    if isAnchor i then
      { e with next := e.next + 1, regs := keepRegs ((laneTeam mode e.regs).putResult i 0 v) e.regs (memberWrites i) }
    else { e with next := e.next + 1 }
  | none => e

/-- Has the lane finished or stopped? -/
def laneOver (words : List Word) (e : SinkEnv) : Bool := decide (words.length ≤ e.next) || e.stop.isSome

/-- Run a lane up to its next access, or to its end. -/
def laneToAccess (words : List Word) (mode : BitVec 16) : Nat → SinkEnv → SinkEnv × Option SinkAcc
  | 0, e => (e, none)
  | n + 1, e =>
    if laneOver words e then (e, none)
    else
      match laneWord words mode e with
      | (e', some a) => (e', some a)
      | (e', none) => laneToAccess words mode n e'

/-- A lane run whole on the bytes of its line: the lane, the line, offsets read, offsets written. -/
def laneWhole (words : List Word) (mode : BitVec 16) :
    Nat → SinkEnv → Line → List Nat → List Nat → SinkEnv × Line × List Nat × List Nat
  | 0, e, x, rs, ws => (e, x, rs, ws)
  | n + 1, e, x, rs, ws =>
    match laneToAccess words mode 16 e with
    | (e', none) => (e', x, rs, ws)
    | (e', some a) =>
      match a.data with
      | none => laneWhole words mode n (laneDone words mode e' (lineNat x (a.va % 128) a.n)) x (a.va % 128 :: rs) ws
      | some v =>
        laneWhole words mode n (laneDone words mode e' 0) (setLineCells x (cellsOf a.va a.n v)) rs
          ((List.range a.n).map (fun j => a.va % 128 + j) ++ ws)

/-- A packet run whole, lane by lane in ascending order (R146). -/
def packetWhole (words : List Word) (mode : BitVec 16) (lanes : List SinkEnv) (x : Line) :
    List SinkEnv × Line × List Nat × List Nat :=
  lanes.foldl (fun acc e =>
    let r := laneWhole words mode 17 e acc.2.1 acc.2.2.1 acc.2.2.2
    (acc.1 ++ [r.1], r.2)) ([], x, [], [])

/-! ### Packets and results (R147, R223) -/

/-- Is a code a vector register, a scalar register? -/
def isVecCode (c : Nat) : Bool := decide (c < 192)
def isScalarCode (c : Nat) : Bool := decide (192 ≤ c ∧ c < 256)

/-- MBUD units of a packet: its bytes / 64 (R147). -/
def packetUnits (ws : List Word) (live : List Nat) (n : Nat) : Nat :=
  ceilDiv (16 + 4 * ws.length + 4 * (live.filter isScalarCode).length + 4 * (live.filter isVecCode).length * n) 64

/-- MBUD units of a result. -/
def resultUnits (ws : List Word) (n : Nat) : Nat :=
  ceilDiv (16 + 4 * ((dedupNat ((groupInstrs ws).flatMap memberWrites)).filter isVecCode).length * n) 64

/-- Write what a lane brings back, with its site (R83, R148); a stopped lane keeps its registers (R460). -/
def Team.laneResult (t : Team) (written : List Nat) (site : Nat) (e : SinkEnv) : Team :=
  if e.stop.isSome then t
  else
    let t := e.regs.foldl (fun t p =>
      if !written.contains p.1 then t
      else if p.1 < 256 then t.wr (Reg.ofCode p.1) e.lane (BitVec.ofNat 32 p.2)
      else t.writePred (p.1 - 256) (BitVec.ofNat 1024 (2 ^ e.lane)) (BitVec.ofNat 1024 (p.2 % 2 * 2 ^ e.lane))) t
    { t with sinkSite := SMap.set 0 t.sinkSite e.lane (BitVec.ofNat 2 site) }

/-- Stopped lanes of a list. -/
def stopsOf (l : List SinkEnv) : List (Nat × Nat × Nat) :=
  l.filterMap fun e => e.stop.map fun p => (e.lane, p.1, p.2)

/-- Results of lanes reach a team, and are counted by site (R274). -/
def State.laneResults (s : State) (k : Nat) (ws : List Word) (site : Nat) (l : List SinkEnv) : State :=
  match SMap.look s.teams k with
  | none => s
  | some t =>
    let written := (groupInstrs ws).flatMap memberWrites
    let n := (l.filter fun e => e.stop.isNone).length
    let s := s.setTeam k (l.foldl (fun t e => t.laneResult written site e) t)
    if n = 0 then s else s.countPart (s.partOfCluster (clusterOfCore (s.crewOf t).core)) (1 + site) n

/-! ### Lanes that run at the core (R143, R175) -/

/-- What the core-run lanes have done so far: state, lanes, faulted lanes, stores on their way (context, access), and
the 64-byte half-lines they wrote (lane, context, address). -/
structure CoreRun where
  s     : State
  lanes : List (SinkEnv × Nat × Nat)
  bad   : List (Nat × BadAccess)
  sent  : List HomeReq
  half  : Nat

/-- A line with the group's own stores, where the L1 copy may not have taken them (R146, R523). -/
def ownStores (sent : List HomeReq) (lid : Nat) (x : Line) : Line :=
  sent.foldl (fun x q => match q.op with
    | .store n => if lineId q.ctx q.va = lid then setLineCells x (q.accs.flatMap fun a => cellsOf a.va n a.data) else x
    | _ => x) x

/-- One word in one lane at the core: loads are served from L1, stores update L1 and leave for home. -/
def CoreRun.lane (words : List Word) (mode : BitVec 16) (core : Nat) (r : CoreRun × List (Nat × LaneAcc) × List (Nat × Nat × Nat))
    (e : SinkEnv × Nat × Nat) : CoreRun × List (Nat × LaneAcc) × List (Nat × Nat × Nat) :=
  let keep := fun (x : SinkEnv) => ({ r.1 with lanes := r.1.lanes ++ [(x, e.2)] }, r.2)
  if laneOver words e.1 || r.1.bad.any (fun p => decide (p.1 = e.1.lane)) then keep e.1
  else
    match laneWord words mode e.1 with
    | (x, none) => keep x
    | (x, some a) =>
      let va := e.2.2 / 128 * 128 + a.va % 128
      match r.1.s.laneFault a.va a.n a.data.isSome with
      | some b => ({ r.1 with lanes := r.1.lanes ++ [(x, e.2)], bad := r.1.bad ++ [(x.lane, b)] }, r.2)
      | none =>
        match a.data with
        | none =>
          let v := match r.1.s.l1Line core (lineId e.2.1 va) with
            | some y => lineNat (ownStores r.1.sent (lineId e.2.1 va) y.data) (va % 128) a.n
            | none => 0
          keep (laneDone words mode x v)
        | some v =>
          ({ r.1 with s := r.1.s.storeL1 core e.2.1 va a.n v, lanes := r.1.lanes ++ [(laneDone words mode x 0, e.2)] },
           r.2.1 ++ [(e.2.1, r.1.s.storeAcc core e.2.1 x.lane va v)], r.2.2 ++ [(x.lane, e.2.1, va)])

/-- One word of the group in every core-run lane. -/
def CoreRun.word (words : List Word) (mode : BitVec 16) (core : Nat) (r : CoreRun) (k : Nat) : CoreRun :=
  let n := match words[k]?.map decode with
    | some (.ok i) => sizeOf i
    | _ => 4
  let out := r.lanes.foldl (CoreRun.lane words mode core) ({ r with lanes := [] }, [], [])
  { out.1 with sent := out.1.sent ++ lineReqs core (.store n) out.2.1, half := out.1.half + halfLines out.2.2 }

/-! ### SINK (R143, R147, R148, R351, R352) -/

/-- The fetch fault of a word of the group, reported at the SINK (R473). -/
def fetchTrap (t : Team) (b : BadAccess) : TrapRec :=
  { cause := b.cause, sub := 16 * b.site + b.kind, prec := false, part := true, info0 := b.va % 2 ^ 32,
    info1 := b.va / 2 ^ 32, lanes := t.live }

/-- The words after the running team's SINK. -/
def State.myGroup (s : State) (n : Nat) : List (Option (Except BadAccess Word)) :=
  s.groupWords s.myCore s.myCtx s.myGrid.launch.codebase s.me.pc n

/-- Anchor accesses of a group. -/
def anchorAccs (ws : List Word) (t : Team) : List (Nat × Nat × Nat) :=
  match ws.head?.map decode with
  | some (.ok i) => t.actives.map fun l => match i with
    | .ld8 _ a b | .ld8s _ a b | .ld16 _ a b | .ld16s _ a b | .ld32 _ a b => (l, t.ea a b l, sizeOf i)
    | _ => (l, 0, 1)
  | _ => []

/-- Checks at SINK: fetch faults, the shape of the group, and the anchor's alignment (R290, R460, R473). -/
def sinkCheck (i : Instr) (n : Nat) (s : State) : Option TrapRec :=
  let g := s.myGroup n
  match badWord g with
  | some b => some (fetchTrap s.me b)
  | none =>
    match goodWords g with
    | none => none
    | some ws =>
      match groupBreach s.me (wordOf i) ws with
      | some (sub, w) => some (preciseTrap 1 sub w 0)
      | none =>
        limitTrap 0 ((anchorAccs ws s.me).filterMap fun p => if p.2.1 % p.2.2 ≠ 0 then some (p.1, p.2.1) else none)

/-- A lane as it leaves for its run: the group's live-in registers, read at SINK (R351). -/
def sinkEnv (t : Team) (live : List Nat) (l va : Nat) : SinkEnv :=
  ⟨l, va, 0, live.map fun c => (c, codeValue t c l), none⟩

/-- Class a lane by its anchor: at the core, sunk, or faulted at issue (R143, R474, R475). -/
def State.sinkClass (s : State) (sunk : Bool) (p : Nat × Nat × Nat) : Except BadAccess (Bool × Nat × Nat) :=
  let w := s.locate s.myCore s.myCtx p.2.1
  let near := !sunk && (match s.l1Line s.myCore (lineId w.1 w.2) with
    | some x => x.rd
    | none => false)
  if !canonical p.2.1 then .error ⟨0x0B, 0, 5, p.2.1⟩
  else if !near && s.rangeHit (dieOfCore s.myCore) s.myCtx (p.2.1 / 128 * 128) 128 true then .error ⟨0x0A, 0, 2, p.2.1⟩
  else .ok (near, w)

/-- Packets of sunk lanes: one for each line of each pass (R143). -/
def sinkPackets (core : Nat) (ws : List Word) (mode : BitVec 16) (atomic : Bool) (l : List (Nat × Nat × SinkEnv)) :
    List HomeReq :=
  (groupAccs (l.map fun p => ((p.2.2.lane / 32, lineId p.1 p.2.1), p.1, (⟨p.2.2.lane, p.2.1, p.2.2.va, 0⟩ : LaneAcc)))).map
    fun g =>
      let lanes := g.2.2.filterMap fun a => (l.find? fun p => decide (p.2.2.lane = a.lane)).map fun p => p.2.2
      ⟨.nobody, core, g.2.1, (g.2.2.head?.map LaneAcc.va).getD 0, .sink ws mode atomic ⟨0, lanes, [], 0⟩, g.2.2⟩

/-- A SINK with an anchor that is not canonical: a PART trap at the SINK, whose record is that of the lowest such lane; no lane of the
group is performed, so the restart set holds every active lane (R438, R460, R474; DEDUCED, log entry 116). -/
def State.sinkRefused (s : State) (i : Instr) (next : Word) (bad : List (Nat × BadAccess)) : State :=
  let t := s.me
  let o := bad.foldl (fun o p => o.addBad [p.1] p.2) { newOut t i .store [] [] with pend := 0 }
  let o := { o with lanes := t.live }
  let s := s.mapMe fun t => { t with outs := t.outs ++ [o], nextOut := t.nextOut + 1 }
  (s.finishOut s.cur o).acquireAfter.advanceTo next

/-- The issue of a SINK whose group is well formed. -/
def State.sinkBody (s : State) (i : Instr) (ws : List Word) (sunk atomic : Bool) : State :=
  let t := s.me
  let core := s.myCore
  let g := groupRegs t ws
  let s := s.charge ((groupInstrs ws).foldl (fun n i => n + issueCharge i t) 0)
  let accs := anchorAccs ws t
  let next := t.pc + BitVec.ofNat 32 (4 + 4 * ws.length)
  let wild := (accs.filter fun p => !canonical p.2.1).map fun p => (p.1, (⟨0x0B, 0, 5, p.2.1⟩ : BadAccess))
  if wild ≠ [] then s.sinkRefused i next wild else
  let cls := accs.map fun p => (p, s.sinkClass (sunk || atomic) p)
  let bad := cls.filterMap fun c => match c.2 with
    | .error b => some (c.1.1, b)
    | .ok _ => none
  let near := cls.filterMap fun c => match c.2 with
    | .ok (true, w) => some (sinkEnv t g.1 c.1.1 c.1.2.1, w)
    | _ => none
  let far := cls.filterMap fun c => match c.2 with
    | .ok (false, w) => some (w.1, w.2, sinkEnv t g.1 c.1.1 c.1.2.1)
    | _ => none
  let s := s.touchL1 core (near.map fun e => lineId e.2.1 e.2.2)
  let r := (List.range ws.length).foldl (fun r k => r.word ws t.mode core k) (⟨s, near, [], [], 0⟩ : CoreRun)
  let done := (r.lanes.map Prod.fst).filter fun e => !r.bad.any fun p => decide (p.1 = e.lane)
  let s := r.s.laneResults s.cur ws 0 done
  let pkts := sinkPackets core ws t.mode atomic far
  let units := pkts.foldl (fun n q => n + packetUnits ws g.1 q.accs.length) 0 + r.half
  let s := if units = 0 then s else s.chargeMem units
  let s := if pkts = [] then s else s.countUnit 0 core 8 5 pkts.length
  let reqs := pkts ++ r.sent
  if reqs = [] ∧ bad = [] ∧ r.bad = [] ∧ stopsOf done = [] then s.acquireAfter.advanceTo next
  else
    let o := { newOut t i .sink (if pkts = [] then [] else g.2 ++ [siteCode]) (linesOf pkts) with
                 pend := reqs.length, stops := stopsOf done, atHome := linesOf (r.sent.filter actsAtHome) }
    let o := { (bad ++ r.bad).foldl (fun o p => o.addBad [p.1] p.2) o with badLines := s.badLinesOf (bad ++ r.bad) }
    let o := if pkts = [] then { o with cls := .store } else o
    let s := s.mapMe fun t => { t with outs := t.outs ++ [o], nextOut := t.nextOut + 1 }
    let s := reqs.foldl (fun s q => s.request { q with who := .team s.cur o.id }) s
    let sent := r.sent.map fun q => (⟨{ q with who := .team s.cur o.id }, none⟩ : PendStore)
    let s := s.mapCore core fun c => { c with stores := c.stores ++ sent }
    let s := if reqs = [] then s.finishOut s.cur o else s
    s.acquireAfter.advanceTo next

/-- SINK (R143, R148, R351): it issues once every word of its group is in the instruction cache (R473). -/
def execSink (h flagA : Bool) (cntm1 : Fin 16) (s : State) : Host.Outcome State Fault Refusal :=
  let i : Instr := .sink h flagA cntm1
  match decodeCheck i s.me, sinkCheck i (cntm1.val + 1) s with
  | some r, _ => .next (s.trap r)
  | none, some r => .next (s.trap r)
  | none, none =>
    match goodWords (s.myGroup (cntm1.val + 1)) with
    | none => .next s
    | some ws => .next ((s.charge (issueCharge i s.me)).sinkBody i ws h flagA)

/-! ### The run of a packet at a Serai unit (R144 to R146, R472) -/

/-- A Serai unit has run a group: the slice's, or that of the controller that owns the line (R144, R273). -/
def State.countGroup (s : State) (q : HomeReq) (site : Nat) : State :=
  if site = 1 then s.countUnit 1 (sliceOf q.va) 4 5 1
  else if site = 2 then s.countUnit 2 (match s.translate q.ctx q.va with
    | .ok l => controllerOfPa l.pa
    | .error _ => controllerOf q.va) 4 5 1 else s

/-- The sectors that a packet would read and that are poisoned (R472, R493). -/
def sinkPoison (words : List Word) (mode : BitVec 16) (run : SinkRun) (x : Line) (poison : BitVec 8) : Option Nat :=
  (packetWhole words mode run.lanes x).2.2.1.find? fun o => sectorBad poison o

/-- A packet run whole on a line that home holds: as an A-group, or on a line that is held only for it (R145). -/
def State.sinkWhole (s : State) (q : HomeReq) (site : Nat) : State :=
  match q.op, SMap.look s.l2 (lineId q.ctx q.va) with
  | .sink words mode _ run, some x =>
    let lid := lineId q.ctx q.va
    (match sinkPoison words mode run x.data x.poison with
     | some o => s.fail q (poisonKind x (q.va / 128 * 128 + o))
     | none =>
       let s := if site = 1 then s.countUnit 1 (sliceOf q.va) 4 1 1 else s
       let s := (s.countGroup q site).sinkReads q
       let r := packetWhole words mode run.lanes x.data
       let cells := (dedupNat r.2.2.2).map fun o => (lineVa lid + o, (lineByte r.2.1 o).toNat)
       let answer : Instr := .sinkResult q site r.1 none
       if cells = [] then s.send (replyChan q) answer
       else (s.homeWrite lid cells none (replyChan q) answer).afterWrite q.ctx q.va)
  | _, _ => s

/-- A line as an access in the home order finds it: at home, or in device memory at `pa`. -/
def State.lineNow (s : State) (lid pa : Nat) : Line :=
  match SMap.look s.l2 lid with
  | some x => x.data
  | none => s.physLine pa

/-- A sunk store in the home order: at home where the line is held, else in device memory. -/
def State.sinkStore (s : State) (q : HomeReq) (pa va n v : Nat) : State :=
  let held := (SMap.look s.l2 (lineId q.ctx va)).isSome
  let l : Leaf := { pa := pa + va % 128, cls := 0, host := false, tbl := false, rd := true, wr := true, ex := false }
  s.agentCells q.ctx va (if held then none else some l) (cellsOf va n v)

/-- Go on with a plain packet: the first lane that is not over makes its next access; when every lane is over, the result
leaves once the packet's writes are acknowledged (R146). What its page permits and what is poisoned was looked at before the
first access, and no access faults later (R472; DEDUCED, log entry 118). -/
def State.sinkGoOn (s : State) (q : HomeReq) : State :=
  match q.op with
  | .sink words mode atomic run =>
    let again := fun (run : SinkRun) (s : State) => s.send .free (.sinkPacketAtSite { q with op := .sink words mode atomic run })
    (match run.lanes.find? fun e => !laneOver words e with
     | none =>
       if run.wids.any fun w => s.writes.any fun p => decide (p.wid = w) then again run s
       else s.send (replyChan q) (.sinkResult q run.site run.lanes none)
     | some e =>
       let put := fun (x : SinkEnv) => { run with lanes := run.lanes.map fun y => if y.lane = x.lane then x else y }
       let lid := lineId q.ctx q.va
       match laneToAccess words mode 16 e with
       | (x, none) => again (put x) s
       | (x, some a) =>
         let va := q.va / 128 * 128 + a.va % 128
         match a.data with
         | none => again (put (laneDone words mode x (lineNat (s.lineNow lid run.pa) (va % 128) a.n)))
             (({ s with l2 := s.l2.map fun p => if p.1 = lid then (p.1, { p.2 with age := 0 }) else p } : State).sinkReads q)
         | some v => again { put (laneDone words mode x 0) with wids := s.nextId :: run.wids } (s.sinkStore q run.pa va a.n v))
  | _ => s

/-- A plain packet starts at its site: a packet that would read poison, or whose page has changed, has performed nothing (R472). -/
def State.sinkStart (s : State) (q : HomeReq) (site : Nat) : State :=
  match q.op with
  | .sink words mode atomic run =>
    let line : Except BadAccess (Nat × Line × BitVec 8 × (Nat → BadAccess)) := match SMap.look s.l2 (lineId q.ctx q.va) with
      | some x => .ok (x.pa, x.data, x.poison, fun o => poisonKind x (q.va / 128 * 128 + o))
      | none => (match s.translate q.ctx q.va with
        | .ok l =>
          let pa := l.pa / 128 * 128
          .ok (pa, s.physLine pa, s.physPoison pa, fun o => (⟨0x0D, 2, 0, q.va / 128 * 128 + o⟩ : BadAccess))
        | .error b => .error b)
    let s := if site = 1 then s.countUnit 1 (sliceOf q.va) 4 1 1 else s
    (match line with
     | .error b => s.fail q b
     | .ok (pa, x, p, f) => match sinkPoison words mode run x p with
       | some o => s.fail q (f o)
       | none => (s.countGroup q site).sinkGoOn { q with op := .sink words mode atomic { run with site := site, pa := pa } })
  | _ => s

/-- SINK_PACKET_AT_SITE (R144, R146): a controller's Serai unit takes a packet, or a packet under way makes its next
access. -/
def execSinkPacketAtSite (q : HomeReq) (s : State) : Host.Outcome State Fault Refusal :=
  match q.op with
  | .sink _ _ _ run => .next (if run.site = 0 then s.sinkStart q 2 else s.sinkGoOn q)
  | _ => .next s

/-- SINK_RESULT (R83, R147, R148, R223, R472): results are written with their site in one clk, the result is charged, and
the group ends with its last packet. -/
def execSinkResult (q : HomeReq) (site : Nat) (lanes : List SinkEnv) (bad : Option BadAccess) (s : State) :
    Host.Outcome State Fault Refusal :=
  match q.who, q.op with
  | .team k out, .sink words _ _ _ =>
    let s := s.mapTeam k fun t => t.chargeM (resultUnits words q.accs.length)
    (match (SMap.get default s.teams k).outs.find? fun o => decide (o.id = out) with
     | none => .next s
     | some o =>
       let s := if bad.isNone then s.laneResults k words site lanes else s
       let o := { o with pend := o.pend - 1, stops := o.stops ++ (if bad.isNone then stopsOf lanes else []) }
       let low := (q.accs.map LaneAcc.lane).foldl min 1023
       let va := ((q.accs.find? fun a => decide (a.lane = low)).map LaneAcc.data).getD q.va
       let o := match bad with
         | none => o
         | some b => { o.addBad (q.accs.map LaneAcc.lane) { b with va := va } with badLines := o.badLines ++ reqLines q }
       let o := { o with lines := (reqLines q).foldl List.erase o.lines }
       let s := s.mapTeam k fun t => { t with outs := t.outs.map (fun x => if x.id = out then o else x) }
       .next (if o.pend = 0 then s.finishOut k o else s))
  | _, _ => .next s

end Sys2Proof.Machine
end

