-- ==== Sys2Proof/Machine/Home.lean ====
section
/-!
DEFINITION. What happens to a request at its home slice and afterwards (05_memory R125 to R142, 06_consistency R158 to
R174, 13_isa_memory_sync R344 to R360, 09_engines R247, 24_memory_failures R470 to R477, R483 to R488, R493): service,
fills and translation, updates to sharers, and the answers that return to teams.
-/
namespace Sys2Proof.Machine

/-- Send the answer of a request. -/
def State.answer (s : State) (q : HomeReq) (r : Instr) : State := s.send (replyChan q) r

/-! ### Performing a request whose lines home holds -/

/-- Does an operation read what it works on, so that poison faults it (R493)? -/
def opReads : HomeOp → Bool
  | .load _ | .atom _ _ | .rowLd _ | .rowAdd _ _ | .reduce _ | .fetch | .lock _ | .unlock | .wreg _ | .tbExpect _
  | .tbArrive _ | .tbWait _ | .tbTest | .tbAbort => true
  | _ => false

/-- Is the operation on a whole row (R167)? -/
def opIsRow : HomeOp → Bool
  | .rowLd _ | .rowSt _ | .rowAdd _ _ => true
  | _ => false

/-- The fault of an access that reads a poisoned sector. -/
def State.poisonAt (s : State) (ctx va : Nat) : Option BadAccess :=
  match SMap.look s.l2 (lineId ctx va) with
  | some x => if sectorBad x.poison (va % 128) then some (poisonKind x va) else none
  | none => none

/-- Accesses of a request that meet poison: all of them for a row with one poisoned sector (R470). -/
def State.poisonedAccs (s : State) (q : HomeReq) : List (LaneAcc × BadAccess) :=
  if !opReads q.op then []
  else
    let bad := q.accs.filterMap fun a => (s.poisonAt q.ctx a.va).map fun b => (a, b)
    match opIsRow q.op, bad with
    | true, (_, b) :: _ => q.accs.map fun a => (a, { b with va := q.va })
    | _, l => l

/-- Mark lines as hit (R133). -/
def State.touchL2 (s : State) (lids : List Nat) : State :=
  { s with l2 := s.l2.map fun p => if lids.contains p.1 then (p.1, { p.2 with age := 0 }) else p }

/-- What a fill carries to the requester's L1 or instruction cache: nothing for streaming-class lines (R133), and no
poisoned line to an L1 (R493). -/
def State.fillFor (s : State) (q : HomeReq) : Option FillData :=
  match SMap.look s.l2 (lineId q.ctx q.va) with
  | none => none
  | some x =>
    let d : FillData := { data := x.data, rd := x.rd, wr := x.wr, ex := x.ex, policy := x.policy, age := x.age, pa := x.pa,
                          host := x.host, poison := x.poison.toNat, stamp := s.nextId }
    match q.op with
    | .fetch => some d
    | .load _ => if x.policy = 2 ∨ x.poison ≠ 0 ∨ homeCore q = none then none else some d
    | .prefetch l1 => if !l1 ∨ x.policy = 2 ∨ x.poison ≠ 0 then none else some d
    | _ => none

/-- A core becomes a sharer of a line (R138). -/
def State.addSharer (s : State) (lid core : Nat) : State :=
  match SMap.look s.l2 lid with
  | none => s
  | some x => if x.sharers.contains core then s
    else { s with l2 := SMap.put s.l2 lid { x with sharers := x.sharers ++ [core] } }

/-- A store of a team, or an operation that its L1 forwarded, is performed: its number is noted with the core's own record of it (R159,
R171). -/
def State.markStore (s : State) (q : HomeReq) : State :=
  match q.who, q.op with
  | .team _ _, .store _ =>
    let wid := s.nextId
    s.mapCore q.core fun c => { c with stores := c.stores.map fun p => if p.q = q then { p with done := some wid } else p }
  | .team k o, .atom _ true =>
    let wid := s.nextId
    s.mapCore q.core fun c => { c with ops := c.ops.map fun p =>
      if p.team = k ∧ p.out = o ∧ p.lid = lineId q.ctx q.va ∧ p.va = q.va then { p with done := some wid } else p }
  | _, _ => s

/-- The writer that an update is not sent to: a plain store's core, when its L1 holds the line and took the store at issue
(R138). -/
def State.skipOf (s : State) (q : HomeReq) : Option Nat :=
  match q.op with
  | .store _ => if actsAtHome q then none else (homeCore q).bind fun c => if (s.l1Line c (lineId q.ctx q.va)).isSome then some c else none
  | _ => none

/-- A channel engine's store of poisoned data poisons the sectors that it writes (R150, R494). -/
def State.markPoison (s : State) (q : HomeReq) : State :=
  match q.who, q.op, q.accs, SMap.look s.l2 (lineId q.ctx q.va) with
  | .engine _, .store n, a :: _, some x =>
    if a.data2 = 2 then
      let sectors := dedupNat ((List.range n).map fun i => (q.va % 128 + i) / 32)
      let m := sectors.foldl (fun m i => m ||| BitVec.ofNat 8 (3 * 2 ^ (2 * i))) x.poison
      { s with l2 := SMap.put s.l2 (lineId q.ctx q.va) { x with poison := m } }
    else s
  | _, _, _, _ => s

/-- PERFORM a plain request, atomic or row operation on held lines (R138, R158, R167, R344, R354, R356). -/
def State.perform (s : State) (q : HomeReq) : State :=
  let bads := s.poisonedAccs q
  let good := { q with accs := q.accs.filter fun a => !(bads.map Prod.fst).contains a }
  let bad := bads.head?.map Prod.snd
  let r := opResult good (s.heldByte q.ctx)
  let lids := reqLines q
  let s := s.touchL2 lids
  let wids := s.unsettledOf q
  let s := if r.1 ≠ [] ∧ !opIsRead q.op then s.sinkReads q else s.notifyCore wids (homeCore q)
  let s : State := match q.who with
    | .host _ => if opIsRead q.op then { s with hostLines := lids ++ s.hostLines.filter (fun x => !lids.contains x) } else s
    | _ => s
  if opIsRead q.op then
    let fill := s.fillFor q
    let s := match fill, q.op with
      | some _, .load _ | some _, .prefetch _ => s.addSharer (lineId q.ctx q.va) q.core
      | _, _ => s
    s.answer q (.loadReply q r.1 fill wids bad)
  else if r.2 = [] then s.answer q (.writerAck q r.1 bad)
  else
    let s := (s.markStore q).homeWriteLines lids r.2 (s.skipOf q) (replyChan q) (.writerAck q r.1 bad)
    (lids.foldl (fun s lid => s.afterWrite (lineCtx lid) (lineVa lid)) s).markPoison q

/-! ### Objects at home: lock words, WREG words, transaction barriers -/

/-- Write an object's bytes, and answer when every sharer has them (R138, R247). -/
def State.writeObject (s : State) (q : HomeReq) (n v : Nat) (r : Instr) (ch : Chan) : State :=
  (s.homeWrite (lineId q.ctx q.va) (cellsOf q.va n v) none ch r).afterWrite q.ctx q.va

/-- Number held at an object. -/
def State.objectNat (s : State) (q : HomeReq) (va n : Nat) : Nat := readNat (s.heldByte q.ctx) va n

/-- The team that waits for a request's answer. -/
def waiterTeam (q : HomeReq) : Nat :=
  match q.who with
  | .team k _ => k
  | _ => 0

/-- LOCK at home (R359). -/
def State.performLock (s : State) (q : HomeReq) (me : Nat) : State :=
  if s.objectNat q q.va 8 = 0 then (s.sinkReads q).writeObject q 8 me (waitAnswer q .lockGranted) (replyChan q)
  else { s with waiters := s.waiters ++ [{ kind := 0, ctx := q.ctx, va := q.va, team := waiterTeam q, q := q }] }

/-- The waiter of highest effective priority, earliest registered among equals (R359). -/
def State.bestWaiter (s : State) : List HomeWaiter → Option HomeWaiter
  | [] => none
  | w :: r => match s.bestWaiter r with
    | none => some w
    | some v => if s.effPrio v.team > s.effPrio w.team then some v else some w

/-- Waiters of a lock word. -/
def State.lockWaiters (s : State) (ctx va : Nat) : List HomeWaiter :=
  s.waiters.filter fun w => decide (w.kind = 0 ∧ w.ctx = ctx ∧ w.va = va)

/-- UNLOCK at home (R359): freed, or handed to the waiter of highest effective priority; either way it is answered once every
sharer has the word (R138). -/
def State.performUnlock (s : State) (q : HomeReq) : State :=
  match s.bestWaiter (s.lockWaiters q.ctx q.va) with
  | none => s.writeObject q 8 0 (waitAnswer q .unlocked) (replyChan q)
  | some w =>
    let s := { s with waiters := s.waiters.filter fun x => decide (x ≠ w) }
    let wid := s.nextId
    let s := s.writeObject q 8 (s.lockValue w.team) (waitAnswer w.q .lockGranted) (replyChan w.q)
    s.alsoAnswer wid q (waitAnswer q .unlocked)

/-- WREG at home (R360). -/
def State.performWreg (s : State) (q : HomeReq) (cmp : Nat) : State :=
  let v := s.objectNat q q.va 4
  if v ≠ cmp then (s.sinkReads q).answer q (waitAnswer q (.wregValue v))
  else { s with waiters := s.waiters ++ [{ kind := 2, ctx := q.ctx, va := q.va, team := waiterTeam q, q := q }] }

/-- The last arrival of a Drover packet is performed: the packet is complete, and its ranges are released (R179, R237). -/
def State.arrivalDone (s : State) (q : HomeReq) : State :=
  match q.op, q.who with
  | .tbArrive _, .drover pid =>
    if (s.packets.any fun p => decide (p.id = pid) && p.closing) then
      { s with ranges := s.ranges.filter fun r => decide (r.pid ≠ pid) }
    else s
  | _, _ => s

/-- A barrier operation that writes the object, at home (R247, R464, R483 to R485). -/
def State.performTb (s : State) (q : HomeReq) : State :=
  let w0 := s.objectNat q q.va 8
  let w1 := s.objectNat q (q.va + 8) 8
  let r := tbStep q.op w0 w1
  if r.2.2.2 then s.answer q (.writerAck q [] (some ⟨8, 0, 0x26, q.va⟩))
  else
    let s := s.arrivalDone q
    let s := if r.1 = (w0, w1) then s.answer q (.writerAck q [] none)
      else s.writeObject q 16 (r.1.1 + r.1.2 * 2 ^ 64) (.writerAck q [] none) (replyChan q)
    if r.2.1 then s.tbRelease q.ctx q.va else s

/-- TBWAIT at home (R247, R485): it returns at once when the phase has passed or the barrier is spent. -/
def State.performTbWait (s : State) (q : HomeReq) (phase : Bool) : State :=
  let w0 := s.objectNat q q.va 8
  if tbSpent w0 ∨ tbPhase w0 ≠ phase then (s.sinkReads q).answer q (waitAnswer q .tbReleased)
  else
    let s : State := { s with waiters := s.waiters ++ [{ kind := 1, ctx := q.ctx, va := q.va, team := waiterTeam q, q := q }] }
    s.writeObject q 8 (tbWord (tbPending w0) (tbPhase w0) false false (min (tbWaiters w0 + 1) 255))
      (.writerAck (nobodyReq q.ctx q.va) [] none) .free

/-- DISCARD at home (R182, R487): each sector of the range, on its own, keeps its last written value, which goes to memory, or takes
its memory value again; other sectors stay as they are, and a line that home does not hold has nothing to drop. -/
def State.performDiscard (s : State) (q : HomeReq) : State :=
  let lid := lineId q.ctx q.va
  match SMap.look s.l2 lid with
  | none => s.answer q (.writerAck q [] none)
  | some x =>
    let sectors := (List.range 4).filter fun i => q.accs.any fun a =>
      decide (a.va % 128 ≤ 32 * i ∧ 32 * i + 32 ≤ a.va % 128 + a.data)
    let drop := sectors.filter fun i => !Config.discardKeeps (4 * s.tick + i) && !x.host &&
      (List.range 32).any fun j => x.dirty.getLsbD (32 * i + j)
    let kept := (sectors.filter fun i => !drop.contains i).foldl (fun m i => m ||| BitVec.ofNat 128 ((2 ^ 32 - 1) * 2 ^ (32 * i))) (0 : BitVec 128)
    let s := s.writeBackPart lid kept
    if drop = [] then s.answer q (.writerAck q [] none)
    else
      let old := s.physLine x.pa
      let marks := s.physPoison x.pa
      let cells := drop.flatMap fun i => (List.range 32).map fun j =>
        (lineVa lid + 32 * i + j, (lineByte old (32 * i + j)).toNat)
      let s := s.homeWrite lid cells none (replyChan q) (.writerAck q [] none)
      let mask := cellMask cells
      let s := match SMap.look s.l2 lid with
        | none => s
        | some y =>
          let keep := drop.foldl (fun m i => m ||| (BitVec.ofNat 8 (3 * 2 ^ (2 * i)) &&& marks)) y.poison
          { s with l2 := SMap.put s.l2 lid { y with dirty := y.dirty &&& ~~~mask, poison := keep } }
      s.afterWrite q.ctx q.va

/-- Does home hold the line of a host page (R145)? -/
def State.holdsHost (s : State) (lid : Nat) : Bool :=
  match SMap.look s.l2 lid with
  | some x => x.host
  | none => false

/-- SERVE a request whose lines home holds with the permission it needs: one access of the slice (R273), and a hit of its lines
(R133). A plain packet on a host line runs whole (DESIGN CHOICE, log entry 62). -/
def State.serve (s : State) (q : HomeReq) : State :=
  let s := match q.op with
    | .sink _ _ _ _ => s
    | _ => s.countUnit 1 (sliceOf q.va) 4 1 1
  let s := match q.op with
    | .discard _ => s
    | _ => s.touchL2 (reqLines q)
  match (s.poisonedAccs q).head?, q.op with
  | some (_, b), .lock _ | some (_, b), .unlock | some (_, b), .wreg _ | some (_, b), .tbExpect _
  | some (_, b), .tbArrive _ | some (_, b), .tbWait _ | some (_, b), .tbTest | some (_, b), .tbAbort => s.fail q b
  | _, .lock me => s.performLock q me
  | _, .unlock => s.performUnlock q
  | _, .wreg c => s.performWreg q c
  | _, .tbInit _ | _, .tbExpect _ | _, .tbArrive _ | _, .tbAbort => s.performTb q
  | _, .tbWait p => s.performTbWait q p
  | _, .tbTest => (s.sinkReads q).answer q (.writerAck q [(0, s.objectNat q q.va 8)] none)
  | _, .discard _ => s.performDiscard q
  | _, .sink _ _ atomic _ => if atomic || s.holdsHost (lineId q.ctx q.va) then s.sinkWhole q 1 else s.sinkStart q 1
  | _, _ => s.perform q

/-! ### Escalations of translation faults (R444, R476, R477) -/

/-- Kind of request in an escalation packet (R477). -/
def accessKind : HomeOp → Nat
  | .fetch => 2
  | .store _ | .rowSt _ | .discard _ => 1
  | .load _ | .prefetch _ | .rowLd _ | .wreg _ | .tbTest => 0
  | .sink ws _ _ _ => if groupStores ws then 3 else 0
  | _ => 3

/-- The page of an escalation: 64 KiB (R477). -/
def escPage (va : Nat) : Nat := va57 va / 2 ^ 16

/-- The teams that a request parks: its own, or every team of the MMA whose B it reads. -/
def State.requestTeams (s : State) (q : HomeReq) : List Nat :=
  match q.who with
  | .team k o =>
    let mma := (SMap.get default s.teams k).outs.any fun x => decide (x.id = o) && (match x.instr with
      | .mma _ _ _ => true
      | _ => false)
    let jobs := (s.coreAt q.core).jobs.filter fun x => (match x with
      | .mma j => j.running
      | _ => false) && x.teams.contains k
    (match mma, jobs with
     | true, x :: _ => x.teams
     | _, _ => [k])
  | _ => []

/-- Park the teams of a request for a reply to escalation `tag` (R444). -/
def State.parkTeam (s : State) (q : HomeReq) (tag : Nat) : State := (s.requestTeams q).foldl (fun s k => s.parkOn k tag) s

/-- May a request's fault be escalated? A PREFETCH is dropped, and the host and the peers take their answer (R476). -/
def escalates (q : HomeReq) : Bool :=
  match q.who, q.op with
  | _, .prefetch _ => false
  | .team _ _, _ | .drover _, _ | .engine _, _ => true
  | _, _ => false

/-- A request joins an open escalation, and its teams park (R477). -/
def State.joinEsc (s : State) (tag : Nat) (q : HomeReq) (b : BadAccess) : State :=
  let join := fun (x : Escalation) =>
    if x.tag = tag ∧ x.fn = 0 ∧ !x.reqs.any (fun r => decide (r.1 = q)) then { x with reqs := x.reqs ++ [(q, b)] } else x
  ({ s with escs := s.escs.map join } : State).parkTeam q tag

/-- A request that comes to wait on a fill whose fault the host is to resolve joins that escalation (R477). -/
def State.joinOpen (s : State) (lid : Nat) (q : HomeReq) : State :=
  match s.escs.find? fun e => decide (e.fn = 0) && e.reqs.any fun r => (reqLines r.1).contains lid with
  | some e => if escalates q then s.joinEsc e.tag q { e.bad with va := q.va } else s
  | none => s

/-- The requests that wait on the fill of a request's line with it. -/
def State.fillMates (s : State) (q : HomeReq) : List HomeReq :=
  (s.fills.filter fun p => decide (p.1 = lineId q.ctx q.va)).flatMap fun p => p.2.filter fun x => decide (x.who ≠ q.who) && escalates x

/-- A translation fault under PGFLT = 1: it joins the escalation open for its page, or opens one, and so do the requests that wait
on the same fill (R476, R477). -/
def State.escalateFault (s : State) (q : HomeReq) (b : BadAccess) : State :=
  let mates := s.fillMates q
  let all := fun (s : State) (tag : Nat) => mates.foldl (fun s x => s.joinEsc tag x { b with va := x.va }) s
  match s.escs.find? fun e => decide (e.fn = 0 ∧ e.ctx = q.ctx ∧ e.page = escPage q.va) with
  | some e => all (s.joinEsc e.tag q b) e.tag
  | none =>
    let tag := s.nextTag
    let e : Escalation := { fn := 0, tag := tag, ctx := q.ctx, page := escPage q.va, reqs := [(q, b)], teams := [], pkts := [],
                            engines := [], bad := b, key := 0 }
    let req := match q.who, q.op with
      | .drover _, _ => 1
      | .engine _, _ => 2
      | _, .sink _ _ _ _ => 3
      | _, _ => 0
    all ((s.openEscalation e (s.partOfCtx q.ctx)
      [(0x10, 16 * b.site + b.kind), (0x11, accessKind q.op), (0x12, req), (0x14, q.core), (0x18, b.va)]).parkTeam q tag) tag

/-! ### Arrival -/

/-- Does the bridge perform an operation on host memory whole, once it holds both halves exclusive (R145, R260)? -/
def ownsHalves : HomeOp → Bool
  | .atom _ _ => true
  | .sink _ _ atomic _ => atomic
  | _ => false

/-- ARRIVAL of a request at its home slice: behind a fill of one of its lines, to the controller, or served there
(R125, R138, R471, R523). DISCARD fills nothing (R487); a plain sink packet that finds no copy goes on to the controller
(R144); the slice gives up a host line on which the bridge is to perform an atomic or an A-group (R145, R260). -/
def State.arrive (s : State) (q : HomeReq) : State :=
  match s.fillOf q with
  | some lid => (s.awaitFill lid q).joinOpen lid q
  | none =>
    let lid := lineId q.ctx q.va
    let s := if ownsHalves q.op && s.holdsHost lid then s.evictLine lid else s
    let goOn := match s.missingLine q with
      | some lid => (s.countUnit 1 (sliceOf q.va) 4 2 1).awaitFill lid q
      | none => s.serve q
    match q.op with
    | .discard _ => s.serve q
    | .sink _ _ false _ => if (SMap.look s.l2 lid).isNone then s.send .free (.translateRequest q) else goOn
    | _ => goOn

/-- HOME_REQUEST (R523): a read request arrives. -/
def execHomeRequest (q : HomeReq) (s : State) : Host.Outcome State Fault Refusal := .next (s.arrive q)
/-- HOME_WRITE (R138). -/
def execHomeWrite (q : HomeReq) (s : State) : Host.Outcome State Fault Refusal := .next (s.arrive q)
/-- HOME_ATOMIC (R172). -/
def execHomeAtomic (q : HomeReq) (s : State) : Host.Outcome State Fault Refusal := .next (s.arrive q)
/-- ROW_AT_HOME (R167). -/
def execRowAtHome (q : HomeReq) (s : State) : Host.Outcome State Fault Refusal := .next (s.arrive q)
/-- TB_INIT_OP (R247). -/
def execTbInitOp (q : HomeReq) (s : State) : Host.Outcome State Fault Refusal := .next (s.arrive q)
/-- TB_EXPECT_OP (R247). -/
def execTbExpectOp (q : HomeReq) (s : State) : Host.Outcome State Fault Refusal := .next (s.arrive q)
/-- TB_ARRIVE_OP (R247, R483). -/
def execTbArriveOp (q : HomeReq) (s : State) : Host.Outcome State Fault Refusal := .next (s.arrive q)
/-- TB_WAIT_OP (R247). -/
def execTbWaitOp (q : HomeReq) (s : State) : Host.Outcome State Fault Refusal := .next (s.arrive q)
/-- TB_TEST_OP (R247). -/
def execTbTestOp (q : HomeReq) (s : State) : Host.Outcome State Fault Refusal := .next (s.arrive q)
/-- TB_ABORT_OP (R484). -/
def execTbAbortOp (q : HomeReq) (s : State) : Host.Outcome State Fault Refusal := .next (s.arrive q)
/-- LOCK_AT_HOME (R359). -/
def execLockAtHome (q : HomeReq) (s : State) : Host.Outcome State Fault Refusal := .next (s.arrive q)
/-- SINK_PACKET_AT_HOME (R144, R145): the slice decides the packet's site at its arrival. -/
def execSinkPacketAtHome (q : HomeReq) (s : State) : Host.Outcome State Fault Refusal := .next (s.arrive q)
/-- UNLOCK_AT_HOME (R359). -/
def execUnlockAtHome (q : HomeReq) (s : State) : Host.Outcome State Fault Refusal := .next (s.arrive q)

/-! ### Translation and fills -/

/-- The permission faults of a leaf for a request, and the kinds of R469 that need device memory. -/
def leafFault (q : HomeReq) (l : Leaf) : Option BadAccess :=
  match needFails (opNeed q.op) l.rd l.wr l.ex with
  | some k => some ⟨0x0B, 2, k, q.va⟩
  | none => if opDeviceOnly q.op ∧ l.host then some ⟨0x0B, 2, 7, q.va⟩ else none

/-- Does a request wait on a fill of its line (R144)? -/
def State.waitsFill (s : State) (q : HomeReq) : Bool :=
  s.fills.any fun p => decide (p.1 = lineId q.ctx q.va) && p.2.contains q

/-- The fault of a translation: it goes to every request that waits on the fill, or to a sink packet on its own. -/
def State.fillFault (s : State) (q : HomeReq) (b : BadAccess) : State :=
  match q.op with
  | .sink _ _ _ _ =>
    if s.waitsFill q then s.send .free (.homeFillComplete q (.bad b)) else s.fail q b
  | _ => s.send .free (.homeFillComplete q (.bad b))

/-- A request's translation faults: delivered, or escalated for a team's request (R476). -/
def State.translationFault (s : State) (q : HomeReq) (b : BadAccess) : State :=
  if escalates q && s.hostMode 0 && decide (b.cause = 0x0B) then s.escalateFault q b else s.fillFault q b

/-- Rows that a command of an accepted NMCMD writes: the row of ACCST, or the outputs of RUN (R151, R152, R254). -/
def writtenRows (c : BitVec 128) (block : Option (BitVec 512)) : List Nat :=
  if bitsOf c.toNat 0 8 = 5 then [bitsOf c.toNat 64 64]
  else
    match decide (bitsOf c.toNat 0 8 = 2), block with
    | true, some b =>
      let n := min (bitsOf b.toNat (8 * 0x30) 16) (bitsOf b.toNat (8 * 0x36) 16)
      (List.range n).map fun j =>
        ((bitsOf b.toNat (8 * 0x18) 64 : Int) + j * sext 32 (bitsOf b.toNat (8 * 0x2C) 32)) % 2 ^ 64 |>.toNat
    | _, _ => []

/-- Does a DRAM row that an accepted NMCMD of another unit writes hold a physical line (R180)? `own` tells rows in the
engine's own stack, whose requests wait at the controller, from the others, whose requests wait before their home slice:
the engine writes those through it (R149, R150). -/
def State.rowHeld (s : State) (who : Requester) (own : Bool) (pa : Nat) : Bool :=
  s.chans.any fun p => decide (who ≠ .engine p.1) && p.2.subs.any fun b => decide (b.pid = none) &&
    b.cmds.any fun c => (writtenRows c.2 p.2.bound).any fun row =>
      match s.translate b.ctx row with
      | .ok l => decide (l.pa / 1024 = pa / 1024) && !l.host && (decide (l.pa / 2 ^ 36 = p.1 / 32) == own)
      | .error _ => false

/-- The command at which a submission stands, if it was read and the block has not ended (R253). -/
def Submission.command (b : Submission) : Option (BitVec 128) := if b.idx ≥ 64 then none else SMap.look b.cmds b.idx

/-- Does an engine hold its channel: it runs a block, at a command with a row, and neither is suspended nor waits for a row that
it does not reach directly (R149, R153)? -/
def State.channelBusy (s : State) (e : Nat) : Bool :=
  let x := s.engineAt e
  match x.subs with
  | [] => false
  | b :: _ =>
    b.taken && b.begun && b.failed.isNone && !x.suspended && !x.waiting && !x.netting &&
      (x.window || (match b.command with
        | some c => [2, 3, 5].contains (bitsOf c.toNat 0 8)
        | none => false))

/-- The channel engine at whose DRAM a physical address lies (R128): stack × 32 + channel. -/
def engineOfPa (pa : Nat) : Option Nat := if pa < 12 * 2 ^ 36 then some (pa / 2 ^ 36 * 32 + bitsOf pa 10 5) else none

/-- The data a controller returns for a leaf (R523). -/
def State.fillOfLeaf (s : State) (ctx : Nat) (l : Leaf) : FillData :=
  let e := s.rctEntry ctx l.cls
  let pa := l.pa / 128 * 128
  { data := if l.host then 0 else s.physLine pa, rd := l.rd, wr := l.wr, ex := l.ex, policy := rctPolicy e,
    age := bitsOf e.toNat 18 2, pa := pa, host := l.host, poison := if l.host then 0 else (s.physPoison pa).toNat,
    ways := bitsOf e.toNat 0 16 }

/-- A fill of device memory as memory stands when it is delivered (R150). -/
def State.reread (s : State) (d : FillData) : FillData :=
  if d.host then d else { d with data := s.physLine d.pa, poison := (s.physPoison d.pa).toNat }

/-- The line that a fill brings, in a way of its set. -/
def lineOfFill (d : FillData) (way : Nat) : L2Line :=
  { way := way, data := d.data, dirty := 0, rd := d.rd, wr := d.wr, ex := d.ex, policy := d.policy, age := d.age, pa := d.pa,
    host := d.host, sharers := [], pattern := 2, poison := BitVec.ofNat 8 d.poison, unsettled := [] }

/-- Put a line into its home slice, or record permissions on a line it holds (R132, R133, R523). -/
def State.installLine (s : State) (lid : Nat) (d : FillData) : State :=
  match SMap.look s.l2 lid with
  | some x => { s with l2 := SMap.put s.l2 lid { x with rd := d.rd, wr := d.wr, ex := d.ex } }
  | none =>
    let r := s.takeWay lid d.ways 4
    { r.1 with l2 := SMap.put r.1.l2 lid (lineOfFill d r.2) }

/-- Perform one request on a line that is held nowhere afterwards: streaming-class lines and half-held host lines
(R133, R135, R142). A row takes every line of its page that it needs. The next request of the same fill finds the line as
this one leaves it. -/
def State.serveTransient (lid : Nat) (p : State × FillData) (q : HomeReq) : State × FillData :=
  let s := p.1
  let d := p.2
  match needFails (opNeed q.op) d.rd d.wr d.ex with
  | some k => (s.translationFault q ⟨0x0B, if d.host then 3 else 2, k, q.va⟩, d)
  | none =>
    let lids := reqLines q
    let s := lids.foldl (fun s x =>
      if (SMap.look s.l2 x).isSome then s
      else
        let pa := d.pa + lineVa x - lineVa lid
        let other : FillData := { d with data := s.physLine pa, poison := (s.physPoison pa).toNat, pa := pa }
        { s with l2 := SMap.put s.l2 x (lineOfFill (if x = lid then d else other) 16) }) s
    let s := match q.op with
      | .sink _ _ _ _ => s.sinkWhole q (if d.host then 3 else 1)
      | _ => s.serve q
    let d' := match SMap.look s.l2 lid with
      | some y => { d with data := y.data, poison := y.poison.toNat }
      | none => d
    (lids.foldl (fun s x => match SMap.look s.l2 x with
      | some y => if y.policy = 2 ∨ x = lid then (s.writeBack x).dropLine x else s
      | none => s) s, d')

/-! ### The host bridge (R141, R142, R145, R259, R260) -/

/-- Send a request to the host bridge (R125, R142, R259): the link must be up (R490). -/
def State.toBridge (s : State) (q : HomeReq) (pa stage old : Nat) (fill : Option FillData) : State :=
  if s.linkUp then
    { s with nextId := s.nextId + 1, bridge := s.bridge ++
      [{ id := s.nextId, q := q, pa := pa, stage := stage, tries := 0, old := old, fill := fill }] }
  else s.translationFault q ⟨0x0B, 3, 0xA, q.va⟩

/-- Does the bridge hold both halves of the host line at `pa` (R142)? -/
def State.bothHalves (s : State) (pa : Nat) : Bool :=
  decide ((s.halfAt (pa / 64)).state ≠ 0 ∧ (s.halfAt (pa / 64 + 1)).state ≠ 0)

/-- A host line of which the bridge holds exactly one half is not filled (R142). -/
def State.halfHeld (s : State) (pa : Nat) : Bool :=
  xor (decide ((s.halfAt (pa / 64)).state ≠ 0)) (decide ((s.halfAt (pa / 64 + 1)).state ≠ 0))

/-- Is a request one of the operations that PCIe AtomicOps perform (R260)? -/
def atomicOpPath : AtomOp → Bool
  | .add | .xch | .cas => true
  | _ => false

/-- One request performed at the bridge on the line's data; those that waited behind it arrive again. -/
def State.bridgePerform (s : State) (q : HomeReq) (d : FillData) : State :=
  let lid := lineId q.ctx q.va
  let rest := if s.waitsFill q then (s.fills.filter fun p => decide (p.1 = lid)).flatMap fun p => p.2.erase q else []
  let s : State := if s.waitsFill q then { s with fills := s.fills.filter fun p => decide (p.1 ≠ lid) } else s
  rest.foldl State.arrive (State.serveTransient lid (s, { d with policy := 2 }) q).1

/-- Halves of its line that a request needs at the bridge: both for a fill or a group, else those it accesses. -/
def bridgeHalves (r : BridgeReq) : List Nat :=
  match r.stage, r.q.op with
  | 1, .load _ | 1, .store _ => (List.range 2).filter fun h => r.q.accs.any fun a => decide (a.va % 128 / 64 = h)
  | _, _ => [0, 1]

/-- Must the bridge hold the halves exclusive for a request (R142, R145, R260)? -/
def wantsOwn (q : HomeReq) : Bool := (opNeed q.op).wr || ownsHalves q.op

/-- Is a request performed at the bridge on a line of the streaming class, which is cached nowhere (R259)? -/
def BridgeReq.streams (r : BridgeReq) : Bool := decide (r.stage = 1) && (match r.fill with
  | some d => decide (d.policy = 2)
  | none => false)

/-- Does a request still need half `h` from the host: with the state it wants, or, for a line of the streaming class, because the half
is not held? -/
def State.wantsHalf (s : State) (r : BridgeReq) (h : Nat) : Bool :=
  let st := (s.halfAt (r.pa / 128 * 2 + h)).state
  if wantsOwn r.q && !r.streams then decide (st ≠ 2) else decide (st = 0)

/-- A line with one half replaced. -/
def setHalf (x : Line) (h : Nat) (v : BitVec 512) : Line :=
  if h = 0 then (x.extractLsb' 512 512 ++ v).setWidth 1024 else (v ++ x.extractLsb' 0 512).setWidth 1024

/-- The poison marks of a line whose halves the bridge holds (R493). -/
def State.halfPoison (s : State) (base : Nat) : BitVec 8 :=
  BitVec.ofNat 8 ((List.range 4).foldl (fun m i =>
    if (s.halfAt (base + i / 2)).poison.getLsbD (i % 2) then m + 3 * 2 ^ (2 * i) else m) 0)

/-- The bridge gives up the halves of a streaming-class line on which it has performed a group (R145, R259). -/
def State.loseHalves (s : State) (base : Nat) : State :=
  (List.range 2).foldl (fun s i =>
    let x := s.halfAt (base + i)
    let cells := (List.range 64).map fun o => (64 * (base + i) + o, (lineByte (x.data.zeroExtend 1024) o).toNat)
    let s := if x.dirty then s.hostSend 0 (64 * (base + i)) (64 * base) cells x.poison else s
    { s with halves := SMap.set {} s.halves (base + i) {} }) s

/-- The bridge has the halves it needs: the line is filled (stage 0), or the request is performed at the bridge. A fill whose
permissions were invalidated meanwhile (stage 7) is translated again (R523). -/
def State.bridgeReady (s : State) (r : BridgeReq) (d : FillData) : State :=
  let base := r.pa / 128 * 2
  let held := (List.range 2).foldl (fun x h =>
    if (s.halfAt (base + h)).state = 0 then x else setHalf x h (s.halfAt (base + h)).data) d.data
  let d := { d with data := held, poison := (s.halfPoison base).toNat }
  match r.stage with
  | 0 => s.send .free (.homeFillComplete r.q (.filled d))
  | 7 => s.send .free (.translateRequest r.q)
  | 6 => if s.hostExclusive (128 * (r.pa / 128)) then
      (if d.policy = 2 then (s.bridgePerform r.q d).loseHalves base else s.bridgePerform r.q d)
    else { s with bridge := s.bridge ++ [{ r with done := if (s.halfAt base).state = 2 then 1 else 0 }] }
  | _ => s.bridgePerform r.q d

/-- The bridge asks the host for the next half that a request needs, or goes on without it (R142, R259). -/
def State.bridgeNext (s : State) (r : BridgeReq) (d : FillData) : State :=
  match (bridgeHalves r).find? fun h => decide (r.done ≤ h) && s.wantsHalf r h with
  | some h => { s with bridge := s.bridge ++ [{ r with done := h, fill := some d }] }
  | none => s.bridgeReady r d

/-- The bridge takes a request on a line of host memory in the CXL.cache classes (R259). -/
def State.bridgeLine (s : State) (q : HomeReq) (pa stage : Nat) (d : FillData) : State :=
  if s.linkUp then
    let r : BridgeReq := { id := s.nextId, q := q, pa := pa, stage := stage, tries := 0, old := 0, fill := some d }
    ({ s with nextId := s.nextId + 1 } : State).bridgeNext r d
  else s.translationFault q ⟨0x0B, 3, 0xA, q.va⟩

/-- How the bridge serves a request on host memory (R142, R145, R259 to R261, R489). -/
def State.bridgeServe (s : State) (q : HomeReq) (l : Leaf) : State :=
  let d := s.fillOfLeaf q.ctx l
  if d.policy ≠ 2 then
    if ownsHalves q.op then s.bridgeLine q l.pa 6 d
    else
      match q.op with
      | .sink _ _ _ _ => s.bridgeLine q l.pa (if s.waitsFill q && !s.halfHeld d.pa then 0 else 1) d
      | _ => s.bridgeLine q l.pa (if s.halfHeld d.pa then 1 else 0) d
  else
    match q.op with
    | .atom op _ =>
      if !(s.reg 0x10).getLsbD 0 then s.translationFault q ⟨0x0B, 3, 9, q.va⟩
      else if atomicOpPath op then s.toBridge q l.pa 3 0 (some d)
      else s.toBridge q l.pa 4 0 (some d)
    | .store _ => s.toBridge q l.pa 2 0 (some d)
    | _ => s.bridgeLine q l.pa (if ownsHalves q.op then 6 else 1) d

/-- Does a sink packet wait on no fill of its line, so that it runs where its translation leads (R144)? -/
def State.packetOnItsWay (s : State) (q : HomeReq) : Bool :=
  match q.op with
  | .sink _ _ _ _ => !s.waitsFill q
  | _ => false

/-- A controller serves a request (R125 to R127, R469): the walk gives a fill, a host path, or a fault; a line of a row that an
accepted NMCMD writes waits for that row (R180), and a request for a channel that its engine holds waits for the engine's next
window, unless the channel is `free` for it (R153). -/
def State.controllerServe (free : Bool) (s : State) (q : HomeReq) : State :=
  match s.translate q.ctx q.va with
  | .error b => s.translationFault q b
  | .ok l =>
    match leafFault q l with
    | some b => s.translationFault q b
    | none =>
      let s := s.cacheWalk q.ctx q.va
      if l.tbl then s.toBridge q (l.pa + 8 * bitsOf q.va 12 4) 8 0 (some { (default : FillData) with rd := l.rd, wr := l.wr, ex := l.ex })
      else if l.host then s.bridgeServe q l
      else if s.rowHeld q.who true l.pa then s.send .free (.translateRequest q)
      else
        match (engineOfPa l.pa).filter fun e => !free && s.channelBusy e with
        | some e => s.mapEngine e fun x => { x with waits := x.waits ++ [q] }
        | none =>
          if s.packetOnItsWay q then s.send .free (.sinkPacketAtSite q)
          else (s.countUnit 2 (controllerOfPa l.pa) 4 1 1).send .free
            (.homeFillComplete q (.filled (s.fillOfLeaf q.ctx l)))

/-- The requests that wait for a channel are served, if its engine does not hold it (R149, R153). -/
def State.easeChannel (s : State) (e : Nat) : State :=
  if s.channelBusy e then s
  else
    let ws := (s.engineAt e).waits
    if ws = [] then s else ws.foldl (State.controllerServe true) (s.mapEngine e fun x => { x with waits := [] })

/-- TRANSLATE_REQUEST (R125 to R127, R153, R180, R469, R273): a request arrives at its controller. -/
def execTranslateRequest (q : HomeReq) (s : State) : Host.Outcome State Fault Refusal :=
  let s := s.countUnit 2 (controllerOf q.va) 4 3 1
  let s := if (s.cachedLeaf q.ctx q.va).isNone then s.countUnit 2 (controllerOf q.va) 4 4 1 else s
  .next (s.controllerServe false q)

/-- Does a fault of a fill concern a request that waited on it (R471)? One of a permission, of device memory or of an atomic path
concerns the requests that need it; the others are translated on their own. -/
def concerns (b : BadAccess) (q : HomeReq) : Bool :=
  let n := opNeed q.op
  if b.cause ≠ 0x0B then true
  else match b.kind with
    | 2 => n.rd
    | 3 => n.wr
    | 4 => n.ex
    | 7 => opDeviceOnly q.op
    | 8 | 9 => (match q.op with
      | .atom _ _ => true
      | _ => false)
    | _ => true

/-- The fill of a line faults: each request that waited on it has its own fault reply (R471). -/
def State.fillFails (s : State) (b : BadAccess) (reqs : List HomeReq) : State :=
  reqs.foldl (fun s q => if concerns b q then s.fail q { b with va := q.va } else s.arrive q) s

/-- HOME_FILL_COMPLETE (R125, R133, R150, R471, R523): the fill of a line ends. On a fault the requests that waited fail; otherwise
they are performed in arrival order, on a line that is held nowhere for a streaming class. A line that home holds takes the
permissions found. A host line of which a half was lost meanwhile is not filled (R142). -/
def execHomeFillComplete (q : HomeReq) (r : FillResult) (s : State) : Host.Outcome State Fault Refusal :=
  let lid := lineId q.ctx q.va
  match s.fills.find? fun p => decide (p.1 = lid) with
  | none => .next s
  | some (_, reqs) =>
    let s := { s with fills := s.fills.filter fun p => decide (p.1 ≠ lid) }
    match r with
    | .bad b => .next (s.fillFails b reqs)
    | .filled d =>
      if d.policy = 2 ∧ (SMap.look s.l2 lid).isNone then
        .next (reqs.foldl (fun p x => match x.op with
          | .sink _ _ false _ => (p.1.send .free (.translateRequest x), p.2)
          | _ => State.serveTransient lid p x) (s, s.reread d)).1
      else if d.host ∧ !s.bothHalves d.pa then .next (reqs.foldl State.arrive s)
      else .next (reqs.foldl State.arrive (s.installLine lid (s.reread d)))

/-! ### At the cores: updates, invalidations and answers -/

/-- A line after outstanding crew-scope operations are applied to what home holds, in issue order (R171 step 5). -/
def reapply (ops : List NearOp) (x : Line) : Line :=
  (ops.filter NearOp.shown).foldl (fun x o =>
    let old := BitVec.ofNat 32 (lineNat x (o.va % 128) 4)
    setLineCells x (cellsOf o.va 4 (atomNew o.op old (BitVec.ofNat 32 o.data) 0).toNat)) x

/-- A core's own plain stores to a line that home performs after write `wid` stay visible to it (R159). -/
def mergeStores (stores : List PendStore) (lid wid : Nat) (x : Line) : Line :=
  stores.foldl (fun x p =>
    let later := match p.done with
      | none => true
      | some w => decide (wid ≤ w)
    if later && decide (lineId p.q.ctx p.q.va = lid) then
      match p.q.op with
      | .store n => setLineCells x (p.q.accs.flatMap fun a => cellsOf a.va n a.data)
      | _ => x
    else x) x

/-- The operations of a core as an update `wid` of a line leaves them: one that it performs is seen in home's value (R171 step 4). -/
def takeOps (lid wid : Nat) (ops : List NearOp) : List NearOp :=
  ops.map fun o => if o.lid = lid ∧ o.done = some wid then { o with shown := false } else o

/-- One line of an L1 takes an update (R138, R139, R160, R171): the home's words, then the core's own later stores, and each
crew-scope operation that home has not performed once more on top. -/
def updateLine (lid wid : Nat) (ops : List NearOp) (stores : List PendStore) (cells : List (Nat × Nat)) (x : L1Line) : L1Line :=
  let mine := cellsIn lid cells
  let here := ops.filter fun o => decide (o.lid = lid)
  let home := mergeStores stores lid wid (setLineCells (if here.any NearOp.shown then x.base else x.data) mine)
  { x with data := reapply (takeOps lid wid here) home, base := home, read := some false, unsettled := wid :: x.unsettled }

/-- What an acknowledgement of an update says of the update before it (R139): a line that the core no longer holds counts as
unread. -/
def State.lastRead (s : State) (core lid : Nat) : Option Bool :=
  match s.l1Line core lid with
  | some x => x.read
  | none => some false

/-- SHARER_UPDATE (R138 to R140, R167): every line of the update is updated at once and acknowledged, each with its own bit
of R139. -/
def execSharerUpdate (core wid ctx : Nat) (cells : List (Nat × Nat)) (s : State) : Host.Outcome State Fault Refusal :=
  let lids := dedupNat (cells.map fun c => lineId ctx c.1)
  let va := (cells.head?.map Prod.fst).getD 0
  let acks := lids.map fun lid => (lid, s.lastRead core lid)
  let stores := (s.coreAt core).stores
  let ops := (s.coreAt core).ops
  let s := lids.foldl (fun s lid => match s.l1Line core lid with
    | some x => s.mapCore core fun c => { c with l1 := SMap.put c.l1 lid (updateLine lid wid ops stores cells x) }
    | none => s) s
  let s := if ops = [] then s
    else s.mapCore core fun c => { c with ops := lids.foldl (fun l lid => takeOps lid wid l) c.ops }
  let s := acks.tail.foldl (fun s a =>
    s.send (.path core (sliceOf (lineVa a.1))) (.sharerAck core 0 ctx (canonOf (lineVa a.1)) a.2 false)) s
  .next (s.send (.path core (sliceOf va)) (.sharerAck core wid ctx va ((acks.head?.map Prod.snd).getD none) false))

/-- SHARER_INVALIDATE (R138, R140): the line is dropped and acknowledged; the pattern counter stands still (R139). -/
def execSharerInvalidate (core wid ctx va : Nat) (s : State) : Host.Outcome State Fault Refusal :=
  let s := s.mapCore core fun c => { c with l1 := SMap.drop c.l1 (lineId ctx va) }
  .next (s.send (.path core (sliceOf va)) (.sharerAck core wid ctx va none false))

/-- The pattern counter moves by what happened to the previous update (R139). -/
def patternStep (p : Nat) : Option Bool → Nat
  | none => p
  | some true => min (p + 1) 3
  | some false => p - 1

/-- A write has every acknowledgement: it is settled, its sharers are told, and its writer is answered (R138, R160). -/
def State.settle (s : State) (w : PendingWrite) : State :=
  let clean := fun (p : Nat × L2Line) => (p.1, { p.2 with unsettled := p.2.unsettled.filter (· ≠ w.wid) })
  let s := { s with writes := s.writes.filter (fun x => decide (x.wid ≠ w.wid)),
                    l2 := s.l2.map clean }
  let sl := sliceOf (lineVa w.lid)
  let s := (dedupNat w.notify).foldl (fun s c => s.send (.back sl c) (.settleNotice c w.wid)) s
  let s := match w.reply with
    | .writerAck q _ _ | .sinkResult q _ _ _ => s.answer q w.reply
    | .waitReturn k _ _ => s.send (.back sl (s.crewOf (SMap.get default s.teams k)).core) w.reply
    | r => s.send .free r
  w.more.foldl (fun s m => s.answer m.1 m.2) s

/-- SHARER_ACK (R138, R139): an acknowledgement or an eviction notice reaches home. -/
def execSharerAck (core wid ctx va : Nat) (used : Option Bool) (evict : Bool) (s : State) :
    Host.Outcome State Fault Refusal :=
  let lid := lineId ctx va
  let s := match SMap.look s.l2 lid with
    | some x =>
      let y := { x with pattern := patternStep x.pattern used,
                        sharers := if evict then x.sharers.filter (· ≠ core) else x.sharers }
      { s with l2 := SMap.put s.l2 lid y }
    | none => s
  if evict then .next s
  else
    match s.writes.find? fun w => decide (w.wid = wid) with
    | none => .next s
    | some w =>
      let w' := { w with waits := w.waits.erase core }
      if w'.waits = [] then .next (s.settle w')
      else .next { s with writes := s.writes.map (fun x => if x.wid = wid then w' else x) }

/-- SETTLE_NOTICE (R160): a value is settled for every reader on the core. -/
def execSettleNotice (core wid : Nat) (s : State) : Host.Outcome State Fault Refusal :=
  let clean := fun (x : L1Line) => { x with unsettled := x.unsettled.filter (· ≠ wid) }
  let s := s.mapCore core fun c => { c with l1 := c.l1.map fun p => (p.1, clean p.2) }
  let team := fun (t : Team) => { t with unsettled := t.unsettled.filter fun p => decide (p.1 ≠ .home wid) }
  .next { s with teams := s.teams.map fun p => (p.1, team p.2) }

/-- The line used longest ago among lines of an L1. -/
def oldestLine : SMap L1Line → Option (Nat × L1Line)
  | [] => none
  | p :: r => match oldestLine r with
    | none => some p
    | some q => if q.2.last < p.2.last then some q else some p

/-- An L1 whose set is full (16 lines) gives up the line of it that was used longest ago before it takes another (R134), with
an eviction notice (R139). -/
def State.roomL1 (s : State) (core lid : Nat) : State :=
  let l1 := (s.coreAt core).l1
  if l1.length < 16 then s
  else
    let set := l1.filter fun p => decide (Config.l1Set p.1 % 128 = Config.l1Set lid % 128)
    if set.length < 16 then s
    else
      match oldestLine set with
      | some (old, x) =>
        (s.mapCore core fun c => { c with l1 := SMap.drop c.l1 old }).send (.path core (sliceOf (lineVa old)))
          (.sharerAck core 0 (lineCtx old) (lineVa old) x.read true)
      | none => s

/-- An instruction cache whose set is full, at the latest when it holds 512 lines, gives up a line first (R134). -/
def roomICache (lines : SMap ILine) (tick : Nat) : SMap ILine :=
  if decide (lines.length ≥ 512) || (decide (lines ≠ []) && Config.conflict (tick + 2)) then
    match lines[Config.victim (tick + 3) % lines.length]? with
    | some (lid, _) => SMap.drop lines lid
    | none => lines
  else lines

/-- The operations of a core as a fill leaves them: those that home performed before it granted the fill are in it (R171). -/
def fillOps (lid stamp : Nat) (ops : List NearOp) : List NearOp :=
  ops.map fun o => match o.done with
    | some w => if o.lid = lid ∧ w < stamp then { o with shown := false } else o
    | none => o

/-- A fill reaches a core: an instruction cache takes the line, and an L1 takes it unless it holds it already (R134). -/
def State.takeFill (s : State) (q : HomeReq) (d : FillData) (wids : List Nat) : State :=
  let lid := lineId q.ctx q.va
  match q.op with
  | .fetch => s.mapCore q.core fun c =>
      { c with icache := SMap.put (roomICache (SMap.drop c.icache lid) s.tick) lid ⟨d.data, d.ex, BitVec.ofNat 8 d.poison⟩ }
  | _ =>
    match s.l1Line q.core lid with
    | some x => s.mapCore q.core fun c => { c with l1 := SMap.put c.l1 lid { x with rd := d.rd, wr := d.wr } }
    | none =>
      (s.roomL1 q.core lid).mapCore q.core fun c =>
        let ops := fillOps lid d.stamp c.ops
        let home := mergeStores c.stores lid d.stamp d.data
        let x : L1Line := { data := reapply (ops.filter fun o => decide (o.lid = lid)) home, base := home, rd := d.rd, wr := d.wr,
                            read := none, unsettled := wids, last := s.tick }
        { c with l1 := SMap.put c.l1 lid x, ops := ops }

/-- A reply reaches an outstanding instruction: values for some lanes, and a fault of the others (R470). Its lines are no longer
outstanding (R223, R438). -/
def State.replyTo (s : State) (k out : Nat) (q : HomeReq) (vals : List (Nat × Nat)) (bad : Option BadAccess) : State :=
  match SMap.look s.teams k with
  | none => s
  | some t =>
    match t.outs.find? fun o => decide (o.id = out) with
    | none => s
    | some o =>
      let o := { o with pend := o.pend - 1, got := o.got ++ vals,
                        lines := if isFetch o then o.lines else (reqLines q).foldl List.erase o.lines,
                        atHome := if actsAtHome q then (reqLines q).foldl List.erase o.atHome else o.atHome }
      let o := match bad with
        | none => o
        | some b =>
          let lanes := (q.accs.map LaneAcc.lane).filter fun l => !vals.any fun v => decide (v.1 = l)
          let va := ((q.accs.find? fun a => decide (a.lane = lanes.foldl min 1023)).map LaneAcc.va).getD b.va
          { o.addBad lanes { b with va := if opIsRow q.op then q.va else va } with badLines := o.badLines ++ reqLines q }
      let s := s.setTeam k { t with outs := t.outs.map (fun x => if x.id = out then o else x) }
      if o.pend = 0 then s.finishOut k o else s

/-- Is the fetch that a reply answers still wanted (R306)? -/
def State.fetchWanted (s : State) (q : HomeReq) : Bool :=
  match q.who with
  | .team k out => (SMap.get default s.teams k).outs.any fun o => decide (o.id = out)
  | _ => false

/-- Bytes of a host read. -/
def hostBytes : HomeOp → Nat
  | .load n => n
  | _ => 0

/-- A PREFETCH of a core is answered: its entry of the pool is free (R24). -/
def State.prefetchDone (s : State) (q : HomeReq) : State :=
  match q.who, q.op with
  | .nobody, .prefetch _ => s.mapCore q.core fun c => { c with prefetches := c.prefetches.erase (lineId q.ctx q.va) }
  | _, _ => s

/-- LOAD_REPLY (R344, R160, R227, R258): a fill and values return; a read of the host, an acquire at system scope, completes once what
it has read is settled. -/
def execLoadReply (q : HomeReq) (vals : List (Nat × Nat)) (fill : Option FillData) (unsettled : List Nat)
    (bad : Option BadAccess) (s : State) : Host.Outcome State Fault Refusal :=
  let s : State := match fill with
    | some d => if q.op = .fetch ∧ !s.fetchWanted q then s else s.takeFill q d unsettled
    | none => s
  let s := s.prefetchDone q
  match q.who with
  | .team k out =>
    let live := unsettled.filter fun w => s.writes.any fun x => decide (x.wid = w)
    let seen := live.map fun w => (SeenWrite.home w, opIsRow q.op)
    .next ((s.mapTeam k fun t => { t with unsettled := t.unsettled ++ seen }).replyTo k out q vals bad)
  | .host tag =>
    if unsettled.any fun w => s.writes.any fun x => decide (x.wid = w) then .next (s.send .free (.loadReply q vals fill unsettled bad))
    else .next { s with hostOut := s.hostOut ++
      [(tag, vals.flatMap fun v => (leBytes (hostBytes q.op) v.2).map BitVec.toNat)] }
  | _ => .next (s.unitReply q vals bad)

/-- A wait or an UNLOCK whose request failed: the team stays at the wait until its trap arrives, and it still holds what
it would have unlocked. -/
def Team.refuse (t : Team) (q : HomeReq) : Team :=
  match q.op, t.wait with
  | .lock _, some (.lock _) | .wreg _, some (.wreg _) | .tbWait _, some (.tb _) =>
    { t with wait := some (.stopped 0), stood := none, standing := none }
  | .unlock, _ =>
    let va := (q.accs.head?.map LaneAcc.data).getD q.va
    { t with holdings := t.holdings.map fun h => if h.isLock ∧ h.va = va then { h with released := false } else h }
  | _, _ => t

/-- A crew-scope operation is acknowledged, or refused: it is outstanding no longer, and the L1 copy is without one that home has
refused (R171). -/
def State.endNear (s : State) (k out : Nat) (q : HomeReq) : State :=
  let lid := lineId q.ctx q.va
  let mine := fun (o : NearOp) => decide (o.team = k ∧ o.out = out ∧ o.lid = lid ∧ o.va = q.va)
  let undo := (s.coreAt q.core).ops.any fun o => mine o && o.shown
  let s := s.mapCore q.core fun c => { c with ops := c.ops.filter fun o => !mine o }
  match s.l1Line q.core lid with
  | none => s
  | some x =>
    if undo then s.mapCore q.core fun c => { c with l1 := SMap.put c.l1 lid { x with data := reapply (s.lineOps q.core lid) x.base } }
    else s

/-- WRITER_ACK (R138, R170): a write is acknowledged, or an atomic returns its old values; those of an operation that L1
performed were returned there (R171). -/
def execWriterAck (q : HomeReq) (vals : List (Nat × Nat)) (bad : Option BadAccess) (s : State) :
    Host.Outcome State Fault Refusal :=
  match q.who with
  | .team k out =>
    let s := s.mapCore q.core fun c => { c with stores := c.stores.filter fun p => decide (p.q ≠ q) }
    let s := if bad.isSome then s.mapTeam k fun t => t.refuse q else s
    let near := match q.op with
      | .atom _ true => true
      | _ => false
    let s := if near then s.endNear k out q else s
    if near && bad.isNone then
      .next (s.replyTo k out { q with accs := [] } [] bad)
    else
      .next (s.replyTo k out q vals bad)
  | .host tag => .next { s with hostOut := s.hostOut ++ [(tag, [])] }
  | _ => .next (s.unitReply q vals bad)

/-- The answer of a wait ends the stalled instruction of a team, or completes it behind a team that a strike moved on
(R225, R359, R360). -/
def State.endWait (s : State) (k : Nat) (o : Outstanding) : State :=
  match SMap.look s.teams k with
  | none => s
  | some t =>
    let t := ({ t with outs := t.outs.filter (fun x => decide (x.id ≠ o.id)) } : Team).hold (acquireHold 4)
    let served := match t.standing with
      | some (.lock va) | some (.wreg va) | some (.tb va) => o.got.any fun p => decide (p.2 = va)
      | _ => false
    let t := { t with standing := if served then none else t.standing }
    let stands := match t.wait with
      | some (.lock _) | some (.wreg _) | some (.tb _) => decide (o.pc = t.pc)
      | _ => false
    if stands then
      let cur := s.cur
      let s : State := { s with cur := k }
      { (((s.setTeam k { t with wait := none }).advance).mapTeam k Team.follow) with cur := cur }
    else s.setTeam k t

/-- WAIT_RETURN (R359, R360, R364): a lock is granted or freed, a barrier phase is complete, a word has changed. -/
def execWaitReturn (team out : Nat) (r : WaitReply) (s : State) : Host.Outcome State Fault Refusal :=
  match (SMap.get default s.teams team).outs.find? fun o => decide (o.id = out) with
  | none => .next s
  | some o =>
    let va := (o.got.head?.map Prod.snd).getD 0
    match r with
    | .lockGranted => .next ((s.addHolding team va true).endWait team o)
    | .tbReleased => .next (s.endWait team o)
    | .wregValue v => .next ((s.mapTeam team fun t => t.putResult o.instr 0 v).endWait team o)
    | .unlocked => .next (s.mapTeam team fun t =>
        { (t.dropHolding va true) with outs := t.outs.filter (fun x => decide (x.id ≠ o.id)) })

end Sys2Proof.Machine
end

