-- ==== Sys2Proof/Machine/Sync.lean ====
section
/-!
DEFINITION. Synchronisation instructions, 0xB0 to 0xC6, 0xC8 to 0xCB (13_isa_memory_sync R357 to R372,
08_scheduling R218, R230 to R233, 23_exceptions_by_instruction R463, R464, 25_scheduling_failures R497 to R499): orders,
locks and explicit waits, execution and transaction barriers, pins and reclaim, budgets, launching, waiting for grids,
register blocks. The release that some of them perform before their effect is in the readiness of the step.
-/
namespace Sys2Proof.Machine

/-! ### Orders (R357) -/

/-- PHASE (R161, R162, R357). -/
def execPhase (s : State) : Host.Outcome State Fault Refusal :=
  s.issue .phase fun s => (s.mapMe fun t => t.hold (phaseHold t.scope)).advance

/-- PUB (R161, R357). -/
def execPub (s : State) : Host.Outcome State Fault Refusal :=
  s.issue .pub fun s => (s.mapMe fun t => t.hold (releaseHold t.scope)).advance

/-- ACQ (R160, R161, R357). -/
def execAcq (s : State) : Host.Outcome State Fault Refusal :=
  s.issue .acq fun s => (s.mapMe fun t => t.hold (acquireHold t.scope)).advance

/-- EFENCE (R177, R357). -/
def execEfence (s : State) : Host.Outcome State Fault Refusal :=
  s.issue .efence fun s => (s.mapMe fun t => t.hold efenceHold).advance

/-! ### Requests of synchronisation objects -/

/-- A request on an object of the running team: primary address, with the address the program named as lane 0's data. -/
def State.objectReq (s : State) (op : HomeOp) (va : Nat) : HomeReq :=
  let w := s.remapped s.myCore s.myCtx va
  ⟨.nobody, s.myCore, w.1, w.2, op, [⟨0, w.2, va, 0⟩]⟩

/-- The request of an instruction on an object leaves the core with its outstanding entry, or waits there behind a fault of its
line (R438). -/
def State.sendReq (s : State) (i : Instr) (cls : OutClass) (regs : List Nat) (got : List (Nat × Nat)) (q : HomeReq) :
    State :=
  let o := { newOut s.me i cls regs (reqLines q) with
               pend := 1, got := got, atHome := if actsAtHome q then reqLines q else [] }
  let s := s.mapMe fun t => { t with outs := t.outs ++ [o], nextOut := t.nextOut + 1 }
  s.emitOr o.id { q with who := .team s.cur o.id }

/-- Send one request of an instruction that goes on; 1 MBUD (R288). A non-canonical address sends none (R474). -/
def State.sendObject (s : State) (i : Instr) (cls : OutClass) (op : HomeOp) (va : Nat) : State :=
  if canonical va then
    let s := s.chargeMem 1
    s.sendReq i cls (regsWritten i) [] (s.objectReq op va)
  else s.sendOut i cls [] [] [(0, ⟨0x0B, 0, 5, va⟩)]

/-- Send the request of a wait and stall at it; the entry keeps the address named (R215, R359). A team that has sent it
already only stalls. -/
def State.sendWait (s : State) (i : Instr) (cls : OutClass) (op : HomeOp) (va : Nat) (o : WaitObj) : State :=
  if s.me.arrived then s.stall o true
  else if canonical va then
    let s := s.chargeMem 1
    (s.sendReq i cls (regsWritten i) [(0, va)] (s.objectReq op va)).stall o true
  else
    (s.sendOut i cls [] [] [(0, ⟨0x0B, 0, 5, va⟩)]).mapMe fun t => { t with wait := some (.stopped 0), stood := none }

/-- Is the answer to the wait at which the running team stood still on its way? -/
def State.waitOpen (s : State) : Bool := s.me.outs.any fun o => decide (o.pc = s.me.pc ∧ o.cls = .sync ∧ o.got ≠ [])

/-- An acquire at device scope. -/
def State.acquired (s : State) (scope : Nat) : State := s.mapMe fun t => t.hold (acquireHold scope)

/-- Alignment of a named object (R463). -/
def objectAlign (va n : Nat) : List (Nat × Nat) := if va % n ≠ 0 then [(0, va)] else []

/-- The first of two checks that fails. -/
def firstTrap (a b : Option TrapRec) : Option TrapRec := match a with
  | some r => some r
  | none => b

/-! ### Locks and explicit waits (R358 to R361) -/

/-- Does a team hold a lock, for its own LOCK and UNLOCK (R359)? -/
def Team.holdsLock (t : Team) (va : Nat) : Bool := t.holdings.any fun h => h.isLock && !h.released && decide (h.va = va)

/-- LOCK's limits (R463). A team whose request is already on its way is not checked again. -/
def lockCheck (a : Reg) (s : State) : Option TrapRec :=
  let t := s.me
  let va := t.addr a 0
  if t.arrived then none
  else
    firstTrap (limitTrap 0 (objectAlign va 8))
      (if t.holdsLock va then limitTrap 0x20 [(0, va)]
       else if t.holdingCount ≥ 8 then limitTrap 0x22 [(0, va)] else none)

/-- LOCK (R359): the wait is registered, the request sent, and WAIT_RETURN brings the grant. -/
def execLock (a : Reg) (s : State) : Host.Outcome State Fault Refusal :=
  s.issueWait (.lock a) (lockCheck a)
    (fun s => if s.me.arrived && !s.waitOpen then none else some (.lock (s.me.addr a 0)))
    fun s =>
      let va := s.me.addr a 0
      if s.me.arrived && !s.waitOpen then (s.acquired 4).advance
      else s.sendWait (.lock a) .sync (.lock (s.lockValue s.cur)) va (.lock va)

/-- UNLOCK's limits (R463). -/
def unlockCheck (a : Reg) (s : State) : Option TrapRec :=
  let va := s.me.addr a 0
  firstTrap (limitTrap 0 (objectAlign va 8)) (if s.me.holdsLock va then none else limitTrap 0x21 [(0, va)])

/-- UNLOCK (R359): the holding is marked released and the request sent. -/
def execUnlock (a : Reg) (s : State) : Host.Outcome State Fault Refusal :=
  s.issueIf (.unlock a) (unlockCheck a) fun s =>
    let va := s.me.addr a 0
    let s := s.mapMe fun t =>
      { t with holdings := t.holdings.map fun h => if h.isLock ∧ h.va = va then { h with released := true } else h }
    let s := s.chargeMem 1
    (s.sendReq (.unlock a) .store [] [(0, va)] (s.objectReq .unlock va)).advance

/-- WREG (R360). -/
def execWreg (d a b : Reg) (s : State) : Host.Outcome State Fault Refusal :=
  s.issueWait (.wreg d a b) (fun s => limitTrap 0 (objectAlign (s.me.addr a 0) 4))
    (fun s => if s.me.arrived && !s.waitOpen then none else some (.wreg (s.me.addr a 0)))
    fun s =>
      let va := s.me.addr a 0
      if s.me.arrived && !s.waitOpen then (s.acquired 4).advance
      else s.sendWait (.wreg d a b) .sync (.wreg (s.me.rd b 0).toNat) va (.wreg va)

/-- Does a team hold an address by WHOLD? -/
def Team.declared (t : Team) (va : Nat) : Bool := t.holdings.any fun h => !h.isLock && decide (h.va = va)

/-- WHOLD (R361, R463). -/
def execWhold (a : Reg) (s : State) : Host.Outcome State Fault Refusal :=
  s.issueIf (.whold a)
    (fun s => if !s.me.declared (s.me.addr a 0) && decide (s.me.holdingCount ≥ 8) then limitTrap 0x22 [(0, s.me.addr a 0)]
      else none)
    fun s => (if s.me.declared (s.me.addr a 0) then s else s.addHolding s.cur (s.me.addr a 0) false).advance

/-- WDROP (R361). -/
def execWdrop (a : Reg) (s : State) : Host.Outcome State Fault Refusal :=
  s.issue (.wdrop a) fun s => (s.mapMe fun t => t.dropHolding (t.addr a 0) false).advance

/-! ### Execution barriers (R47, R48, R362, R363) -/

/-- The barrier a level names for the running team. -/
def State.barId (s : State) (cluster : Bool) : BarId :=
  let c := s.myCrew
  if !cluster then .crew s.me.crew
  else if (s.gridAt c.grid).launch.kbar = 0 then .cluster c.grid (clusterOfCore c.core) else .group c.grid c.group

/-- Participants of the open phase, or those a phase opened now would have. -/
def State.phaseParts (s : State) (b : BarId) : List Nat :=
  let x := s.barAt b
  if x.opened then x.parts else s.barParts b

/-- Is the running team held because it became resident after the phase's first arrival (R48)? -/
def State.barHeld (s : State) (b : BarId) : Bool :=
  match b with
  | .cluster _ _ => (s.barAt b).opened && !(s.barAt b).parts.contains s.cur
  | _ => false

/-- The level code of a barrier instruction. -/
def levelCode (cluster : Bool) : Nat := if cluster then 1 else 0

/-- Participation and second arrivals (R463); a team held under R48 raises no trap. -/
def barCheck (cluster arrival : Bool) (s : State) : Option TrapRec :=
  let b := s.barId cluster
  if s.me.arrived ∨ s.barHeld b then none
  else if !(s.phaseParts b).contains s.cur then limitTrap 0x23 [(0, levelCode cluster)]
  else if arrival && (s.barAt b).arrived.contains s.cur then limitTrap 0x24 [(0, levelCode cluster)]
  else none

/-- Has phase `token` of a barrier completed (R363)? -/
def phaseOver (c token : Word) : Bool := decide (1 ≤ (c - token).toInt)

/-- Record the running team's arrival, opening the phase if it is the first (R363). -/
def State.arriveBar (s : State) (b : BarId) : State :=
  let x := s.barAt b
  let x := if x.opened then x else { x with opened := true, parts := s.barParts b, arrived := [] }
  s.setBar b (Bar.settle { x with arrived := s.cur :: x.arrived } (s.unplaced b))

/-- Level scope: crew or cluster (R363). -/
def levelScope (cluster : Bool) : Nat := if cluster then 2 else 1

/-- The phase at which a team that resumes at a barrier wait stands. -/
def Team.token (t : Team) (new : Word) : Word := match t.waitsOn with
  | some (.barrier _ tok) => tok
  | _ => new

/-- BAR (R363): arrival, then the wait for the phase, as one PHASE at level scope. -/
def execBar (lvl : Bool) (s : State) : Host.Outcome State Fault Refusal :=
  s.issueWait (.bar lvl) (barCheck lvl true)
    (fun s =>
      let b := s.barId lvl
      if s.barHeld b && !s.me.arrived then none else some (.barrier b (s.me.token (s.barAt b).c)))
    fun s =>
      let b := s.barId lvl
      let tok := s.me.token (s.barAt b).c
      if !s.me.arrived && s.barHeld b then s.stall (.heldPhase b) false
      else
        let s := if s.me.arrived then s else s.arriveBar b
        if phaseOver (s.barAt b).c tok then (s.acquired (levelScope lvl)).advance else s.stall (.barrier b tok) true

/-- BARARR (R363). -/
def execBararr (d : Reg) (lvl : Bool) (s : State) : Host.Outcome State Fault Refusal :=
  s.issueIf (.bararr d lvl) (barCheck lvl true) fun s =>
    let b := s.barId lvl
    if s.barHeld b then s.stall (.heldPhase b) false
    else ((s.mapMe fun t => t.wr d 0 (s.barAt b).c).arriveBar b).advance

/-- BARWAIT (R363). -/
def execBarwait (a : Reg) (lvl : Bool) (s : State) : Host.Outcome State Fault Refusal :=
  s.issueWait (.barwait a lvl) (barCheck lvl false)
    (fun s =>
      let b := s.barId lvl
      let tok := s.me.rd a 0
      if phaseOver (s.barAt b).c tok then none else some (.barrier b tok))
    fun s =>
      let b := s.barId lvl
      let tok := s.me.rd a 0
      if phaseOver (s.barAt b).c tok then (s.acquired (levelScope lvl)).advance else s.stall (.barrier b tok) true

/-! ### Transaction barriers (R246, R247, R364) -/

/-- Limits of a barrier operation with a count of at least `least` (R463). -/
def tbCheck (a b : Reg) (least : Nat) (s : State) : Option TrapRec :=
  let n := (s.me.rd64 b 0).toNat
  firstTrap (limitTrap 0 (objectAlign (s.me.addr a 0) 16))
    (if n < least ∨ 2 ^ 48 ≤ n then limitTrap 0x25 [(0, n)] else none)

/-- TBINIT (R364). -/
def execTbinit (a b : Reg) (s : State) : Host.Outcome State Fault Refusal :=
  s.issueIf (.tbinit a b) (tbCheck a b 0) fun s =>
    (s.sendObject (.tbinit a b) .store (.tbInit (s.me.rd64 b 0).toNat) (s.me.addr a 0)).advance

/-- TBEXP (R364, R464). -/
def execTbexp (a b : Reg) (s : State) : Host.Outcome State Fault Refusal :=
  s.issueIf (.tbexp a b) (tbCheck a b 1) fun s =>
    (s.sendObject (.tbexp a b) .store (.tbExpect (s.me.rd64 b 0).toNat) (s.me.addr a 0)).advance

/-- TBARR (R161, R364). -/
def execTbarr (a b : Reg) (s : State) : Host.Outcome State Fault Refusal :=
  s.issueIf (.tbarr a b) (tbCheck a b 1) fun s =>
    (s.sendObject (.tbarr a b) .store (.tbArrive (s.me.rd64 b 0).toNat) (s.me.addr a 0)).advance

/-- TBWAIT (R364): the home answers when the phase has passed. -/
def execTbwait (a b : Reg) (s : State) : Host.Outcome State Fault Refusal :=
  s.issueWait (.tbwait a b) (fun s => limitTrap 0 (objectAlign (s.me.addr a 0) 16))
    (fun s => if s.me.arrived && !s.waitOpen then none else some (.tb (s.me.addr a 0)))
    fun s =>
      let va := s.me.addr a 0
      if s.me.arrived && !s.waitOpen then (s.acquired 4).advance
      else s.sendWait (.tbwait a b) .sync (.tbWait ((s.me.rd b 0).getLsbD 0)) va (.tb va)

/-- TBTEST (R364). -/
def execTbtest (d a : Reg) (s : State) : Host.Outcome State Fault Refusal :=
  s.issueIf (.tbtest d a) (fun s => limitTrap 0 (objectAlign (s.me.addr a 0) 16)) fun s =>
    (s.sendObject (.tbtest d a) .load .tbTest (s.me.addr a 0)).advance

/-! ### Pins and reclaim (R230, R365 to R367) -/

/-- The name rule of R365. -/
def nameCheck (a : Reg) (s : State) : Option TrapRec :=
  let n := (s.me.rd64 a 0).toNat
  if n = 0 ∨ 2 ^ 48 ≤ n then limitTrap 0x27 [(0, n)] else none

/-- A slot of a team. -/
def Team.slotAt (t : Team) (n : Nat) : PinSlot := SMap.get {} t.pins n

/-- A slot takes a name: running searches for it may see it (R230), and the name it held counts as unpinned (R366). -/
def State.pinSlot (s : State) (k n : Nat) (name : BitVec 48) : State :=
  match SMap.look s.teams k with
  | none => s
  | some t =>
    let old := t.slotAt n
    let s := s.setTeam k { t with pins := SMap.set {} t.pins n ⟨true, name⟩ }
    let s := if old.name = name ∧ old.valid then s else s.slotChanged k n
    let s : State := { s with searches := s.searches.map fun x => if x.name = name then { x with seen := true } else x }
    if old.valid then s.rescanFor old.name else s

/-- A slot is cleared (R366). -/
def State.unpinSlot (s : State) (k n : Nat) : State :=
  match SMap.look s.teams k with
  | none => s
  | some t =>
    let old := t.slotAt n
    let s := (s.setTeam k { t with pins := SMap.set {} t.pins n {} }).slotChanged k n
    if old.valid then s.rescanFor old.name else s

/-- Does an outstanding entry stand for an UNPIN of slot `n` that waits for earlier accesses (R366)? -/
def isUnpin (n : Nat) (o : Outstanding) : Bool := decide (o.instr = .unpin (Fin.ofNat 4 n))

/-- PIN (R366). -/
def execPin (n : Fin 4) (a : Reg) (s : State) : Host.Outcome State Fault Refusal :=
  s.issueIf (.pin n a) (nameCheck a) fun s =>
    let name := (s.me.rd64 a 0).extractLsb' 0 48
    let s := s.mapMe fun t => { t with outs := t.outs.filter fun o => !isUnpin n.val o }
    (s.pinSlot s.cur n.val name).advance

/-- Must a release wait for an outstanding entry (R162)? Reads and writes of memory count; a wait whose answer has not come,
a search and a launch do not. -/
def releaseWaits (o : Outstanding) : Bool := !isFetch o && decide (o.cls ≠ .launch ∧ o.cls ≠ .sync)

/-- Does an NMCMD of a team wait for a place of its engine? -/
def State.cmdWaits (s : State) (k : Nat) : Bool :=
  s.chans.any fun p => p.2.queue.any fun b => decide (b.pid = none ∧ b.team = some k)

/-- Has an access of a team before entry `id` not completed (R366): one on its way, one that faulted and is still to be issued
again (R470), or an NMCMD that no engine has accepted (R162)? -/
def State.accessOpen (s : State) (k : Nat) (t : Team) (id : Nat) : Bool :=
  t.outs.any (fun x => releaseWaits x && (decide (x.id < id) || x.old)) || t.againDue || s.cmdWaits k

/-- UNPIN (R366): the slot is cleared at once, or once the team's earlier accesses are complete; later accesses do not
wait for it. -/
def execUnpin (n : Fin 4) (s : State) : Host.Outcome State Fault Refusal :=
  s.issue (.unpin n) fun s =>
    let t := s.me
    if s.accessOpen s.cur t t.nextOut then
      let o := { newOut t (.unpin n) .launch [] [] with pend := 1 }
      (s.setMe { t with outs := t.outs ++ [o], nextOut := t.nextOut + 1 }).advance
    else (s.unpinSlot s.cur n.val).advance

/-- The slots of all resident teams that hold a name. -/
def State.slotsWith (s : State) (name : BitVec 48) : List (Nat × Nat) :=
  s.teams.flatMap fun p => (p.2.pins.filter fun q => q.2.valid && decide (q.2.name = name)).map fun q => (p.1, q.1)

/-- Start a Sage search (R230). -/
def State.startSearch (s : State) (name : BitVec 48) (ctx part : Nat) (kind : SearchKind) : State :=
  let held := s.slotsWith name
  let x : Search := { id := s.nextId, name := name, ctx := ctx, part := part, kind := kind, held := held, seen := decide (held ≠ []) }
  ({ s with searches := s.searches ++ [x], nextId := s.nextId + 1 } : State).send .free (.sageSearchDone x.id)

/-- A search for the running team, its outstanding entry made (R367); a 17th search waits (R215, R230). -/
def State.sageSearch (s : State) (i : Instr) (name : BitVec 48) (kind : Nat → SearchKind) (counts : Bool) : State :=
  if s.searches.length ≥ 16 then s.stall .sage false
  else
    let t := s.me
    let part := (s.gridOf t).part
    let s := if counts then (s.chargeMem 1).countPart part 8 1 else s
    let o := { newOut s.me i .launch (regsWritten i) [] with pend := 1 }
    let s := s.mapMe fun t => { t with outs := t.outs ++ [o], nextOut := t.nextOut + 1 }
    (s.startSearch name s.myCtx part (kind o.id)).advance

/-- RECLAIM (R367, R463): it starts once its release is complete (readiness of the step). -/
def execReclaim (d a b : Reg) (s : State) : Host.Outcome State Fault Refusal :=
  s.issueIf (.reclaim d a b)
    (fun s => firstTrap (limitTrap 0 (objectAlign (s.me.addr b 0) 256)) (nameCheck a s))
    fun s =>
      let queue := s.me.addr b 0
      s.sageSearch (.reclaim d a b) ((s.me.rd64 a 0).extractLsb' 0 48) (fun o => .reclaim s.cur o queue) true

/-- PINQ (R367). -/
def execPinq (d a : Reg) (s : State) : Host.Outcome State Fault Refusal :=
  s.issueIf (.pinq d a) (nameCheck a) fun s =>
    s.sageSearch (.pinq d a) ((s.me.rd64 a 0).extractLsb' 0 48) (fun o => .pinq s.cur o) false

/-! ### Budgets (R59, R368) -/

/-- Is a grid running? -/
def State.gridRuns (s : State) (h : Nat) : Bool := (SMap.look s.grids h).isSome && !(s.gridAt h).killed

/-- TOPUP (R368). -/
def execTopup (a b : Reg) (s : State) : Host.Outcome State Fault Refusal :=
  s.issueIf (.topup a b)
    (fun s =>
      let h := (s.me.rd a 0).toNat
      if s.supervisor ∨ (s.myGrid.launch.poolown ∧ h = s.myCrew.grid) then none else some (preciseTrap 9 1 h 0))
    fun s =>
      let h := (s.me.rd a 0).toNat
      let s := if s.gridRuns h then s.refill h (s.me.rd b 0).toNat (s.me.rd (regAt b 1) 0).toNat else s
      s.advance

/-- BGRANT (R368, R463). -/
def execBgrant (d a b : Reg) (s : State) : Host.Outcome State Fault Refusal :=
  s.issueIf (.bgrant d a b)
    (fun s =>
      let h := (s.me.rd a 0).toNat
      if s.gridRuns h && decide ((s.gridAt h).parent ≠ some s.myCrew.grid) then limitTrap 0x33 [(0, h)] else none)
    fun s =>
      let t := s.me
      let h := (t.rd a 0).toNat
      let own := s.poolGrid s.myCrew.grid
      let runs := s.gridRuns h
      let gi := if runs then min (t.rd b 0).toNat (s.gridAt own).ipool else 0
      let gm := if runs then min (t.rd (regAt b 1) 0).toNat (s.gridAt own).mpool else 0
      let s := s.mapMe fun t => (t.wr d 0 (BitVec.ofNat 32 gi)).wr (regAt d 1) 0 (BitVec.ofNat 32 gm)
      let s := if runs ∧ s.poolGrid h ≠ own then
          (s.mapGrid own fun g => { g with ipool := g.ipool - gi, mpool := g.mpool - gm }).refill h gi gm
        else if runs then s.servePool own else s
      s.advance

/-! ### Launching and waiting for grids (R49, R370, R371) -/

/-- LAUNCH's limits (R463). -/
def launchCheck (a : Reg) (s : State) : Option TrapRec :=
  firstTrap (limitTrap 0 (objectAlign (s.me.addr a 0) 128))
    (if s.myGrid.depth ≥ 15 then some (preciseTrap 8 0x30 0 0 1)
     else if s.me.idx ≠ 0 then some (preciseTrap 8 0x31 0 0 1) else none)

/-- LAUNCH (R370): after its PUB the record is handed to the launch unit. -/
def execLaunch (d a b : Reg) (s : State) : Host.Outcome State Fault Refusal :=
  s.issueIf (.launch d a b) (launchCheck a) fun s =>
    let s := s.chargeMem 1
    let t := s.me
    let g := s.myCrew.grid
    let part := (s.gridAt g).part
    let o := { newOut t (.launch d a b) .launch (regsWritten (.launch d a b)) [] with pend := 1 }
    let r : LaunchReq := { team := s.cur, out := o.id, grid := g, ctx := s.myCtx, addr := t.addr a 0,
                           args := if b.code = 255 then none else some (t.rd64 b 0) }
    let s := s.setMe { t.hold (releaseHold 4) with outs := t.outs ++ [o], nextOut := t.nextOut + 1 }
    let s : State := { s with launches := s.launches ++ [(part, r)] }
    (s.send .free (.acceptLaunchRecord part)).advance

/-- The ancestors of a grid, itself among them (R49). -/
def State.lineage (s : State) : Nat → Nat → List Nat
  | 0, h => [h]
  | n + 1, h => h :: (match (s.gridAt h).parent with
    | some p => s.lineage n p
    | none => [])

/-- Does a handle name the team's own grid, an ancestor, or an instance that one of them is a node of (R499)? -/
def State.ownLineage (s : State) (h : Nat) : Bool :=
  (s.lineage 15 s.myCrew.grid).any fun g => decide (g = h) || decide ((s.gridAt g).inst.map Prod.fst = some h)

/-- Does a handle name something running (R371)? -/
def State.handleRuns (s : State) (h : Nat) : Bool :=
  s.gridRuns h || (match SMap.look s.insts h with
    | some x => !x.killed
    | none => false)

/-- GWAIT (R371, R499). -/
def execGwait (a : Reg) (s : State) : Host.Outcome State Fault Refusal :=
  s.issueWait (.gwait a)
    (fun s => if s.ownLineage (s.me.rd a 0).toNat then some (preciseTrap 0x0C 1 (s.me.rd a 0).toNat 0) else none)
    (fun s => if s.handleRuns (s.me.rd a 0).toNat then some (.grid (s.me.rd a 0)) else none)
    fun s => if s.handleRuns (s.me.rd a 0).toNat then s.stall (.grid (s.me.rd a 0)) true else (s.acquired 4).advance

/-! ### Register blocks (R86 to R88, R372) -/

/-- Blocks a team holds: P × W / 8; a wholly saved team holds none (R86, R505). -/
def Team.blocks (t : Team) : Nat := if t.place = .saved then 0 else t.passes * t.window / 8

/-- Blocks of a core's pool (R88). -/
def State.freeBlocks (s : State) (core : Nat) : Nat :=
  1024 - (s.teams.filter fun p => decide ((s.crewOf p.2).core = core)).foldl (fun n p => n + p.2.blocks) 0

/-- Are there outstanding writes into the registers that GIVEBACK removes (R372)? -/
def Team.writesComing (t : Team) (n : Nat) : Bool :=
  t.outs.any fun o => o.regs.any fun c => decide (t.window - 8 * n ≤ c ∧ c < t.window)

/-- GIVEBACK (R87, R372): the contents of the removed registers are lost, the core pool serves its claims, and what is left
may hold a crew (R213). -/
def execGiveback (n : Fin 32) (s : State) : Host.Outcome State Fault Refusal :=
  s.issueIf (.giveback n)
    (fun s => if s.me.window < 8 * n.val + 8 then
        limitTrap 0x34 [(0, wrapNat 32 ((s.me.window : Int) - 8 * n.val))] else none)
    fun s =>
      if s.me.writesComing n.val then s.stall (.giveback n.val) false
      else
        let s := s.mapMe fun t =>
          { t with window := t.window - 8 * n.val,
                   vregs := t.vregs.filter fun p => decide (p.1 < 1024 * (t.window - 8 * n.val)) }
        ((s.send .free (.claimGrant s.myCore)).send .free (.crewPlace (clusterOfCore s.myCore))).advance

/-- The blocks that a team claims and has not been granted: it waits for them, or a strike left its claim standing (R88, R225). -/
def Team.claims (t : Team) : Option Nat := match t.waitsOn with
  | some (.pool n) => some n
  | _ => none

/-- Claims of a core that are registered, in the order in which the pool serves them (R88). -/
def State.claimQueue (s : State) (core : Nat) : List Nat :=
  let ks := (s.teams.filter fun p => decide ((s.crewOf p.2).core = core ∧ p.2.place = .resident) && p.2.claims.isSome).map Prod.fst
  sortBy (fun k =>
    let t := SMap.get default s.teams k
    (15 - s.effPrio k) * 2 ^ 64 + (if t.standing.isSome then t.standSince else t.waitSince)) ks

/-- The window grows by whole groups, which read zero (R87). -/
def Team.grow (t : Team) (blocks : Nat) : Team := { t with window := t.window + 8 * blocks / t.passes }

/-- Can the core pool grant a claim of the running team now (R88)? It must stand before every other claim. -/
def State.claimNow (s : State) (need : Nat) : Bool :=
  decide (need ≤ s.freeBlocks s.myCore) && (match s.claimQueue s.myCore with
    | [] => true
    | k :: _ => decide (k = s.cur ∨ s.effPrio k < s.effPrio s.cur))

/-- Has the claim of the running team been granted while a strike had moved it from its CLAIM (R225)? -/
def State.claimServed (s : State) : Bool := s.me.arrived && s.me.claims.isNone

/-- CLAIM (R87, R372): granted whole at once when no claim stands before it, else it waits on the core pool. -/
def execClaim (n : Fin 32) (s : State) : Host.Outcome State Fault Refusal :=
  s.issueWait (.claim n)
    (fun s => if !s.me.arrived ∧ s.me.window + 8 * n.val > 192 then limitTrap 0x34 [(0, s.me.window + 8 * n.val)] else none)
    (fun s => if s.claimServed || s.claimNow (s.me.passes * n.val) then none else some (.pool (s.me.passes * n.val)))
    fun s =>
      let need := s.me.passes * n.val
      if s.claimServed then s.advance
      else if s.claimNow need then (s.mapMe fun t => t.grow need).advance else s.stall (.pool need) true

/-- Serve registered claims in order, whole, stopping at the first that the pool cannot grant (R88). One that its team has left
standing is granted where the team is now (R225). -/
def State.grantClaims (s : State) (core : Nat) : List Nat → State
  | [] => s
  | k :: r =>
    let t := SMap.get default s.teams k
    match t.claims with
    | some need =>
      if need ≤ s.freeBlocks core then
        if t.wait = some (.pool need) then
          let cur := s.cur
          let s : State := { s with cur := k }
          let s := ((s.setMe { t.grow need with wait := none }).advance).mapMe Team.follow
          State.grantClaims { s with cur := cur } core r
        else State.grantClaims (s.setTeam k { t.grow need with standing := none }) core r
      else s
    | none => State.grantClaims s core r

/-- May the pool of a core grant its first claim (R88)? -/
def State.claimDue (s : State) (core : Nat) : Bool :=
  match s.claimQueue core with
  | [] => false
  | k :: _ => decide (((SMap.get default s.teams k).claims).getD 0 ≤ s.freeBlocks core)

/-- CLAIM_GRANT (R88); where no claim waits any more, crews may be placed again (R213). -/
def execClaimGrant (core : Nat) (s : State) : Host.Outcome State Fault Refusal :=
  .next ((s.grantClaims core (s.claimQueue core)).send .free (.crewPlace (clusterOfCore core)))

end Sys2Proof.Machine
end

