-- ==== Sys2Proof/Machine/Place.lean ====
section
/-!
DEFINITION. Dealing, placing, striking, saving and restoring crews (02_execution R40 to R48, R55 to R58, 03_state R86 to
R92, 08_scheduling R212 to R214, R225 to R229, R231, R232, 22_failure_model R446, 25_scheduling_failures R505, R506,
R512, R516).
-/
namespace Sys2Proof.Machine

/-! ### What a core has to give -/

/-- Is a core fenced (R446)? -/
def State.isFenced (s : State) (core : Nat) : Bool := (s.reg (0x17000 + 8 * (core / 64))).getLsbD (core % 64)

/-- Cores of a cluster that are not fenced. -/
def State.coresOf (s : State) (cluster : Nat) : List Nat :=
  ((List.range 4).map fun i => 4 * cluster + i).filter fun c => !s.isFenced c

/-- Clusters of a partition. -/
def State.clustersOf (s : State) (part : Nat) : List Nat :=
  (List.range 64).filter fun c => decide (s.partOfCluster c = part)

/-- Crews whose region stands on a core. -/
def State.crewsOn (s : State) (core : Nat) : List (Nat × Crew) :=
  s.crews.filter fun p => decide (p.2.core = core) && !p.2.exited && !p.2.taken

def State.freeLocal (s : State) (core : Nat) : Nat :=
  524288 - (s.crewsOn core).foldl (fun n p => n + p.2.localBytes) 0
def State.freeRows (s : State) (core : Nat) : Nat := 512 - (s.crewsOn core).foldl (fun n p => n + p.2.accRows) 0

/-- Teams that hold a slot of a core. -/
def State.slotTeams (s : State) (core : Nat) : List (Nat × Team) :=
  s.teams.filter fun p => decide ((s.crewOf p.2).core = core ∧ p.2.place ≠ .saved)

def State.freeSlots (s : State) (core : Nat) : Nat := 128 - (s.slotTeams core).length

/-- Blocks of a team at its start (R38). -/
def LaunchRec.teamBlocks (r : LaunchRec) : Nat := ceilDiv r.lanes 32 * r.vregs / 8

/-- Has a core room for a crew (R213)? Its stalled claims are served first (R88). -/
def State.coreFits (s : State) (r : LaunchRec) (core : Nat) : Bool :=
  decide (r.crewTeams * r.teamBlocks ≤ s.freeBlocks core) && decide (s.claimQueue core = []) &&
    decide (r.localBytes ≤ s.freeLocal core) && decide (r.accRows ≤ s.freeRows core) &&
    decide (r.crewTeams ≤ s.freeSlots core) && !s.hot.contains (dieOfCore core)

/-- The first of a list with the largest value. -/
def firstMax (f : Nat → Nat) : List Nat → Option Nat
  | [] => none
  | x :: r => match firstMax f r with
    | none => some x
    | some y => if f x < f y then some y else some x

/-- The core of a cluster that takes a crew: most free blocks, lowest number (R213). -/
def State.pickCore (s : State) (r : LaunchRec) (cluster : Nat) : Option Nat :=
  firstMax s.freeBlocks ((s.coresOf cluster).filter (s.coreFits r))

/-- A free slot of a core in the issue partition with the fewest resident teams, lowest partition (R213): its lowest free slot
(DESIGN CHOICE, log entry 129). -/
def State.pickSlot (s : State) (core : Nat) : Nat :=
  let used := (s.slotTeams core).map fun p => p.2.slot
  let inPart := fun (p : Nat) => (used.filter fun x => decide (x / 32 = p)).length
  let p := (firstMax (fun p => 32 - inPart p) [0, 1, 2, 3]).getD 0
  (((List.range 32).map fun i => 32 * p + i).find? fun x => !used.contains x).getD (32 * p)

/-! ### Starting a crew -/

/-- ROLE of a team (R45). -/
def roleOf (r : LaunchRec) (i : Nat) : Nat :=
  if i < r.nload then 0 else if i < r.nload + r.ncomp then 1 else if i < r.nload + r.ncomp + r.nstore then 2 else 3

/-- A team at its start (R41, R56). -/
def startTeam (r : LaunchRec) (crew i slot : Nat) (tasks : List (List Word)) : Team :=
  let t : Team := { crew := crew, idx := i, lanes := r.lanes, role := roleOf r i, slot := slot,
                    pc := BitVec.ofNat 32 r.entry, window := r.vregs }
  let t := { t with mask := t.laneSet }
  let t := (t.writeS 0 (r.args.extractLsb' 0 32)).writeS 1 (r.args.extractLsb' 32 32)
  let put := fun (t : Team) (p : List Word × Nat) =>
    (p.1.mapIdx fun j w => (j, w)).foldl (fun t q => t.writeV q.1 p.2 q.2) t
  (tasks.mapIdx fun l ws => (ws, l)).foldl put t

/-- Newly placed teams of a placement group take part in the phase of its barrier that is open (R48). -/
def State.joinGroup (s : State) (grid group : Nat) : State :=
  let b := BarId.group grid group
  let x := s.barAt b
  if x.opened then
    s.setBar b { x with parts := x.parts ++ (s.barParts b).filter fun k => !x.parts.contains k }
  else s

/-- A crew is placed on a core, and its teams draw their budgets (R60, R213). -/
def State.placeCrew (s : State) (b : Ccb) (core : Nat) : State :=
  let g := s.gridAt b.grid
  let r := g.launch
  let k := s.nextId
  let grouped := decide (r.kbar ≠ 0)
  let c : Crew := { grid := b.grid, num := b.num, ctx := g.ctx, core := core, teams := r.crewTeams,
                    localBytes := r.localBytes, accRows := r.accRows,
                    group := if grouped then b.num / groupCrews r else 0,
                    rank := if grouped then b.num % groupCrews r else 0, acceptedAt := g.accepted }
  let s : State := { s with nextId := k + 1, crews := SMap.put s.crews k c }
  let ks := (List.range r.crewTeams).map (teamKey k)
  let s := (List.range r.crewTeams).foldl (fun s i =>
    s.setTeam (teamKey k i) (startTeam r k i (s.pickSlot core) b.tasks)) s
  ks.foldl (fun s j => s.topUp j true) (s.joinGroup b.grid c.group)

/-! ### Dealing blocks to clusters (R212) -/

/-- Put a block behind those that come before it: descending PRIO, order of acceptance, ascending CREW. -/
def State.blockBefore (s : State) (a b : Ccb) : Bool :=
  let x := s.gridAt a.grid
  let y := s.gridAt b.grid
  decide (x.launch.prio > y.launch.prio) || (decide (x.launch.prio = y.launch.prio) &&
    (decide (x.accepted < y.accepted) || (decide (x.accepted = y.accepted) && decide (a.num ≤ b.num))))

def State.queueBlock (s : State) (b : Ccb) (cluster : Nat) : State :=
  let b := { b with since := s.nextId }
  let s : State := { s with nextId := s.nextId + 1 }
  s.mapCluster cluster fun c =>
    let before := c.ccbs.takeWhile fun x => s.blockBefore x b
    { c with ccbs := before ++ [b] ++ c.ccbs.drop before.length }

/-- The grid of a partition whose crews are dealt next. -/
def State.nextDealt (s : State) (part : Nat) : Option Nat :=
  (s.grids.filter fun p => decide (p.2.part = part ∧ p.2.dealt < p.2.launch.crews) && !p.2.hidden && !p.2.killed).foldl
    (fun acc p => match acc with
      | none => some p.1
      | some h => if s.blockBefore ⟨p.1, 0, [], 0⟩ ⟨h, 0, [], 0⟩ then some p.1 else some h) none

/-- The cluster that takes the next block: an unfenced core, fewer than 64 blocks, the fewest of all, the lowest. -/
def State.dealTo (s : State) (part : Nat) : Option Nat :=
  firstMax (fun c => 64 - (s.clusterAt c).ccbs.length)
    ((s.clustersOf part).filter fun c => decide ((s.clusterAt c).ccbs.length < 64 ∧ s.coresOf c ≠ []))

/-- Deal the pending crews of a partition, a placement group as a whole (R48, R212). -/
def State.dealFor (s : State) (part : Nat) : Nat → State
  | 0 => s
  | n + 1 =>
    match s.nextDealt part, s.dealTo part with
    | some h, some c =>
      let g := s.gridAt h
      let m := min (if g.launch.kbar = 0 then 1 else groupCrews g.launch) (g.launch.crews - g.dealt)
      let s := (List.range m).foldl (fun s i => s.queueBlock ⟨h, g.dealt + i, [], 0⟩ c) s
      let s := s.mapGrid h fun g => { g with dealt := g.dealt + m }
      State.dealFor (s.send .free (.crewPlace c)) part n
    | _, _ => s

def State.deal (s : State) (part : Nat) : State := s.dealFor part 4096

/-- Deal the blocks and task groups of clusters again (R516). -/
def State.redeal (s : State) (part : Nat) (b : Ccb) : State :=
  match s.dealTo part with
  | some c => (s.queueBlock b c).send .free (.crewPlace c)
  | none => s.queueBlock b ((s.clustersOf part).headD 0)

/-! ### Strikes (R225) and eviction (R214, R226, R228) -/

/-- Has a team yielded already: parked on its pools, for its gang or in BWAITY, or being saved or saved? -/
def Team.yielded (t : Team) : Bool := decide (t.place ≠ .resident) || (match t.wait with
  | some (.budget _) | some .gangYield | some (.batchesYield _ _) => true
  | _ => false)

/-- STRIKE: both budgets go to zero in one clk. A team that stands at a wait yields before its instruction; one that has
yielded already does not yield again. -/
def State.strikeTeams (s : State) (ks : List Nat) : State :=
  ks.foldl (fun s k => s.mapTeam k fun t => { t with ibud := 0, mbud := 0, struck := t.struck || !t.yielded }) s

/-- Eviction units of a core: gangs, and teams outside gangs; as lists of team keys. -/
def State.evictionUnits (s : State) (core : Nat) : List (List Nat) :=
  let here := (s.teams.filter fun p => decide ((s.crewOf p.2).core = core ∧ p.2.place = .resident) && !p.2.evict).map Prod.fst
  here.filterMap fun k =>
    let t := SMap.get default s.teams k
    match s.gangOf t with
    | none => some [k]
    | some g =>
      let ks := s.gangKeys t.crew g
      if ks.head? = some k then some ks else none

/-- Effective priority of a unit: the largest of its members. -/
def State.unitPrio (s : State) (u : List Nat) : Nat := u.foldl (fun m k => max m (s.effPrio k)) 0

/-- Order of eviction (R226): ascending effective priority, youngest acceptance, highest CREW, highest TEAM of the lowest
member. -/
def State.unitKey (s : State) (u : List Nat) : Nat :=
  let t := SMap.get default s.teams (u.headD 0)
  let c := s.crewOf t
  ((s.unitPrio u * 2 ^ 64 + (2 ^ 64 - 1 - c.acceptedAt % 2 ^ 64)) * 2 ^ 24 + (2 ^ 24 - 1 - c.num % 2 ^ 24)) * 16 + (15 - t.idx % 16)

def insertUnit (f : List Nat → Nat) (u : List Nat) : List (List Nat) → List (List Nat)
  | [] => [u]
  | v :: r => if f u < f v then u :: v :: r else v :: insertUnit f u r

def State.unitsInOrder (s : State) (core prio : Nat) : List (List Nat) :=
  ((s.evictionUnits core).filter fun u => decide (s.unitPrio u < prio)).foldl (fun acc u => insertUnit s.unitKey u acc) []

/-- An eviction as far as it is chosen: teams, crews whose regions are taken, how many units, and the teams whose saves are
refused for want of spill room. -/
structure Eviction where
  teams : List Nat := []
  crews : List Nat := []
  units : Nat := 0
  room  : List Nat := []

/-- Blocks and slots that chosen teams free. -/
def State.freedBlocks (s : State) (ks : List Nat) : Nat := ks.foldl (fun n k => n + (SMap.get default s.teams k).blocks) 0

/-- Blocks that the claims of a core ask for, but for those of chosen teams: they are served before a crew (R88). -/
def State.claimedBlocks (s : State) (core : Nat) (ks : List Nat) : Nat :=
  (s.claimQueue core).foldl (fun n k => if ks.contains k then n else n + (SMap.get default s.teams k).claims.getD 0) 0

/-- What an eviction still lacks for a crew: blocks, slots, local memory, rows. -/
def State.lacksTeams (s : State) (r : LaunchRec) (core : Nat) (e : Eviction) : Bool :=
  decide (s.freeBlocks core + s.freedBlocks e.teams < r.crewTeams * r.teamBlocks + s.claimedBlocks core e.teams) ||
    decide (s.freeSlots core + e.teams.length < r.crewTeams)
def State.lacksRegion (s : State) (r : LaunchRec) (core : Nat) (e : Eviction) : Bool :=
  let l := e.crews.foldl (fun n k => n + (s.crewAt k).localBytes) 0
  let a := e.crews.foldl (fun n k => n + (s.crewAt k).accRows) 0
  decide (s.freeLocal core + l < r.localBytes) || decide (s.freeRows core + a < r.accRows)

/-- Bytes that an eviction takes in the spill region of a context. -/
def State.evictionBytes (s : State) (ctx : Nat) (e : Eviction) : Nat :=
  (e.teams.filter fun k => decide (s.ctxOf (SMap.get default s.teams k) = ctx)).foldl
    (fun m k => m + (SMap.get default s.teams k).imageBytes) 0 +
  (e.crews.filter fun k => decide ((s.crewAt k).ctx = ctx)).foldl (fun m k => m + (s.crewAt k).regionBytes) 0

/-- An eviction with more teams and crews, if the spill region of the context has room for them (R90); else the eviction as
it was, with the refusal noted. `any` asks for no room. -/
def State.widen (s : State) (any : Bool) (ctx who : Nat) (e new : Eviction) : Eviction :=
  if any || s.spillRoom ctx (s.evictionBytes ctx new) then new else { e with room := e.room ++ [who] }

/-- Units are added until the pool and the slots are covered (R226). -/
def State.coverTeams (s : State) (any : Bool) (r : LaunchRec) (core : Nat) : List (List Nat) → Eviction → Eviction
  | [], e => e
  | u :: rest, e =>
    if !s.lacksTeams r core e then e
    else
      let who := u.headD 0
      State.coverTeams s any r core rest
        (s.widen any (s.ctxOf (SMap.get default s.teams who)) who e { e with teams := e.teams ++ u, units := e.units + 1 })

/-- Regions are taken whole, one crew at a time, with every team of the crew that remains (R226, R228). -/
def State.coverRegion (s : State) (any : Bool) (r : LaunchRec) (core : Nat) (units : List (List Nat)) :
    List Nat → Eviction → Eviction
  | [], e => e
  | k :: rest, e =>
    if !s.lacksRegion r core e then e
    else
      let more := units.filter fun u => u.all fun j => decide (j / 16 = k) && !e.teams.contains j
      let who := (s.teamsOfCrew k).headD (16 * k)
      State.coverRegion s any r core units rest (s.widen any (s.crewAt k).ctx who e
        { e with teams := e.teams ++ more.flatten, crews := e.crews ++ [k], units := e.units + more.length })

/-- Crews of a core whose region may be taken: not taken yet, and every team saved, chosen or eligible; those that are
evicted or chosen first, each part in the order of R226. -/
def State.takeable (s : State) (core : Nat) (units : List (List Nat)) (e : Eviction) : List Nat :=
  let saved := fun (j : Nat) => decide ((SMap.get default s.teams j).place = .saved)
  let ok := fun (k : Nat) => (s.teamsOfCrew k).all fun j => saved j || units.any fun u => u.contains j
  let touched := fun (k : Nat) => (s.teamsOfCrew k).any fun j => saved j || e.teams.contains j
  let ks := ((s.crewsOn core).filter fun p => decide (s.teamsOfCrew p.1 ≠ []) && ok p.1).map Prod.fst
  let order := sortBy fun k => s.unitKey (s.teamsOfCrew k)
  order (ks.filter touched) ++ order (ks.filter fun k => !touched k)

/-- Choose what to evict on a core for a crew (R214, R226, R228): the choice, and whether it is enough. A unit or region
whose context has no room for it is passed over. -/
def State.chooseEviction (s : State) (any : Bool) (r : LaunchRec) (core prio : Nat) : Eviction × Bool :=
  let units := s.unitsInOrder core prio
  let e := s.coverTeams any r core units {}
  let e := if s.lacksRegion r core e then s.coverRegion any r core units (s.takeable core units e) e else e
  (e, !s.lacksTeams r core e && !s.lacksRegion r core e)

/-- A save refused for want of room in the spill region is reported (R90). -/
def State.saveRefused (s : State) (k : Nat) : State :=
  let t := SMap.get default s.teams k
  let c := s.crewAt (k / 16)
  s.heqPush 0x15 (s.gridAt c.grid).part c.ctx [(0x0C, c.grid), (0x10, c.num), (0x14, t.idx)]

/-- May the region of a crew be taken now (R228, R387): every team saved, and its matrix operations finished? -/
def State.regionFree (s : State) (crew : Nat) : Bool :=
  ((s.teamsOfCrew crew).all fun j => decide ((SMap.get default s.teams j).place = .saved)) &&
    !((s.coreAt (s.crewAt crew).core).jobs.any fun o => o.teams.any fun j => decide (j / 16 = crew))

/-- A region that is to be taken goes to the spill region; without room there it stays, reported, and a fenced core's crew
is terminated (R90, R228, R387). -/
def State.takeRegion (s : State) (crew : Nat) : State :=
  let c := s.crewAt crew
  if !c.taking || !s.regionFree crew then s
  else
    let s := s.send .free (.crewPlace (clusterOfCore c.core))
    if s.spillFree c.ctx c.regionBytes then
      (s.spillWrite c.ctx 2 c.regionBytes).mapCrew crew fun x => { x with taken := true, taking := false }
    else
      let s := (s.saveRefused ((s.teamsOfCrew crew).headD (16 * crew))).mapCrew crew fun x => { x with taking := false }
      if s.isFenced c.core then s.terminateCrew crew 4 0xFF noTrap 0 else s

/-- The saved teams of a crew. -/
def State.savedOf (s : State) (crew : Nat) : List Nat :=
  (s.teamsOfCrew crew).filter fun k => decide ((SMap.get default s.teams k).place = .saved)

/-- Is an eviction under way on a cluster? A save that is held for a parked-pin bucket is not waited for (R505). -/
def State.evicting (s : State) (cluster : Nat) : Bool :=
  s.teams.any fun p => decide (clusterOfCore (s.crewOf p.2).core = cluster) &&
    (p.2.evict || decide (p.2.place = .saving)) && (match p.2.wait with
      | some (.pinBucket _) => false
      | _ => decide (p.2.place ≠ .saved)) ||
  s.crews.any fun p => decide (clusterOfCore p.2.core = cluster) && p.2.taking && !p.2.exited && decide (s.teamsOfCrew p.1 ≠ []) &&
    decide ((s.savedOf p.1).length = (s.teamsOfCrew p.1).length)

/-- The eviction on a core that makes room for a crew, if there is one. -/
def State.evictionPlan (s : State) (any : Bool) (r : LaunchRec) (core : Nat) : Option Eviction :=
  let p := s.chooseEviction any r core r.prio
  if p.2 && (decide (p.1.teams ≠ []) || decide (p.1.crews ≠ [])) && !s.hot.contains (dieOfCore core) then some p.1 else none

/-- The core of a cluster whose eviction for a crew needs the fewest units, the lowest among equals (R214). -/
def State.evictionCore (s : State) (any : Bool) (r : LaunchRec) (cluster : Nat) : Option Nat :=
  let plans := (s.coresOf cluster).filterMap fun c => (s.evictionPlan any r c).map fun e => (c, e.units)
  firstMax (fun c => 1000 - ((plans.find? fun p => decide (p.1 = c)).map Prod.snd).getD 1000) (plans.map Prod.fst)

/-- Pre-empt on a core for a crew (R214): its eviction begins. -/
def State.preempt (s : State) (r : LaunchRec) (core : Nat) : State :=
  match s.evictionPlan false r core with
  | none => s
  | some e =>
    let s := e.room.foldl State.saveRefused s
    let s := e.crews.foldl (fun s k => s.mapCrew k fun x => { x with taking := true }) s
    let s := e.teams.foldl (fun s k => s.mapTeam k fun t => { t with evict := true }) s
    (e.crews.foldl State.takeRegion s).strikeTeams e.teams

/-- No choice of units can be saved: the refused saves of the eviction that room alone prevents are reported, and the head waits
(R90). -/
def State.reportRoom (s : State) (r : LaunchRec) (cluster : Nat) : State :=
  match s.evictionCore true r cluster with
  | none => s
  | some c => (s.chooseEviction false r c r.prio).1.room.foldl State.saveRefused s

/-- The teams of a core that are chosen for eviction and whose save has not begun. -/
def State.chosenOn (s : State) (core : Nat) : List Nat :=
  (s.teams.filter fun p => decide ((s.crewOf p.2).core = core ∧ p.2.place = .resident) && p.2.evict).map Prod.fst

/-- An eviction drops a unit: it stays resident, and one that is parked may be topped up again (R512). -/
def State.unchoose (s : State) (ks : List Nat) : State :=
  ks.foldl (fun s k =>
    let s := s.mapTeam k fun t => { t with evict := false }
    match (SMap.get default s.teams k).wait with
    | some (.budget first) => s.topUp k first
    | _ => s) s

/-- What an eviction under way on a core still frees: the teams chosen or being saved, and the crews whose regions are to be
taken. -/
def State.underWay (s : State) (core : Nat) : Eviction :=
  { teams := (s.teams.filter fun p => decide ((s.crewOf p.2).core = core) && decide (p.2.place ≠ .saved) &&
      (p.2.evict || decide (p.2.place = .saving)) && !p.2.imaged).map Prod.fst,
    crews := ((s.crewsOn core).filter fun p => p.2.taking).map Prod.fst }

/-- UNITS THAT ARE NO LONGER NEEDED are dropped from the eviction of a core for a crew, the last in the order of R226 first (R512);
a region that is no longer needed stays. -/
def State.trimEviction (s : State) (r : LaunchRec) (core : Nat) : State :=
  let e := s.underWay core
  if e.crews ≠ [] && !s.lacksRegion r core { e with crews := [] } then
    e.crews.foldl (fun s k => s.mapCrew k fun x => { x with taking := false }) s
  else
    let chosen := s.chosenOn core
    let units := (chosen.map fun k => match s.gangOf (SMap.get default s.teams k) with
      | some g => (s.gangKeys (SMap.get default s.teams k).crew g).filter chosen.contains
      | none => [k]).foldl (fun l u => if l.contains u then l else u :: l) []
    let order := (units.foldl (fun acc u => insertUnit s.unitKey u acc) []).reverse
    (order.foldl (fun (p : State × Eviction) u =>
      let e := { p.2 with teams := p.2.teams.filter fun k => !u.contains k }
      if u.any (fun k => e.crews.contains (k / 16)) || p.1.lacksTeams r core e then p else (p.1.unchoose u, e)) (s, e)).1

/-! ### The parked-pin table (R231, R232, R505, R506) -/

/-- Address of an entry of the table, in context 0. -/
def State.pptEntry (s : State) (h i : Nat) : Nat :=
  canonOf (bitsOf (s.reg 0x400).toNat 20 37 * 2 ^ 20) + 128 * h + 16 * i

/-- An entry of the table or of the overflow area as a number; an unreadable one counts as empty. -/
def State.pptRead (s : State) (h i : Nat) : Nat := match s.agentNat 0 (s.pptEntry h i) 16 with
  | .ok v => v
  | .error _ => 0
def State.pptxEntry (s : State) (i : Nat) : Nat := bitsOf (s.reg 0x640).toNat 12 40 * 4096 + 16 * i
def State.pptxCap (s : State) : Nat := bitsOf (s.reg 0x648).toNat 0 17

/-- Is the entry valid, and for which name? -/
def entryValid (e : Nat) : Bool := e.testBit 127
def entryName (e : Nat) : BitVec 48 := BitVec.ofNat 48 e

/-- An entry for a slot of a team, or for an instance (R231). -/
def pinEntry (name : BitVec 48) (ctx handle : Nat) (inst : Bool) (slot : Nat) : Nat :=
  name.toNat + ctx * 2 ^ 48 + handle * 2 ^ 64 + slot * 2 ^ 96 + (if inst then 2 ^ 126 else 0) + 2 ^ 127

/-- Write an entry into a free place of its bucket, if it has one (R231). A write that faults is dropped, and the save goes on
(DESIGN CHOICE, log entry 109). -/
def State.pptPut (s : State) (e : Nat) : Option State :=
  let h := pinBucket (entryName e)
  ((List.range 8).find? fun i => !entryValid (s.pptRead h i)).map fun i =>
    s.agentWriteOr 0 (s.pptEntry h i) (leBytes 16 e)

/-- Write an entry into the lowest free place of the overflow area (R506). -/
def State.pptxPut (s : State) (e : Nat) : Option State :=
  ((List.range s.pptxCap).find? fun i => !entryValid (s.physNat (s.pptxEntry i) 16)).map fun i =>
    s.physWrite (s.pptxEntry i) (leBytes 16 e)

/-- A place of a bucket is free again: held saves go on (R505). -/
def State.wakeBucket (s : State) (h : Nat) : State :=
  (s.teams.filter fun p => decide (p.2.wait = some (.pinBucket h))).foldl (fun s p => s.send .free (.pinSaveRetry p.1)) s

/-- Remove an entry, from its bucket or the overflow area. -/
def State.pptDrop (s : State) (e : Nat) : State :=
  let h := pinBucket (entryName e)
  match (List.range 8).find? fun i => decide (s.pptRead h i = e) with
  | some i => (s.agentWriteOr 0 (s.pptEntry h i) (leBytes 16 0)).wakeBucket h
  | none =>
    match (List.range s.pptxCap).find? fun i => decide (s.physNat (s.pptxEntry i) 16 = e) with
    | some i => s.physWrite (s.pptxEntry i) (leBytes 16 0)
    | none => s

/-- Is a name in its bucket, or in the overflow area (R230 step 2, R506)? -/
def State.pptHolds (s : State) (name : BitVec 48) : Bool :=
  ((List.range 8).any fun i => let e := s.pptRead (pinBucket name) i; entryValid e && decide (entryName e = name)) ||
  ((List.range s.pptxCap).any fun i =>
    let e := s.physNat (s.pptxEntry i) 16; entryValid e && decide (entryName e = name))

/-- The table entries of a team's slots. -/
def State.teamEntries (s : State) (k : Nat) : List Nat :=
  let t := SMap.get default s.teams k
  let c := s.crewOf t
  (t.pins.filter fun p => p.2.valid).map fun p => pinEntry p.2.name c.ctx c.grid false p.1

/-- The entries that a team's save has still to write (R231). -/
def State.entriesDue (s : State) (k : Nat) : List Nat :=
  (s.teamEntries k).filter fun e => !(SMap.get default s.teams k).entries.contains e

/-- Note an entry that the save of a team has written. -/
def State.noteEntry (s : State) (k e : Nat) : State := s.mapTeam k fun t => { t with entries := t.entries ++ [e] }

/-- Entries whose searches are over are removed (R232); where no slot holds the name any more, a rescan follows (R233). -/
def State.dropDue (s : State) : State :=
  let due := s.pinDrops.filter fun d => decide (d.waits = [])
  due.foldl (fun s d =>
    let n := entryName d.entry
    let s := s.pptDrop d.entry
    if s.slotsWith n = [] then s.rescanFor n else s) { s with pinDrops := s.pinDrops.filter fun d => decide (d.waits ≠ []) }

/-! ### Saving (R226 to R228, R232) -/

/-- A team whose save is no longer held is parked in what it was parked in before, and its entry goes. -/
def Team.unheld (t : Team) : Team :=
  match t.wait with
  | some (.pinBucket _) => { t with wait := t.parkedIn, parkedIn := none, noHolder := if t.escals = [] then [] else t.noHolder.take 1 }
  | _ => t

/-- A save waits for a bucket, with an entry of the wait-for table that has no holder (R505). One that finds no place is treated as
R504 says; the team is being saved, and stays so while it waits for the reply. -/
def State.holdSave (s : State) (k h : Nat) : State :=
  let t := SMap.get default s.teams k
  if t.wait = some (.pinBucket h) then s
  else
    let c := s.crewOf t
    let part := (s.gridOf t).part
    let park := match t.wait with
      | some (.pinBucket _) => t.parkedIn
      | w => w
    let s := (s.mapTeam k Team.unheld).mapTeam k fun t => { t with wait := some (.pinBucket h), parkedIn := park }
    let detail := [(0x10, c.grid), (0x14, c.num), (0x18, t.idx), (0x19, 5)]
    if s.wftRoom (dieOfCore c.core) then s.addNoHolder k
    else if s.hostMode 2 then
      if s.escs.any fun x => decide (x.fn = 2 ∧ x.teams = [k]) then s
      else s.openEscalation (teamEscalation 2 c.ctx k) part detail
    else (s.mapTeam k fun t => { t with untracked := true }).heqPush 2 part c.ctx detail true

/-- Write the entries of a team's slots; a full bucket holds the save (R505) or asks the host (R506). `.inl` is the state
with the save held. -/
def State.savePins (s : State) (k : Nat) : List Nat → State ⊕ State
  | [] => .inr s
  | e :: r =>
    let h := pinBucket (entryName e)
    match s.pptPut e with
    | some s => State.savePins (s.noteEntry k e) k r
    | none =>
      let c := s.crewOf (SMap.get default s.teams k)
      let s := s.holdSave k h
      if s.hostMode 3 && !(s.escs.any fun x => decide (x.fn = 3 ∧ x.teams = [k])) then
        .inl (s.openEscalation { teamEscalation 3 c.ctx k with key := h } (s.gridOf (SMap.get default s.teams k)).part
          [(0x10, c.grid), (0x14, c.num), (0x18, (SMap.get default s.teams k).idx), (0x19, h)])
      else .inl s

/-- The save of a team ends: its blocks and slot are free, an escalation for it is over (R506), and with the last team a region that is to be taken (R228). -/
def State.endSave (s : State) (k : Nat) : State :=
  let t := SMap.get default s.teams k
  let c := s.crewOf t
  let s := (t.pins.map Prod.fst).foldl (fun s n => s.slotChanged k n) s
  let s : State := { s with escs := s.escs.filter fun e => !(decide (e.fn = 2 ∨ e.fn = 3) && decide (e.teams = [k])) }
  let s := (s.mapTeam k fun t => { t.unheld with place := .saved, evict := false }).takeRegion t.crew
  (s.send .free (.claimGrant c.core)).send .free (.crewPlace (clusterOfCore c.core))

/-- A save for which the spill region has no room is not made: the team stays and is topped up (R90). -/
def State.cancelSave (s : State) (k : Nat) : State :=
  let t := SMap.get default s.teams k
  let s := (s.saveRefused k).mapTeam k fun t => { t.unheld with place := .resident, evict := false, entries := [] }
  let s := (s.dropPins k t.entries []).mapCrew t.crew fun c => { c with taking := false }
  (s.topUpBack k).send .free (.crewPlace (clusterOfCore (s.crewOf t).core))

/-- The save of a team: room, pins, then the rest of its state (R90, R226, R232). -/
def State.saveTeam (s : State) (k : Nat) : State :=
  match SMap.look s.teams k with
  | none => s
  | some t =>
    if t.place ≠ .saving then s
    else if !s.saveRoom t then
      (if s.isFenced (s.crewOf t).core then (s.saveRefused k).terminateCrew t.crew 4 t.idx noTrap t.pc
      else s.cancelSave k)
    else
      let s := if t.imaged then s else s.spillWrite (s.ctxOf t) 1 t.imageBytes
      match s.savePins k (s.entriesDue k) with
      | .inl s => s
      | .inr s => s.endSave k

/-- TEAM_SAVE (R226). -/
def execTeamSave (team : Nat) (s : State) : Host.Outcome State Fault Refusal := .next (s.saveTeam team)

/-- PIN_SAVE_RETRY (R232, R505): entries that may go are removed, and a held save goes on. -/
def execPinSaveRetry (team : Nat) (s : State) : Host.Outcome State Fault Refusal := .next (s.dropDue.saveTeam team)

/-! ### Restoring (R92, R229) -/

/-- The saved teams of a crew that may return: no member of a gang does while another's save is held (R513). -/
def State.backOf (s : State) (crew : Nat) : List Nat :=
  (s.savedOf crew).filter fun k => match s.gangOf (SMap.get default s.teams k) with
    | some g => (s.gangKeys crew g).all fun j => decide ((SMap.get default s.teams j).place ≠ .saving)
    | none => true

/-- Can a core hold the saved part of a crew again (R229)? The core is one of its partition (R32). -/
def State.restoreFits (s : State) (crew core : Nat) : Bool :=
  let c := s.crewAt crew
  let ks := s.backOf crew
  let blocks := ks.foldl (fun n k => let t := SMap.get default s.teams k; n + t.passes * t.window / 8) 0
  let region := c.taken || decide (core ≠ c.core)
  let whole := decide ((s.teamsOfCrew crew).length = ks.length)
  decide (ks ≠ []) && !s.isFenced core && decide (s.partOfCluster (clusterOfCore core) = (s.gridAt c.grid).part) && decide (blocks ≤ s.freeBlocks core) && decide (s.claimQueue core = []) &&
    decide (ks.length ≤ s.freeSlots core) &&
    (!region || (decide (c.localBytes ≤ s.freeLocal core) && decide (c.accRows ≤ s.freeRows core))) &&
    (decide (core = c.core) || (whole && s.regionFree crew)) &&
    !s.hot.contains (dieOfCore core) && !(s.escs.any fun e => decide (e.fn = 5) && ks.any e.teams.contains)

/-- A saved team is resident again: its slots hold their pins, and the entries of its save go once the searches under way
are over (R232); its first instruction waits for the PHASE of its yield (R227). -/
def State.restoreTeam (s : State) (core k : Nat) : State :=
  let t := SMap.get default s.teams k
  let s := s.mapTeam k fun t => { t with
    place := .resident, slot := s.pickSlot core, entries := [],
    holds := t.holds.map fun h => { h with all := h.all || h.phase && !h.handler } }
  let s : State := { s with searches := s.searches.map fun x =>
    if (t.pins.any fun p => p.2.valid && decide (p.2.name = x.name)) then { x with seen := true } else x }
  (s.dropPins k t.entries (s.searches.map Search.id)).topUpBack k

/-- Restore the saved teams of a crew on a core: where its code may have changed, lines of its context leave the
instruction cache, and lines on their way to it bring nothing (R92). -/
def State.restoreCrew (s : State) (crew core : Nat) : State :=
  let c := s.crewAt crew
  let ks := s.backOf crew
  let s := if core = c.core ∧ !c.taken then s else s.dropCode core fun lid => decide (lineCtx lid = c.ctx)
  let s := s.mapCrew crew fun c => { c with core := core, taken := false, taking := false }
  ks.foldl (fun s k => s.restoreTeam core k) s

/-- CREW_RESTORE (R92, R229), after which the cluster looks again. -/
def execCrewRestore (crew core : Nat) (s : State) : Host.Outcome State Fault Refusal :=
  .next ((if s.restoreFits crew core then s.restoreCrew crew core else s).send .free (.crewPlace (clusterOfCore core)))

/-- Crews with saved teams that may return to a cluster, the first to return first: effective priority, then a partly
evicted crew, then the earliest accepted (R229). -/
def State.returning (s : State) (cluster : Nat) : List Nat :=
  let cs := (s.crews.filter fun p => decide (clusterOfCore p.2.core = cluster ∧ (s.gridAt p.2.grid).part = s.partOfCluster cluster) &&
    decide (s.backOf p.1 ≠ [])).map Prod.fst
  sortBy (fun k =>
    let prio := s.unitPrio (s.teamsOfCrew k)
    let part := if (s.savedOf k).length = (s.teamsOfCrew k).length then 1 else 0
    ((15 - prio) * 2 + part) * 2 ^ 64 + (s.crewAt k).acceptedAt % 2 ^ 64) cs

/-- The core a returning crew takes: its own, or, when that cannot take it, another of the cluster (R229). -/
def State.restoreCore (s : State) (crew cluster : Nat) : Option Nat :=
  let own := (s.crewAt crew).core
  if s.restoreFits crew own then some own
  else firstMax s.freeBlocks ((s.coresOf cluster).filter (s.restoreFits crew))

/-- Is a crew of a placement group, which moves whole (R48)? The group is named by a member's number. -/
def State.sameGroup (s : State) (grid num other : Nat) : Bool :=
  let r := (s.gridAt grid).launch
  decide (r.kbar ≠ 0) && decide (num / groupCrews r = other / groupCrews r)

/-- The cluster, other than `cluster`, that holds a member of the placement group of crew `num`, placed or not (R48, R516). -/
def State.groupHome (s : State) (part cluster grid num : Nat) : Option Nat :=
  (s.clustersOf part).find? fun c => decide (c ≠ cluster ∧ s.coresOf c ≠ []) &&
    ((s.clusterAt c).ccbs.any (fun b => decide (b.grid = grid) && s.sameGroup grid num b.num) ||
     s.crews.any fun p => decide (clusterOfCore p.2.core = c ∧ p.2.grid = grid) && !p.2.exited && s.sameGroup grid num p.2.num)

/-- Where the work of a cluster without an unfenced core goes (R516): a placement group to the cluster of a member that has
moved, else to the cluster that R212 would deal to. -/
def State.newCluster (s : State) (part cluster grid num : Nat) : Option Nat :=
  match s.groupHome part cluster grid num with
  | some c => some c
  | none => s.dealTo part

/-! ### Gathered tasks (R55, R56) -/

/-- The handle after a handle; zero is skipped (R77). -/
def handleAfter (h : Nat) : Nat := if h ≥ 2 ^ 32 - 1 then 1 else h + 1

/-- A grid receives its handle (R77). -/
def State.newGrid (s : State) (g : Grid) : State × Nat :=
  let h := s.nextHandle
  ({ s with nextHandle := handleAfter h, nextId := s.nextId + 1,
            grids := SMap.put s.grids h { g with accepted := s.nextId } }, h)

/-- Tasks in a cluster's pool. -/
def State.poolTasks (s : State) (c : Nat) : Nat := (s.clusterAt c).groups.foldl (fun n g => n + g.tasks.length) 0

/-- The record a hidden grid runs under (R56). -/
def hiddenRecord (r : LaunchRec) (entry : Word) (n : Nat) : LaunchRec :=
  { codebase := r.codebase, entry := entry.toNat, crews := 1, lanes := n, crewTeams := 1, vregs := r.vregs,
    prio := r.prio, ibudInit := r.ibudInit, mbudInit := r.mbudInit, iquant := r.iquant, mquant := r.mquant,
    args := r.args }

/-- A group closes: a hidden grid is accepted, and its block is queued at the gathering cluster (R56). -/
def State.closeGroup (s : State) (c : Nat) (g : TaskGroup) : State :=
  let s := s.mapCluster c fun x => { x with groups := x.groups.erase g }
  let sp := s.gridAt g.grid
  let hid : Grid := { launch := hiddenRecord sp.launch g.entry g.tasks.length, ctx := sp.ctx, part := sp.part,
                      depth := sp.depth + 1, parent := some g.grid, hidden := true, dealt := 1 }
  let p := s.newGrid hid
  (p.1.queueBlock ⟨p.2, 0, g.tasks, 0⟩ c).send .free (.crewPlace c)

/-- The group of a cluster whose first task came first. -/
def oldestGroup : List TaskGroup → Option TaskGroup
  | [] => none
  | g :: r => match oldestGroup r with
    | none => some g
    | some x => if x.since < g.since then some x else some g

/-- Launch groups, the oldest first, until the pool holds 6,144 tasks or fewer. -/
def State.drainPool (s : State) (c : Nat) : Nat → State
  | 0 => s
  | n + 1 =>
    if s.poolTasks c ≤ 6144 then s
    else match oldestGroup (s.clusterAt c).groups with
      | some g => State.drainPool (s.closeGroup c g) c n
      | none => s

/-! ### Moving work (R32, R516) -/

/-- Task groups go to a cluster's pool one by one, which launches groups while it holds too many (R55, R516). A group that comes
from elsewhere stays beside one of the same grid and entry, each with its own window (R57; DESIGN CHOICE, log entry 126). -/
def State.takeGroups (s : State) (c : Nat) (gs : List TaskGroup) : State :=
  gs.foldl (fun s g =>
    let s := s.mapCluster c fun x => { x with groups := x.groups ++ [g] }
    (s.later (g.since + 2048) (.gatherWindowExpire c g.grid g.entry.toNat)).drainPool c 8192) s

/-- A block of a cluster is dealt again, and its placement group follows it; without a cluster to deal to it stays (R48, R516). -/
def State.moveBlock (s : State) (part cluster : Nat) (b : Ccb) : State :=
  match s.newCluster part cluster b.grid b.num with
  | none => s
  | some c => ((s.mapCluster cluster fun x => { x with ccbs := x.ccbs.erase b }).queueBlock b c).send .free (.crewPlace c)

/-- Saved crews of a partition that stand whole at a cluster and may go to another: none that waits for a host's reply (R445). -/
def State.movable (s : State) (cluster part : Nat) : List (Nat × Crew) :=
  s.crews.filter fun p => decide (clusterOfCore p.2.core = cluster ∧ (s.gridAt p.2.grid).part = part ∧ s.teamsOfCrew p.1 ≠ []) &&
    decide ((s.savedOf p.1).length = (s.teamsOfCrew p.1).length) && s.regionFree p.1 &&
    !(s.escs.any fun e => decide (e.fn = 5) && (s.teamsOfCrew p.1).any e.teams.contains)

/-- The saved crews, blocks and task groups of a partition that stand at a cluster go to clusters of the partition (R32,
R516). -/
def State.handOn (s : State) (cluster part : Nat) : State :=
  let mine := fun (h : Nat) => decide ((s.gridAt h).part = part)
  let s := (s.movable cluster part).foldl (fun s p => match s.newCluster part cluster p.2.grid p.2.num with
    | some c => (s.mapCrew p.1 fun x => { x with core := (s.coresOf c).headD (4 * c), taken := true, taking := false }).send .free
        (.crewPlace c)
    | none => s) s
  let s := ((s.clusterAt cluster).ccbs.filter fun b => mine b.grid).foldl (State.moveBlock · part cluster ·) s
  match s.dealTo part with
  | none => s
  | some c =>
    let gs := (s.clusterAt cluster).groups.filter fun g => mine g.grid
    if gs = [] then s
    else ((s.mapCluster cluster fun x => { x with groups := x.groups.filter fun g => !mine g.grid }).takeGroups c gs).send .free
      (.crewPlace c)

/-- The partitions whose work at a cluster must go elsewhere, and can: all at a cluster whose last core is fenced (R516, R517), else
those that the cluster has left (R32). -/
def State.leavers (s : State) (cluster : Nat) : List Nat :=
  ([0, 1, 2, 3] : List Nat).filter fun p =>
    let mine := fun (h : Nat) => decide ((s.gridAt h).part = p)
    let x := s.clusterAt cluster
    (decide (s.coresOf cluster = []) || decide (s.partOfCluster cluster ≠ p)) &&
    ((decide (s.dealTo p ≠ none) && (x.ccbs.any (fun b => mine b.grid) || x.groups.any (fun g => mine g.grid) ||
        decide (s.movable cluster p ≠ []))) ||
     x.ccbs.any (fun b => mine b.grid && decide (s.groupHome p cluster b.grid b.num ≠ none)) ||
     (s.movable cluster p).any fun c => decide (s.groupHome p cluster c.2.grid c.2.num ≠ none))

/-- A cluster hands on the work that must leave it. -/
def State.evacuate (s : State) (cluster : Nat) : State := (s.leavers cluster).foldl (State.handOn · cluster ·) s

/-- The first crew that returns to a cluster, with its core: the first that a core can take; a wholly evicted crew does not
go before a partly evicted one of equal priority (R229). -/
def State.firstBack (s : State) (cluster : Nat) : Option (Nat × Nat) :=
  let ks := s.returning cluster
  let whole := fun (k : Nat) => decide ((s.savedOf k).length = (s.teamsOfCrew k).length)
  let prio := fun (k : Nat) => s.unitPrio (s.teamsOfCrew k)
  ks.findSome? fun k =>
    if whole k && ks.any fun j => !whole j && decide (prio j = prio k) then none
    else (s.restoreCore k cluster).map fun c => (k, c)

/-- What a cluster can do with its work. -/
inductive PlaceAct where
  | nothing
  | restore (crew core : Nat)
  | place (b : Ccb) (core : Nat)
  | preempt (r : LaunchRec) (core : Nat)
  deriving DecidableEq, Repr

/-- The first block of a cluster that is of its partition. -/
def State.headBlock (s : State) (cluster : Nat) : Option Ccb :=
  (s.clusterAt cluster).ccbs.find? fun b => decide ((s.gridAt b.grid).part = s.partOfCluster cluster)

/-- Of the head block and the first returning crew, the one of higher priority is served; a head block that fits nowhere pre-empts
first (R88, R213, R214, R229). -/
def State.placeAct (s : State) (cluster : Nat) : PlaceAct :=
  let back := s.firstBack cluster
  let restore := match back with
    | some (k, c) => PlaceAct.restore k c
    | none => .nothing
  match s.headBlock cluster with
  | none => restore
  | some b =>
    let r := (s.gridAt b.grid).launch
    let backFirst := match back with
      | some (k, _) => decide (r.prio ≤ s.unitPrio (s.teamsOfCrew k))
      | none => false
    if backFirst then restore
    else match s.pickCore r cluster with
      | some core => .place b core
      | none =>
        if s.evicting cluster then .nothing
        else match s.evictionCore false r cluster with
          | some core => .preempt r core
          | none => restore

/-- Is a crew on its way back? -/
def State.returns (s : State) (crew : Nat) : Bool := s.agenda.any fun p => match p.ev with
  | .crewRestore k _ => decide (k = crew)
  | _ => false

/-- Has a cluster something that it can do now? -/
def State.placeReady (s : State) (cluster : Nat) : Bool :=
  decide (s.leavers cluster ≠ []) || (match s.placeAct cluster with
    | .nothing => false
    | .restore k _ => !s.returns k
    | _ => true)

/-- Clusters with blocks, task groups or saved crews. -/
def State.workClusters (s : State) : List Nat :=
  dedupNat ((s.clusters.filter fun p => decide (p.2.ccbs ≠ [] ∨ p.2.groups ≠ [])).map Prod.fst ++
    (s.crews.filter fun p => decide (s.savedOf p.1 ≠ [])).map fun p => clusterOfCore p.2.core)

/-- CREW_PLACE (R57, R88, R213, R214, R229, R512): work that must leave the cluster goes, and of what the cluster can do one thing is
done. A cluster that can place no block looks for donated work, drops what an eviction no longer needs, and reports the saves
that the spill region refuses. -/
def execCrewPlace (cluster : Nat) (s : State) : Host.Outcome State Fault Refusal :=
  let s := s.evacuate cluster
  let seek := fun (s : State) => s.send .free (.stealRequest cluster)
  match s.placeAct cluster with
  | .restore k c => .next (if s.returns k then s else s.send .free (.crewRestore k c))
  | .place b core =>
    let s := s.mapCluster cluster fun c => { c with ccbs := c.ccbs.erase b }
    .next (((s.placeCrew b core).deal (s.partOfCluster cluster)).send .free (.crewPlace cluster))
  | .preempt r core => .next (seek (s.preempt r core))
  | .nothing =>
    match s.headBlock cluster with
    | none => .next (seek ((s.coresOf cluster).foldl (fun s c => s.unchoose (s.chosenOn c)) s))
    | some b =>
      let r := (s.gridAt b.grid).launch
      if s.evicting cluster then .next (seek ((s.coresOf cluster).foldl (fun s c => s.trimEviction r c) s))
      else .next (seek (s.reportRoom r cluster))

/-- STRIKE (R225). -/
def execStrike (teams : List Nat) (s : State) : Host.Outcome State Fault Refusal := .next (s.strikeTeams teams)

/-- SELECTION_OVERDUE (R217). -/
def execSelectionOverdue (team : Nat) (s : State) : Host.Outcome State Fault Refusal :=
  .next (s.mapTeam team fun t => if t.readySince.isSome then { t with overdue := true } else t)

end Sys2Proof.Machine
end

