-- ==== Sys2Proof/Machine/Launch.lean ====
section
/-!
DEFINITION. Launching, gathering, retiring and donating work (02_execution R37 to R39, R49 to R58, 08_scheduling R202 to
R212, 25_scheduling_failures R509 to R511, R516), and Sage's searches (08_scheduling R230 to R234, 25_scheduling_failures
R525).
-/
namespace Sys2Proof.Machine

/-! ### Launch records (R37 to R39) -/

/-- A launch record from its 128 bytes. -/
def parseLaunch (x : Nat) : LaunchRec :=
  let f := fun (off n : Nat) => bitsOf x (8 * off) (8 * n)
  { codebase := f 0 8, entry := f 8 4, crews := f 0xC 4, lanes := f 0x10 2, crewTeams := f 0x12 1, vregs := f 0x13 1,
    localBytes := f 0x14 4, accRows := f 0x18 2, prio := f 0x1A 1, poolown := (f 0x1B 1).testBit 0,
    nodonate := (f 0x1B 1).testBit 1, nload := f 0x1C 4 % 16, ncomp := f 0x1C 4 / 16 % 16, nstore := f 0x1C 4 / 256 % 16,
    cbar := f 0x20 4 % 256, kbar := f 0x20 4 / 256 % 1024, ibudInit := f 0x24 4, mbudInit := f 0x28 4, iquant := f 0x2C 4,
    mquant := f 0x30 4, ipool := f 0x38 8, mpool := f 0x40 8, graph := f 0x48 8, node := f 0x50 4,
    args := BitVec.ofNat 64 (f 0x58 8), doneAddr := f 0x60 8, doneVal := BitVec.ofNat 64 (f 0x68 8) }

/-- Reserved fields of a record, which must be zero (R37). -/
def launchReserved (x : Nat) : Bool :=
  let f := fun (off n : Nat) => bitsOf x (8 * off) (8 * n)
  decide (f 0x1B 1 < 4 ∧ f 0x1C 4 < 2 ^ 12 ∧ f 0x20 4 < 2 ^ 18 ∧ f 0x34 4 = 0 ∧ f 0x54 4 = 0 ∧ f 0x70 16 = 0)

/-- A placement group fits on one cluster (R38). -/
def LaunchRec.groupFits (r : LaunchRec) : Bool :=
  let perTeam := max 1 r.teamBlocks
  let c := min (1024 / (r.crewTeams * perTeam)) (128 / r.crewTeams)
  let c := if r.localBytes = 0 then c else min c (524288 / r.localBytes)
  let c := if r.accRows = 0 then c else min c (512 / r.accRows)
  decide (r.kbar = 0) || decide (groupCrews r ≤ 4 * c)

/-- The limits of R37 and R38. -/
def LaunchRec.ok (r : LaunchRec) : Bool :=
  decide (r.codebase % 128 = 0 ∧ r.entry % 4 = 0 ∧ 1 ≤ r.crews ∧ r.crews < 2 ^ 24 ∧ 1 ≤ r.lanes ∧ r.lanes ≤ 1024 ∧
    1 ≤ r.crewTeams ∧ r.crewTeams ≤ 16) &&
  decide (8 ≤ r.vregs ∧ r.vregs ≤ 192 ∧ r.vregs % 8 = 0 ∧ r.localBytes ≤ 524288 ∧ r.localBytes % 128 = 0 ∧
    r.accRows ≤ 512 ∧ r.prio < 16 ∧ r.nload + r.ncomp + r.nstore ≤ r.crewTeams) &&
  decide (r.cbar ≤ r.crewTeams ∧ r.kbar ≤ 512 ∧ 1 ≤ r.ibudInit ∧ r.ibudInit ≤ r.iquant ∧ 1 ≤ r.mbudInit ∧
    r.mbudInit ≤ r.mquant ∧ r.iquant < 2 ^ 31 ∧ r.mquant < 2 ^ 31) &&
  decide (r.ipool < 2 ^ 63 ∧ r.mpool < 2 ^ 63 ∧ r.graph % 128 = 0 ∧ (r.graph = 0 → r.node = 0) ∧ r.doneAddr % 8 = 0 ∧
    r.crewTeams * r.teamBlocks ≤ 1024) &&
  r.groupFits

/-- Read and check a record; a failure gives the REASON of R509. -/
def State.readRecord (s : State) (ctx addr : Nat) : Except Nat LaunchRec :=
  if addr % 128 ≠ 0 then .error 0
  else
    match s.agentNat ctx addr 128 with
    | .error _ => .error 1
    | .ok x => if launchReserved x && (parseLaunch x).ok then .ok (parseLaunch x) else .error 0

/-- The packet of a refused launch (R509). -/
def State.refuseLaunch (s : State) (part ctx reason kind target node parent stream : Nat) : State :=
  s.heqPush 0x13 part ctx [(0x0C, reason), (0x0D, kind), (0x10, target), (0x18, node), (0x1C, parent), (0x20, stream)]

/-! ### Accepting grids (R49 to R51, R77) -/

/-- A grid is accepted and its crews are dealt (R50, R59, R212). -/
def State.acceptGrid (s : State) (r : LaunchRec) (ctx part depth : Nat) (parent : Option Nat) (inst : Option (Nat × Nat)) :
    State × Nat :=
  let own := parent.isNone
  let g : Grid := { launch := r, ctx := ctx, part := part, depth := depth, parent := parent,
                    ipool := if own then r.ipool else 0, mpool := if own then r.mpool else 0, inst := inst }
  let p := s.newGrid g
  (p.1.deal part, p.2)

/-- The outstanding entry of an instruction receives its one result. -/
def State.completeOut (s : State) (k out v : Nat) : State :=
  match (SMap.get default s.teams k).outs.find? fun o => decide (o.id = out) with
  | none => s
  | some o => s.finishOut k { o with pend := 0, got := [(0, v)] }

/-- Retire a grid if its conditions hold now (R51). -/
def State.maybeRetire (s : State) (h : Nat) : State := if s.gridDone h then s.send .free (.gridRetire h) else s

/-- Bytes as the launch unit replaces ARGS and the completion (R205, R370). -/
def LaunchRec.withArgs (r : LaunchRec) (a : Option (BitVec 64)) : LaunchRec := match a with
  | some x => { r with args := x }
  | none => r

/-- ACCEPT_LAUNCH_RECORD (R207, R370, R509): the oldest record handed over to the partition's launch unit. -/
def execAcceptLaunchRecord (part : Nat) (s : State) : Host.Outcome State Fault Refusal :=
  match s.launches.find? fun p => decide (p.1 = part) with
  | none => .next s
  | some p =>
    let q := p.2
    let s : State := { s with launches := s.launches.erase p }
    let parent := s.gridAt q.grid
    if (SMap.look s.grids q.grid).isNone || parent.killed then .next s
    else
      match s.readRecord q.ctx q.addr with
      | .error reason =>
        let s := s.refuseLaunch part q.ctx reason 0 q.addr 0 q.grid (2 ^ 64 - 1)
        .next ((s.completeOut q.team q.out 0).maybeRetire q.grid)
      | .ok r =>
        let a := s.acceptGrid (r.withArgs q.args) q.ctx part (parent.depth + 1) (some q.grid) none
        .next (a.1.completeOut q.team q.out a.2)

/-! ### Launch queues (R202 to R207) -/

/-- A launch queue's context and descriptor, if its register is valid (R203, R263). -/
def State.launchQueue (s : State) (part q : Nat) : Option (Nat × Nat) :=
  let off := 0x010000 + 16 * (64 * part + q)
  let ctl := (s.reg (off + 8)).toNat
  if ctl.testBit 63 then some (ctl % 65536, canonOf (bitsOf (s.reg off).toNat 8 49 * 256)) else none

/-- Look at the head slot of a queue (R206, R211, R509, R514). -/
def State.queueHead (s : State) (part q : Nat) : QueueHead :=
  match s.launchQueue part q with
  | none => .idle
  | some (ctx, qa) =>
    if s.killed.contains ctx || s.badQueues.contains (64 * part + q) ||
        s.singles.any (fun x => decide (x.part = part ∧ x.queue = q)) then .idle
    else s.headOf ctx qa

/-- Registered queues of a partition, in the order in which the unit looks at them (R207). -/
def State.queuesOf (s : State) (part : Nat) : List Nat :=
  let start := SMap.get 0 s.lastQueue part
  let lo := 0x010000 + 1024 * part
  let qs := (s.mgmt.filter fun p => decide (lo ≤ p.1 ∧ p.1 < lo + 1024) && decide (p.1 % 16 = 8) && p.2.getLsbD 63).map
    fun p => (p.1 - lo) / 16
  (qs.filter fun q => decide (start ≤ q)) ++ qs.filter fun q => decide (q < start)

/-- Has a partition's launch unit a queue to serve or to report? -/
def State.launchReady (s : State) (part : Nat) : Bool :=
  s.launches.all (fun p => decide (p.1 ≠ part)) && (s.queuesOf part).any fun q => s.queueHead part q ≠ .idle

/-- Fields of a launch packet (R205). -/
def packetField (pkt off n : Nat) : Nat := bitsOf pkt (8 * off) (8 * n)

/-- Does a launch packet break R205 (REASON 6)? -/
def packetBad (pkt : Nat) : Bool :=
  let f := packetField pkt
  decide (f 0x10 1 > 1 ∨ f 0x11 1 > 3 ∨ f 0x12 6 ≠ 0 ∨ f 0x30 16 ≠ 0 ∨ f 0x20 8 % 8 ≠ 0) ||
    ((f 0x11 1).testBit 1 && decide (f 0x10 1 = 1))

/-! ### Launch graphs (R208 to R211) -/

/-- A node entry of a version block. -/
def nodeOf (x : Nat) (nodes : Nat) (edges : List Nat) (j : Nat) : NodeState :=
  let f := fun (off n : Nat) => bitsOf x (8 * (64 + 32 * j + off)) (8 * n)
  { record := f 0 8, npred := f 8 2, succs := (edges.drop (f 0xC 4)).take (f 0xA 2), started := false, released := false,
    retired := nodes = 0 }

/-- A version block that obeys R208, from its bytes. -/
def versionOk (x nodes edges : Nat) : Bool :=
  let es := (List.range edges).map fun i => bitsOf x (8 * (64 + 32 * nodes + 4 * i)) 32
  es.all (fun e => decide (e < nodes)) && (List.range nodes).all fun j =>
    let f := fun (off n : Nat) => bitsOf x (8 * (64 + 32 * j + off)) (8 * n)
    decide (f 0x10 16 = 0 ∧ f 0xC 4 + f 0xA 2 ≤ edges ∧ f 8 2 = (es.filter (· = j)).length)

/-- Read a graph's current version: its block and nodes, or the REASON of a refusal (R208, R209, R509). -/
def State.readVersion (s : State) (ctx graph : Nat) : Except Nat (Nat × List NodeState) :=
  match s.agentNat ctx graph 8 with
  | .error _ => .error 1
  | .ok block =>
    if block = 0 ∨ block % 128 ≠ 0 then .error 4
    else
      match s.agentNat ctx block 64 with
      | .error _ => .error 1
      | .ok h =>
        let n := h % 2 ^ 32
        let e := bitsOf h 32 32
        if n = 0 ∨ n > 4096 ∨ e > 65536 ∨ h / 2 ^ 64 ≠ 0 then .error 3
        else
          match s.agentNat ctx block (64 + 32 * n + 4 * e) with
          | .error _ => .error 1
          | .ok x =>
            if versionOk x n e then
              let es := (List.range e).map fun i => bitsOf x (8 * (64 + 32 * n + 4 * i)) 32
              .ok (block, (List.range n).map (nodeOf x n es))
            else .error 3

/-- The name of a version block (R209). -/
def blockName (block : Nat) : BitVec 48 := BitVec.ofNat 48 (bitsOf block 7 48)

/-- INSTANCES of a graph object moves by one; it saturates at 0 (R208, R210, R511). An update that faults is dropped (DESIGN
CHOICE, log entry 109). -/
def State.countInstance (s : State) (ctx graph : Nat) (up : Bool) : State :=
  match s.agentNat ctx (graph + 0x10) 8 with
  | .ok n => s.agentWriteOr ctx (graph + 0x10) (leBytes 8 (if up then n + 1 else n - 1))
  | .error _ => s

/-- A graph instance is accepted: handle, pin, INSTANCES, and its first nodes (R77, R209, R210). -/
def State.acceptInstance (s : State) (x : Instance) : State :=
  let h := s.nextHandle
  let x := { x with handle := h }
  let s : State := { s with nextHandle := handleAfter h, insts := SMap.put s.insts h x }
  let s := (s.pptPut (pinEntry (blockName x.block) x.ctx h true 0)).getD s
  let s := s.countInstance x.ctx x.graph true
  (x.nodes.mapIdx fun j n => (j, n)).foldl (fun s p => if p.2.npred = 0 then s.send .free (.nodeStart h p.1) else s) s

/-- The head slot of a ring is emptied and RIDX moves on (R206 steps 3 and 4). A write that faults is dropped (DESIGN CHOICE,
log entry 109). -/
def State.freeSlot (s : State) (ctx qa : Nat) (d : QueueDesc) : State :=
  let s := s.agentWriteOr ctx (d.base + 64 * (d.ridx % d.size)) (leBytes 8 0)
  s.agentWriteOr ctx (qa + 0x10) (leBytes 8 ((d.ridx + 1) % 2 ^ 64))

/-- A packet is consumed, and the unit looks at the next queue first (R206, R207). -/
def State.consume (s : State) (part q ctx qa : Nat) (d : QueueDesc) : State :=
  let s := s.freeSlot ctx qa d
  { s with lastQueue := SMap.set 0 s.lastQueue part (q + 1) }

/-- An acceptance waits for a SINGLE graph, with an entry in the wait-for table; a full table is reported (R211, R504). -/
def State.waitSingle (s : State) (w : SingleWait) : State :=
  let room := s.wftRoom (s.launchDie w.part)
  let far := decide (s.wftPlace (s.launchDie w.part) = some true)
  let s := if room then s.enterTable (s.launchDie w.part) else s
  let s : State := { s with singles := s.singles ++ [{ w with tracked := room, ext := far }] }
  if room then s else s.heqPush 2 w.part w.ctx [(0x19, 6)] true

/-- ACCEPT A PACKET (R206, R209, R211, R266, R509): refused, accepted, or, for a SINGLE graph with a running instance,
registered as waiting and not consumed. -/
def State.takePacket (s : State) (part q ctx qa : Nat) (d : QueueDesc) (pkt : Nat) : State :=
  let f := packetField pkt
  let kind := f 0x10 1
  let target := f 8 8
  let args := if (f 0x11 1).testBit 0 then some (BitVec.ofNat 64 (f 0x18 8)) else none
  let refuse := fun (reason : Nat) => (s.consume part q ctx qa d).refuseLaunch part ctx reason kind target 0 0 d.ridx
  if packetBad pkt then refuse 6
  else if s.partOfCtx ctx ≠ part then refuse 2
  else if kind = 0 then
    match s.readRecord ctx target with
    | .error reason => refuse reason
    | .ok r =>
      let r := r.withArgs args
      let r := if (f 0x11 1).testBit 1 then { r with doneAddr := f 0x20 8, doneVal := BitVec.ofNat 64 (f 0x28 8) } else r
      ((s.consume part q ctx qa d).acceptGrid r ctx part 0 none none).1
  else if target % 128 ≠ 0 then refuse 3
  else
    match s.agentNat ctx target 128 with
    | .error _ => refuse 1
    | .ok g =>
      if g.testBit 64 ∧ bitsOf g 128 64 ≠ 0 then
        s.waitSingle ⟨part, q, ctx, target, d.prio, true, false⟩
      else
        match s.readVersion ctx target with
        | .error reason => refuse reason
        | .ok (block, nodes) =>
          (s.consume part q ctx qa d).acceptInstance
            { handle := 0, ctx := ctx, part := part, graph := target, block := block, args := args,
              doneAddr := f 0x20 8, doneVal := BitVec.ofNat 64 (f 0x28 8), stream := d.ridx, nodes := nodes,
              refused := false, killed := false }

/-- The first ready queue of the highest PRIO (R207). -/
def State.chooseQueue (s : State) (part : Nat) : Option (Nat × Nat × Nat × QueueDesc × Nat) :=
  (s.queuesOf part).foldl (fun acc q => match s.queueHead part q, acc with
    | .ready ctx qa d pkt, none => some (q, ctx, qa, d, pkt)
    | .ready ctx qa d pkt, some b => if b.2.2.2.1.prio < d.prio then some (q, ctx, qa, d, pkt) else some b
    | _, acc => acc) none

/-- ACCEPT_LAUNCH_PACKET (R206, R207, R509): a queue found unreadable is reported once; otherwise the unit serves the
queue whose turn it is. Records of LAUNCH go first. -/
def execAcceptLaunchPacket (part : Nat) (s : State) : Host.Outcome State Fault Refusal :=
  if s.launches.any fun p => decide (p.1 = part) then .next s
  else
    let bad := (s.queuesOf part).findSome? fun q => match s.queueHead part q with
      | .bad ctx qa stream => some (q, ctx, qa, stream)
      | _ => none
    match bad with
    | some (q, ctx, qa, stream) =>
      let s : State := { s with badQueues := (64 * part + q) :: s.badQueues }
      .next (s.refuseLaunch part ctx 5 0xFF qa 0 0 stream)
    | none =>
      match s.chooseQueue part with
      | some (q, ctx, qa, d, pkt) => .next (s.takePacket part q ctx qa d pkt)
      | none => .next s

/-- SINGLE_INSTANCE_ACCEPT (R211): the waiting packet is looked at again. -/
def execSingleInstanceAccept (part queue : Nat) (s : State) : Host.Outcome State Fault Refusal :=
  let mine := fun (x : SingleWait) => decide (x.part = part ∧ x.queue = queue)
  if s.singles.any mine then
    let s' : State := { s with singles := s.singles.filter fun x => !mine x }
    match s'.queueHead part queue with
    | .ready ctx qa d pkt => .next (s'.takePacket part queue ctx qa d pkt)
    | _ => .next s'
  else .next s

/-- Has an instance come to its end: every node retired, or, after a refusal, every node that started (R210, R510)? -/
def Instance.ended (x : Instance) : Bool :=
  !x.killed && x.nodes.all fun n => n.retired || (x.refused && !n.started)

/-- Send an instance to its completion if it is over. -/
def State.maybeComplete (s : State) (i : Nat) : State :=
  match SMap.look s.insts i with
  | some x => if x.ended then s.send .free (.instanceComplete i) else s
  | none => s

/-- NODE_START (R209, R210, R509, R510): the node's record is read when it starts. -/
def execNodeStart (inst node : Nat) (s : State) : Host.Outcome State Fault Refusal :=
  match SMap.look s.insts inst with
  | none => .next s
  | some x =>
    match x.nodes[node]? with
    | none => .next s
    | some n =>
      let waits := x.nodes.any fun m => m.succs.contains node && !m.released && !m.retired
      if x.killed || x.refused || n.started || waits then .next s
      else
        let rec0 : Except Nat LaunchRec := match s.readRecord x.ctx n.record with
          | .error e => .error e
          | .ok r => if r.graph = x.graph ∧ r.node = node then .ok r else .error 3
        match rec0 with
        | .error reason =>
          let s : State := { s with insts := SMap.put s.insts inst { x with refused := true } }
          .next ((s.refuseLaunch x.part x.ctx reason 1 x.graph node 0 x.stream).maybeComplete inst)
        | .ok r =>
          let nodes := x.nodes.mapIdx fun j m => if j = node then { m with started := true } else m
          let s : State := { s with insts := SMap.put s.insts inst { x with nodes := nodes } }
          .next (s.acceptGrid (r.withArgs x.args) x.ctx x.part 0 none (some (inst, node))).1

/-- DONEVAL goes to DONEADDR; a store that faults is reported and not made (R52, R210, R525). -/
def State.writeDone (s : State) (ctx addr : Nat) (val : BitVec 64) (handle : Nat) : State :=
  if addr = 0 then s
  else
    match s.agentWrite ctx addr (leBytes 8 val.toNat) with
    | .ok s => s
    | .error b => s.agentFault 3 ctx b 0 handle

/-- INSTANCE_COMPLETE (R210, R211, R510). -/
def execInstanceComplete (inst : Nat) (s : State) : Host.Outcome State Fault Refusal :=
  match SMap.look s.insts inst with
  | none => .next s
  | some x =>
    if !x.ended then .next s
    else
      let s := if x.refused then s else s.writeDone x.ctx x.doneAddr x.doneVal inst
      let s : State := { s with insts := SMap.drop s.insts inst }
      let s := (s.pptDrop (pinEntry (blockName x.block) x.ctx inst true 0)).rescanFor (blockName x.block)
      let s := s.countInstance x.ctx x.graph false
      .next ((s.singles.filter fun w => decide (w.ctx = x.ctx ∧ w.graph = x.graph)).foldl
        (fun s w => s.send .free (.singleInstanceAccept w.part w.queue)) s)

/-! ### Retirement (R51, R52) -/

/-- A node has retired: its successors may start, and the instance may be complete (R52 step 4, R210). -/
def State.nodeRetired (s : State) (i n : Nat) : State :=
  match SMap.look s.insts i with
  | none => s
  | some x =>
    let nodes := x.nodes.mapIdx fun j m => if j = n then { m with retired := true, released := true } else m
    let s : State := { s with insts := SMap.put s.insts i { x with nodes := nodes } }
    let succs := (x.nodes[n]?.map NodeState.succs).getD []
    (succs.foldl (fun s j => s.send .free (.nodeStart i j)) s).maybeComplete i

/-- Does a barrier belong to a grid? -/
def State.barOf (s : State) (h : Nat) : BarId → Bool
  | .crew c => decide ((s.crewAt c).grid = h)
  | .cluster g _ | .group g _ => decide (g = h)

/-- The request that a message carries to or from home, or on its way through a controller. -/
def eventReq : Instr → Option HomeReq
  | .homeRequest q | .homeWrite q | .homeAtomic q | .rowAtHome q | .translateRequest q | .sinkPacketAtHome q
  | .sinkPacketAtSite q | .tbInitOp q | .tbExpectOp q | .tbArriveOp q | .tbWaitOp q | .tbTestOp q | .lockAtHome q
  | .unlockAtHome q => some q
  | .homeFillComplete q _ | .writerAck q _ _ | .sinkResult q _ _ _ => some q
  | _ => none

/-- Has a grid accesses of its teams under way, which teams that a termination ended have left behind (R52, R443)? An
NMCMD that no engine has accepted is one (R162). -/
def State.accessesOpen (s : State) (h : Nat) : Bool :=
  let mine := fun (q : HomeReq) => match q.who with
    | .team k _ => decide ((s.crewAt (k / 16)).grid = h)
    | _ => false
  s.cores.any (fun c => c.2.stores.any fun p => mine p.q) || s.agenda.any (fun p => (eventReq p.ev).any mine) ||
    s.writes.any (fun w => (eventReq w.reply).any mine) || s.fills.any (fun p => p.2.any mine) ||
    s.bridge.any (fun b => mine b.q) || s.escs.any (fun e => e.reqs.any fun r => mine r.1) ||
    s.chans.any fun p => p.2.waits.any mine || p.2.queue.any fun b => decide (b.pid = none ∧ b.team.isSome ∧ b.grid = h)

/-- Forget a grid and its crews. -/
def State.dropGrid (s : State) (h : Nat) : State :=
  { s with grids := SMap.drop s.grids h, bars := s.bars.filter (fun p => !s.barOf h p.1),
           crews := s.crews.filter fun p => decide (p.2.grid ≠ h) }

/-- GRID_RETIRE (R51, R52): after every access of the grid, DONEVAL, GWAITs, dependants; the pools go to the parent, which
may retire in turn. -/
def execGridRetire (grid : Nat) (s : State) : Host.Outcome State Fault Refusal :=
  if !s.gridDone grid then .next s
  else if s.accessesOpen grid then .next (s.send .free (.gridRetire grid))
  else
    let g := s.gridAt grid
    let s := s.writeDone g.ctx g.launch.doneAddr g.launch.doneVal grid
    let s := s.dropGrid grid
    let s := match g.inst with
      | some (i, n) => s.nodeRetired i n
      | none => s
    match g.parent with
    | none => .next s
    | some p => .next ((if g.hidden then s else s.refill p g.ipool g.mpool).maybeRetire p)

/-! ### Gathering tasks (R55, R56) -/

/-- The pool accepts one task: into the group of its grid and entry, or a new one whose window opens (R55). The group closes as soon
as a trigger fires, so the rest of one SPAWN's tasks begin a new group (DESIGN CHOICE, log entry 125). -/
def State.addTask (s : State) (c grid : Nat) (entry : Word) (ws : List Word) : State :=
  let gs := (s.clusterAt c).groups
  match gs.find? fun g => decide (g.grid = grid ∧ g.entry = entry ∧ g.tasks.length < 1024) with
  | some g =>
    let g' := { g with tasks := g.tasks ++ [ws] }
    let s := s.mapCluster c fun x => { x with groups := x.groups.map fun y => if y = g then g' else y }
    let s := if g'.tasks.length ≥ 1024 then s.closeGroup c g' else s
    s.drainPool c 8192
  | none =>
    let g : TaskGroup := { grid := grid, entry := entry, since := s.clk, tasks := [ws] }
    let s := (s.mapCluster c fun x => { x with groups := x.groups ++ [g] }).later (s.clk + 2048)
      (.gatherWindowExpire c grid entry.toNat)
    s.drainPool c 8192

/-- SPAWN's limits (R463); with no active lane it hands nothing over and raises none (R448). -/
def spawnCheck (a b : Reg) (s : State) : Option TrapRec :=
  let t := s.me
  if t.actLanes (.spawn a b) = [] then none
  else if s.myGrid.depth ≥ 15 then some (preciseTrap 8 0x30 0 0 (lanesMask (t.actLanes (.spawn a b))))
  else limitTrap 0x32 ((t.actLanes (.spawn a b)).filterMap fun l =>
    if (t.rd a l).toNat % 4 ≠ 0 then some (l, (t.rd a l).toNat) else none)

/-- MBUD of SPAWN: ⌈36 × n / 64⌉ for each pass of n active lanes (R288). -/
def spawnUnits (lanes : List Nat) : Nat :=
  (List.range 32).foldl (fun u k => u + ceilDiv (36 * (lanes.filter fun l => decide (l / 32 = k)).length) 64) 0

/-- SPAWN (R55, R369): one task per active lane, accepted in ascending lane order; a pool without room for them stalls it. -/
def execSpawn (a b : Reg) (s : State) : Host.Outcome State Fault Refusal :=
  s.issueIf (.spawn a b) (spawnCheck a b) fun s =>
    let t := s.me
    let lanes := t.actLanes (.spawn a b)
    let c := clusterOfCore s.myCore
    if s.poolTasks c + lanes.length > 8192 then s.stall .spawn false
    else
      let grid := s.myCrew.grid
      let s := (s.chargeMem (spawnUnits lanes)).mapMe fun t => t.hold (releaseHold 4)
      (lanes.foldl (fun s l => s.addTask c grid (t.rd a l) ((List.range 8).map fun i => t.rd (regAt b i) l)) s).advance

/-- GATHER_WINDOW_EXPIRE (R55): groups whose window has ended close. -/
def execGatherWindowExpire (cluster grid entry : Nat) (s : State) : Host.Outcome State Fault Refusal :=
  let due := (s.clusterAt cluster).groups.filter fun g =>
    decide (g.grid = grid ∧ g.entry.toNat = entry ∧ g.since + 2048 ≤ s.clk)
  .next (due.foldl (fun s g => s.closeGroup cluster g) s)

/-! ### Donation (R57, R58, R516) -/

/-- The first cluster of a partition, from a starting number on, that advertises something. -/
def State.victimFrom (s : State) (part thief start : Nat) (offers : Cluster → Bool) : Option Nat :=
  ((List.range 64).map fun i => (start + i) % 64).find? fun c =>
    decide (c ≠ thief ∧ s.partOfCluster c = part) && decide (s.coresOf c ≠ []) && offers (s.clusterAt c)

/-- Can a cluster place its head block? -/
def State.canPlace (s : State) (c : Nat) : Bool :=
  match (s.clusterAt c).ccbs.head? with
  | none => false
  | some b => (s.pickCore (s.gridAt b.grid).launch c).isSome

/-- STEAL_REQUEST (R57): a cluster without a block it can place asks one that advertises crews, or else tasks. -/
def execStealRequest (cluster : Nat) (s : State) : Host.Outcome State Fault Refusal :=
  let x := s.clusterAt cluster
  if x.stealing || s.canPlace cluster || decide (s.coresOf cluster = []) then .next s
  else
    let part := s.partOfCluster cluster
    let crews := s.victimFrom part cluster x.stealNext fun y => decide (y.ccbs.length > 4)
    let tasks := s.victimFrom part cluster x.stealNext fun y =>
      decide (y.groups.foldl (fun n g => n + g.tasks.length) 0 > 2048)
    let ask := fun (v : Nat) (t : Bool) =>
      (s.mapCluster cluster fun y => { y with stealing := true, stealNext := v, stealTasks := t }).send .free
        (.stealRequestReceive cluster v)
    match crews, tasks with
    | some v, _ => .next (ask v false)
    | none, some v => .next (ask v true)
    | none, none => .next s

/-- Blocks from the most recently queued to the first. -/
def recentFirst (l : List Ccb) : List Ccb :=
  l.foldl (fun acc b =>
    let later := acc.takeWhile fun x => decide (x.since > b.since)
    later ++ [b] ++ acc.drop later.length) []

/-- STEAL_REQUEST_RECEIVE (R57): half of the blocks, at most 16, after which the victim may be dealt more
(R212); or the oldest group; or nothing. -/
def execStealRequestReceive (thief victim : Nat) (s : State) : Host.Outcome State Fault Refusal :=
  let x := s.clusterAt victim
  if (s.clusterAt thief).stealTasks then
    match oldestGroup x.groups with
    | some g =>
      let s := s.mapCluster victim fun y => { y with groups := y.groups.erase g }
      .next (s.send .free (.stealReply thief ⟨[], some (g.grid, g.entry, g.since, g.tasks)⟩))
    | none => .next (s.send .free (.stealReply thief ⟨[], none⟩))
  else
    let free := x.ccbs.filter fun b =>
      !(s.gridAt b.grid).launch.nodonate && decide ((s.gridAt b.grid).launch.kbar = 0)
    let out := (recentFirst free).take (min 16 (x.ccbs.length / 2))
    let s := s.mapCluster victim fun y => { y with ccbs := y.ccbs.filter fun b => !out.contains b }
    .next ((s.send .free (.stealReply thief ⟨out.map fun b => (b.grid, b.num, b.tasks), none⟩)).deal (s.partOfCluster victim))

/-- The partition of donated work: that of its grid (R32). -/
def State.workPart (s : State) (work : Donation) (thief : Nat) : Nat :=
  match work.crews, work.group with
  | b :: _, _ => (s.gridAt b.1).part
  | [], some g => (s.gridAt g.1).part
  | [], none => s.partOfCluster thief

/-- STEAL_REPLY (R57, R58, R516, R518): donated work is queued at the thief, or dealt again in its own partition where the
thief has no core or has left that partition meanwhile (R32); after an empty reply the round-robin advances and the cluster
looks again. -/
def execStealReply (thief : Nat) (work : Donation) (s : State) : Host.Outcome State Fault Refusal :=
  let s := s.mapCluster thief fun x => { x with stealing := false }
  let part := s.workPart work thief
  let live := decide (s.coresOf thief ≠ [] ∧ s.partOfCluster thief = part)
  let home := if live then thief else (s.dealTo part).getD thief
  let s := work.crews.foldl (fun s b =>
    let c : Ccb := ⟨b.1, b.2.1, b.2.2, 0⟩
    if live then s.queueBlock c thief else s.redeal part c) s
  match work.crews, work.group with
  | [], none =>
    .next ((s.mapCluster thief fun x => { x with stealNext := (x.stealNext + 1) % 64 }).send .free (.stealRequest thief))
  | _, none => .next (s.send .free (.crewPlace thief))
  | _, some (grid, entry, since, tasks) =>
    .next ((s.takeGroups home [{ grid := grid, entry := entry, since := since, tasks := tasks }]).send .free (.crewPlace home))

/-! ### Sage's searches (R230, R233, R234, R367, R525) -/

/-- Is a name pinned by a running graph instance (R209)? -/
def State.instancePins (s : State) (name : BitVec 48) : Bool :=
  s.insts.any fun p => !p.2.killed && decide (blockName p.2.block = name)

/-- An entry of a deferred list (R233). -/
def deferredEntry (queue : Nat) (name : BitVec 48) (ctx clk : Nat) : List Byte :=
  leBytes 64 (queue + 2 ^ 64 * name.toNat + 2 ^ 112 * ctx + 2 ^ 128 + 2 ^ 192 * (clk % 2 ^ 64))

/-- The lowest free entry of a deferred list among the next `n`: its number, or `none` when all are taken. -/
def State.freeDeferred (s : State) (ctx base : Nat) : Nat → Nat → Except BadAccess (Option Nat)
  | 0, _ => .ok none
  | n + 1, i =>
    match s.agentNat ctx (base + 64 * i) 64 with
    | .error b => .error b
    | .ok e => if !e.testBit 128 then .ok (some i) else State.freeDeferred s ctx base n (i + 1)

/-- Record a deferred reclaim: d as R367 lists it. -/
def State.deferName (s : State) (ctx queue : Nat) (name : BitVec 48) : State × Nat :=
  let base := s.ctxField ctx 0x20 8
  let failed := fun (s : State) (b : BadAccess) => (s.agentFault 1 ctx b name.toNat 0, 3)
  match s.freeDeferred ctx base (s.ctxField ctx 0x28 4) 0 with
  | .error b => failed s b
  | .ok none => (s, 2)
  | .ok (some i) =>
    match s.agentWrite ctx (base + 64 * i) (deferredEntry queue name ctx s.clk) with
    | .error b => failed s b
    | .ok s =>
      let h := pinBucket name
      ({ s with filter := SMap.set 0 s.filter h (SMap.get 0 s.filter h + 1) }, 1)

/-- A free packet is to be appended (R234). -/
def State.appendFree (s : State) (ctx queue : Nat) (name : BitVec 48) (deferred : Bool) : State :=
  let f : FreeAppend := { id := s.nextId, ctx := ctx, queue := queue, name := name, deferred := deferred, slot := none }
  ({ s with frees := s.frees ++ [f], nextId := s.nextId + 1 } : State).send .free (.freeQueueRetry f.id)

/-- Does a search find its name (R230)? Slots that changed during it may or may not have been seen. -/
def State.searchFinds (s : State) (x : Search) : Bool :=
  decide (x.held ≠ []) || (x.seen && Config.sageSample s.tick) || s.pptHolds x.name || s.instancePins x.name

/-- A search ends; entries that waited for it may go (R232). -/
def State.searchOver (s : State) (search : Nat) : State :=
  let s : State := { s with searches := s.searches.filter fun y => decide (y.id ≠ search),
                            pinDrops := s.pinDrops.map fun d => { d with waits := d.waits.filter (· ≠ search) } }
  if s.pinDrops = [] then s else s.send .free (.pinSaveRetry 0)

/-- SAGE_SEARCH_DONE (R230, R233, R367). -/
def execSageSearchDone (search : Nat) (s : State) : Host.Outcome State Fault Refusal :=
  match s.searches.find? fun x => decide (x.id = search) with
  | none => .next s
  | some x =>
    let found := s.searchFinds x
    let s := s.searchOver search
    match x.kind with
    | .pinq k o => .next (s.completeOut k o (if found then 1 else 0))
    | .reclaim k o queue =>
      if found then
        let r := s.deferName x.ctx queue x.name
        .next (r.1.completeOut k o r.2)
      else .next ((s.completeOut k o 0).appendFree x.ctx queue x.name false)

/-- A free packet without its SEQ (R234). -/
def freePacket (f : FreeAppend) (clk : Nat) : BitVec 512 :=
  packFields [(8, f.name.toNat), (0xE, f.ctx), (0x10, if f.deferred then 1 else 0), (0x18, clk % 2 ^ 64)]

/-- FREE_QUEUE_RETRY (R204, R234, R525): an append is tried; it waits while the ring is full. -/
def execFreeQueueRetry (append : Nat) (s : State) : Host.Outcome State Fault Refusal :=
  match s.frees.find? fun f => decide (f.id = append) with
  | none => .next s
  | some f =>
    let gone := fun (s : State) => ({ s with frees := s.frees.filter fun x => decide (x.id ≠ append) } : State)
    match s.append f.ctx f.queue f.slot (freePacket f s.clk) with
    | .done s => .next (gone s)
    | .full s i => .next { s with frees := s.frees.map fun x => if x.id = append then { x with slot := some i } else x }
    | .failed s b slot => .next ((gone s).agentFault 0 f.ctx b f.name.toNat 0 (slot.getD (2 ^ 64 - 1)))

/-- Contexts that have a deferred list: those whose DEFCAP is not zero (R264). -/
def State.deferredContexts (s : State) : List Nat :=
  let base := bitsOf (s.reg 0x300).toNat 22 30 * 2 ^ 22
  dedupNat ((s.dram.filter fun p => decide (base ≤ p.1 ∧ p.1 < base + 2 ^ 22) &&
    decide (0x28 ≤ (p.1 - base) % 64 ∧ (p.1 - base) % 64 < 0x2C)).map fun p => (p.1 - base) / 64)

/-- One deferred entry in a rescan of bucket `h`: freed if a full search finds no pin; one whose V cannot be cleared stays,
and is reported (R233, R525). -/
def State.rescanEntry (s : State) (h ctx base i : Nat) : State :=
  match s.agentNat ctx (base + 64 * i) 64 with
  | .error _ => s
  | .ok e =>
    let name := BitVec.ofNat 48 (bitsOf e 64 48)
    if !e.testBit 128 ∨ pinBucket name ≠ h then s
    else
      let s := s.countPart (s.partOfCtx ctx) 8 1
      if s.slotsWith name ≠ [] ∨ s.pptHolds name ∨ s.instancePins name then s
      else
        match s.agentWrite ctx (base + 64 * i + 0x10) (leBytes 1 0) with
        | .error b => s.agentFault 1 ctx b name.toNat 0
        | .ok s =>
          let s : State := { s with filter := SMap.set 0 s.filter h (SMap.get 0 s.filter h - 1) }
          s.appendFree (bitsOf e 112 16) (e % 2 ^ 64) name true

/-- DEFERRED_RESCAN (R233, R525): every list is scanned; one that cannot be read is reported and skipped. -/
def execDeferredRescan (bucket : Nat) (s : State) : Host.Outcome State Fault Refusal :=
  .next (s.deferredContexts.foldl (fun s ctx =>
    let base := s.ctxField ctx 0x20 8
    let cap := s.ctxField ctx 0x28 4
    match s.agentRead ctx base (64 * cap) with
    | .error b => s.agentFault 1 ctx b 0 0
    | .ok _ => (List.range cap).foldl (fun s i => s.rescanEntry bucket ctx base i) s) s)

end Sys2Proof.Machine
end

