-- ==== Sys2Proof/Machine/Matrix.lean ====
section
/-!
DEFINITION. Gangs, the accumulator store and the matrix datapath, 0xE0 to 0xE9 (14_isa_matrix_engines R380 to R396,
R524; 04_numbers R112 to R116; 23_exceptions_by_instruction R453, R466; 24_memory_failures R478), and how operations of
a team's batches finish (09_engines R249).
-/
namespace Sys2Proof.Machine

/-! ### Batches (R84, R249) -/

/-- Unfinished operations of each batch; the open batch counts under the number it will get. -/
def Team.batchCount (t : Team) (b : Word) : Nat := SMap.get 0 t.batches b.toNat

/-- An operation joins the open batch. -/
def Team.joinBatch (t : Team) : Team :=
  { t with batches := SMap.set 0 t.batches t.batchNext.toNat (t.batchCount t.batchNext + 1) }

/-- BATCHDONE is the last batch of the finished prefix (R84). -/
def Team.settleBatches (t : Team) : Team :=
  let dist := fun (b : Nat) => (b + 2 ^ 32 - t.batchDone.toNat) % 2 ^ 32
  let first := ((SMap.keys t.batches).map dist).foldl min (dist t.batchNext.toNat)
  { t with batchDone := t.batchDone + BitVec.ofNat 32 (first + 2 ^ 32 - 1) }

/-- An operation of batch `b` has finished. -/
def Team.finishOp (t : Team) (b : Word) : Team :=
  Team.settleBatches { t with batches := SMap.set 0 t.batches b.toNat (t.batchCount b - 1) }

/-- Batches that BWAIT and BWAITY count (R249). -/
def Team.unfinished (t : Team) : Nat := t.batches.length

/-- An operation of a team's batch finishes; a team parked in BWAITY may be re-activated. -/
def State.finishBatchOp (s : State) (k : Nat) (b : Word) : State :=
  (s.mapTeam k fun t => t.finishOp b).send .free (.bwaityReactivate k)

/-! ### Ending the wait of another team -/

/-- A team that stands at wait `o` ends it: an acquire at a scope, and the next instruction. A team that a strike or a
continuation has moved from the instruction keeps its arrival. -/
def State.endStand (s : State) (k : Nat) (o : WaitObj) (scope : Nat) : State :=
  let t := SMap.get default s.teams k
  if t.wait = some o then
    let cur := s.cur
    let s : State := { s with cur := k }
    { ((s.mapMe fun t => { (t.hold (acquireHold scope)) with wait := none }).advance) with cur := cur }
  else s

/-! ### GANG (R380) -/

/-- GANG's limits (R466): the lowest SUB that applies. -/
def gangCheck (a : Reg) (s : State) : Option TrapRec :=
  let t := s.me
  let v := (t.rd a 0).toNat
  let mask := v % 65536
  let inGang := t.gang.getLsbD 31
  let bad := fun (sub : Nat) => limitTrap sub [(0, v)]
  if t.arrived then none
  else if mask ≠ 0 ∧ inGang then bad 0x40
  else if mask = 0 ∧ ¬ inGang then bad 0x41
  else if mask ≠ 0 ∧ ¬ mask.testBit t.idx then bad 0x42
  else if mask ≠ 0 ∧ countBits mask 16 < 2 then bad 0x43
  else if v / 65536 ≠ 0 ∨ mask / 2 ^ s.myGrid.launch.crewTeams ≠ 0 then bad 0x44
  else none

/-- The gang word of a member (R81). -/
def gangWord (mask : BitVec 16) (idx : Nat) : Word :=
  BitVec.ofNat 32 (2 ^ 31 + 65536 * countBits mask.toNat idx + mask.toNat)

/-- The mask of the rendezvous at which the running team arrives: its operand, or its own gang's members. -/
def State.gangMask (s : State) (a : Reg) : BitVec 16 :=
  let m := (s.me.rd a 0).extractLsb' 0 16
  if m = 0 then s.me.gang.extractLsb' 0 16 else m

/-- Would the running team's arrival complete its rendezvous? -/
def State.gangLast (s : State) (a : Reg) : Bool :=
  let t := s.me
  let c := s.myCrew
  match s.gangOf t with
  | some g => (g.dissolve ||| BitVec.ofNat 16 (2 ^ t.idx)) &&& g.members = g.members
  | none =>
    let mask := s.gangMask a
    (List.range 16).all fun i => !mask.getLsbD i || decide (i = t.idx) || c.rendezvous.contains (mask, teamKey t.crew i)

/-- A gang forms, or dissolves: every member's GANG register changes and its wait ends, at crew scope. -/
def State.gangDone (s : State) (crew : Nat) (mask : BitVec 16) (forms : Bool) : State :=
  let ks := (s.teamsOfCrew crew).filter fun k => mask.getLsbD (SMap.get default s.teams k).idx
  let s := s.mapCrew crew fun c =>
    if forms then { c with rendezvous := c.rendezvous.filter fun p => decide (p.1 ≠ mask),
                           gangs := c.gangs ++ [{ members := mask }] }
    else { c with gangs := c.gangs.filter fun g => decide (g.members ≠ mask) }
  let s := ks.foldl (fun s k => s.mapTeam k fun t => { t with gang := if forms then gangWord mask t.idx else 0 }) s
  ks.foldl (fun s k => s.endStand k (.gang mask) 1) s

/-- GANG (R380, R497): the arrival, and the wait for the other members. The release before it is in the readiness of the
step. A team whose arrival stands goes on once the gang has formed or dissolved. -/
def execGang (a : Reg) (s : State) : Host.Outcome State Fault Refusal :=
  let ended := fun (s : State) => decide ((s.me.rd a 0).extractLsb' 0 16 ≠ 0) = s.me.gang.getLsbD 31
  s.issueWait (.gang a) (gangCheck a)
    (fun s => if s.me.arrived then (if ended s then none else some (.gang (s.gangMask a)))
      else if s.gangLast a then none else some (.gang (s.gangMask a)))
    fun s =>
      let t := s.me
      let mask := s.gangMask a
      if t.arrived then
        if ended s then (s.acquired 1).advance else s.stall (.gang mask) true
      else
        let forms := !t.gang.getLsbD 31
        if s.gangLast a then ((s.gangDone t.crew mask forms).acquired 1).advance
        else
          let s := s.mapCrew t.crew fun c =>
            if forms then { c with rendezvous := (mask, s.cur) :: c.rendezvous }
            else { c with gangs := c.gangs.map fun g =>
              if g.members = mask then { g with dissolve := g.dissolve ||| BitVec.ofNat 16 (2 ^ t.idx) } else g }
          s.stall (.gang mask) true

/-! ### The accumulator store (R82, R384, R385) -/

def Crew.accAt (c : Crew) (row col : Nat) : Word := SMap.get 0 c.acc (256 * row + col)
def Crew.setAcc (c : Crew) (row col : Nat) (w : Word) : Crew := { c with acc := SMap.set 0 c.acc (256 * row + col) w }

/-- Hand an operation to the matrix datapath of the running team's core (R524). -/
def State.submit (s : State) (o : AccOp) : State := s.mapCore s.myCore fun c => { c with jobs := c.jobs ++ [o] }

/-- An operation that is issued again is accepted now, and what its teams issued behind it is performed after it (R387, R478,
R524). -/
def requeue (o : AccOp) (jobs : List AccOp) : List AccOp :=
  let behind := fun (x : AccOp) => x.teams.any o.teams.contains
  (jobs.filter fun x => !behind x) ++ o :: jobs.filter behind

/-- The lowest run of `n` free rows. -/
def Crew.freeRun (c : Crew) (n : Nat) : Option Nat :=
  (List.range (c.accRows + 1 - n)).find? fun r => (List.range n).all fun i => (SMap.look c.owner (r + i)).isNone

/-- ACCALLOC (R384, R466). -/
def execAccalloc (d a : Reg) (s : State) : Host.Outcome State Fault Refusal :=
  s.issueIf (.accalloc d a)
    (fun s =>
      let n := (s.me.rd a 0).toNat
      if s.myCrew.owner.any fun p => decide (p.2 = s.me.idx + 1) then some (preciseTrap 8 0x50 0 0 1)
      else if n = 0 ∨ n > 512 then limitTrap 0x51 [(0, n)] else none)
    fun s =>
      let t := s.me
      let n := (t.rd a 0).toNat
      match s.myCrew.freeRun n with
      | none => (s.mapMe fun t => t.wr d 0 (BitVec.allOnes 32)).advance
      | some r =>
        let s := s.mapCrew t.crew fun c =>
          { c with owner := (List.range n).foldl (fun o i => SMap.put o (r + i) (t.idx + 1)) c.owner }
        let s := (s.mapMe fun t => { t with accBase := r, accLim := n }).mapMe fun t => t.wr d 0 (BitVec.ofNat 32 r)
        (s.submit (.zero t.crew s.cur r n)).advance

/-- ACCWIN (R384, R466). -/
def execAccwin (a b : Reg) (s : State) : Host.Outcome State Fault Refusal :=
  s.issueIf (.accwin a b)
    (fun s =>
      let x := (s.me.rd a 0).toNat
      let y := (s.me.rd b 0).toNat
      let rows := s.myCrew.accRows
      if x > rows then limitTrap 0x52 [(0, x)] else if x + y > rows then limitTrap 0x52 [(0, y)] else none)
    fun s => (s.mapMe fun t => { t with accBase := (t.rd a 0).toNat % 512, accLim := (t.rd b 0).toNat }).advance

/-- ACCFREE (R384): earlier matrix operations of the team have finished (readiness of the step). -/
def execAccfree (s : State) : Host.Outcome State Fault Refusal :=
  s.issue .accfree fun s =>
    let i := s.me.idx + 1
    let s := s.mapCrew s.me.crew fun c => { c with owner := c.owner.filter fun p => decide (p.2 ≠ i) }
    (s.mapMe fun t => { t with accBase := 0, accLim := 0 }).advance

/-- Limits of element operands (R385, R466): the first operand that breaks its limit, in each lane. -/
def elemCheck (i : Instr) (a b : Reg) (s : State) : Option TrapRec :=
  let t := s.me
  limitTrap 0x53 ((t.actLanes i).filterMap fun l =>
    if (t.rd a l).toNat ≥ t.accLim then some (l, (t.rd a l).toNat)
    else if (t.rd b l).toNat ≥ 256 then some (l, (t.rd b l).toNat) else none)

/-- ACCRD (R385, R524). -/
def execAccrd (d a b : Reg) (s : State) : Host.Outcome State Fault Refusal :=
  s.issueIf (.accrd d a b) (elemCheck (.accrd d a b) a b) fun s =>
    let t := s.me
    let elems := (t.actLanes (.accrd d a b)).map fun l => (l, t.accBase + (t.rd a l).toNat, (t.rd b l).toNat)
    if elems = [] then s.advance
    else
      let o := { newOut t (.accrd d a b) .launch (regsWritten (.accrd d a b)) [] with pend := 1 }
      let s := s.setMe { t with outs := t.outs ++ [o], nextOut := t.nextOut + 1 }
      (s.submit (.read t.crew s.cur o.id elems)).advance

/-- ACCWR (R385, R524). -/
def execAccwr (d a b : Reg) (s : State) : Host.Outcome State Fault Refusal :=
  s.issueIf (.accwr d a b) (elemCheck (.accwr d a b) a b) fun s =>
    let t := s.me
    let elems := (t.actLanes (.accwr d a b)).map fun l => (t.accBase + (t.rd a l).toNat, (t.rd b l).toNat, t.rd d l)
    (if elems = [] then s else s.submit (.write t.crew s.cur elems)).advance

/-- ACCZERO (R385, R466, R524). -/
def execAcczero (a b : Reg) (s : State) : Host.Outcome State Fault Refusal :=
  s.issueIf (.acczero a b)
    (fun s =>
      let x := (s.me.rd a 0).toNat
      let y := (s.me.rd b 0).toNat
      if x > s.me.accLim then limitTrap 0x53 [(0, x)]
      else if y = 0 ∨ x + y > s.me.accLim then limitTrap 0x53 [(0, y)] else none)
    fun s =>
      let t := s.me
      (s.submit (.zero t.crew s.cur (t.accBase + (t.rd a 0).toNat) (t.rd b 0).toNat)).advance

/-! ### SCLD (R386) -/

/-- The chunks of memory that a scale load reads: number, offset, bytes. -/
def scaleChunks (mode : Nat) : List (Nat × Nat × Nat) :=
  match mode with
  | 0 => (List.range 64).map fun j => (j, 16 * j, 16)
  | 1 => (List.range 32).map fun j => (j, 16 * j, 16)
  | _ => (List.range 16).map (fun j => (j, 8192 + 16 * j, 16)) ++ [(16, 8448, 4)]

/-- SCLD's limits (R466). -/
def scaleCheck (a b : Reg) (s : State) : Option TrapRec :=
  let t := s.me
  let ctl := (t.rd b 0).toNat
  firstTrap (limitTrap 0 (objectAlign (t.addr a 0) 128))
    (if bitsOf ctl 16 2 = 3 ∨ ctl % 512 ≥ t.accLim ∨ bitsOf ctl 9 7 ≠ 0 ∨ ctl / 2 ^ 18 ≠ 0 then limitTrap 0x54 [(0, ctl)]
     else none)

/-- SCLD (R386, R524): its reads leave at issue; the row is written by the matrix datapath once they have returned. -/
def execScld (d a b : Reg) (s : State) : Host.Outcome State Fault Refusal :=
  s.issueIf (.scld d a b) (scaleCheck a b) fun s =>
    let t := s.me
    let core := s.myCore
    let ctl := (t.rd b 0).toNat
    let mode := bitsOf ctl 16 2
    let ls := (scaleChunks mode).map fun c => (c.2.2, s.classLoad (c.1, t.addr a 0 + c.2.1, c.2.2))
    let hits : List (Nat × Nat × Nat) := ls.filterMap fun x => match x.2 with
      | .hit l v lid => some (l, v, lid)
      | _ => none
    let bads : List (Nat × BadAccess) := ls.filterMap fun x => match x.2 with
      | .bad l b => some (l, b)
      | _ => none
    let misses := fun (n : Nat) => ls.filterMap fun x => match x.2 with
      | .miss c a => if x.1 = n then some (c, a) else none
      | _ => none
    let reqs := lineReqs core (.load 16) (misses 16) ++ lineReqs core (.load 4) (misses 4)
    let s := if reqs = [] then s else s.chargeMem (s.missCharge core reqs)
    let s := s.touchL1 core (hits.map fun h => h.2.2)
    let o : Outstanding := { newOut t (.scld d a b) .load (regsWritten (.scld d a b)) (linesOf reqs) with
               pend := reqs.length + 1, got := hits.map fun (h : Nat × Nat × Nat) => (h.1, h.2.1) }
    let o := bads.foldl (fun o p => o.addBad [p.1] p.2) o
    let o : Outstanding := { o with badLines := s.badLinesOf bads }
    let s := s.mapMe fun t => { t with outs := t.outs ++ [o], nextOut := t.nextOut + 1 }
    let s := reqs.foldl (fun s q => s.request { q with who := .team s.cur o.id }) s
    let op : AccOp := .scale t.crew s.cur o.id (t.accBase + ctl % 512) mode
    (if t.scaleFaults.contains t.pc then
      (s.mapMe fun t => { t with scaleFaults := t.scaleFaults.filter (· ≠ t.pc) }).mapCore core fun c =>
        { c with jobs := requeue op c.jobs }
    else s.submit op).advance

/-- The elements of a scale row from the chunks read (R386): number and value. MODE 1 widens a BF16 NaN as R104 widens, keeping
its bits; CVT's canonical NaN of R98 is not taken (DESIGN CHOICE, log entry 104). -/
def scaleRow (mode : Nat) (got : List (Nat × Nat)) : List (Nat × Word) :=
  got.flatMap fun p =>
    match mode with
    | 0 => (List.range 4).map fun i => (4 * p.1 + i, BitVec.ofNat 32 (p.2 / 2 ^ (32 * i)))
    | 1 => (List.range 8).map fun i => (8 * p.1 + i, BitVec.ofNat 32 (p.2 / 2 ^ (16 * i) % 2 ^ 16 * 2 ^ 16))
    | _ => if p.1 = 16 then [] else (List.range 16).map fun i =>
        (16 * p.1 + i, BitVec.ofNat 32 (fmtF32.roundQuot 0 false (p.2 / 2 ^ (8 * i) % 256 + 1) 256))

/-- The value of s[D] (R386). -/
def scaleOf (mode : Nat) (got : List (Nat × Nat)) : Nat :=
  if mode = 2 then ((got.find? fun p => decide (p.1 = 16)).map Prod.snd).getD 0 % 2 ^ 32 else 0x3F800000

/-! ### MMA: the limits of its format word (R390) -/

/-- The limits of R390 but for the length of an integer chain: rows of A available, registers of A, window. A QC4 MMA without
chain-end passes, and leaves its chain open (R113; DESIGN CHOICE, log entry 127). -/
def fmtOk (f : BitVec 64) (baddr accLim rows reg window : Nat) : Bool :=
  match stepLen (fmtA f) (fmtB f) with
  | none => false
  | some len =>
    decide (fmtK f % len = 0) && !f.getLsbD 55 && decide (bitsOf f.toNat 25 7 = 0 ∧ bitsOf f.toNat 10 6 = 0) &&
    (if fmtB f = 6 then decide (fmtK f = 64 ∧ fmtPitch f = 0 ∧ baddr % 128 = 0)
     else decide (baddr % 64 = 0 ∧ 1 ≤ fmtPitch f ∧ fmtN f * codeWidth (fmtB f) ≤ 512 * fmtPitch f ∧
       (fmtB f = 5 → fmtN f % 2 = 0))) &&
    decide (fmtProw f + fmtM f ≤ accLim ∧ fmtM f ≤ rows ∧ reg + rowRegs f ≤ window) &&
    (intChain (fmtA f) || !f.getLsbD 9)

/-- The SUB of the limit that an MMA breaks (R390, R392, R466). -/
def mmaLimit (c : ChainState) (f : BitVec 64) (baddr accLim rows reg window k0 : Nat) : Option Nat :=
  let count := if c.openKey.isSome then c.count else 0
  if !fmtOk f baddr accLim rows reg window then some 0x55
  else if intChain (fmtA f) ∧ c.openKey.all (· = keyOf f) ∧ count + (fmtK f - k0) > 65536 then some 0x55
  else match c.openKey with
    | some k => if k = keyOf f then none else some 0x56
    | none => none

/-- IBUD of an MMA (R287). -/
def mmaUnits (f : BitVec 64) (k0 : Nat) : Nat := ceilDiv (fmtM f * fmtN f * (fmtK f - k0)) 4096

/-- The rows that a team supplies, from its active lanes (R391). -/
def Team.aRows (t : Team) (reg : Nat) (f : BitVec 64) : SMap Word :=
  (t.actives.flatMap fun l => (List.range (rowRegs f)).map fun r => (512 * l + r, t.readV (reg + r) l)).foldl
    (fun m p => SMap.set 0 m p.1 p.2) []

/-- The format words in force in a team: one for each active lane of a vector operand (R388). -/
def Team.fmtWords (t : Team) (b : Reg) : List (BitVec 64) :=
  match b with
  | .s _ => [t.rd64 b 0]
  | .v _ => t.actives.map fun l => t.rd64 b l

/-- Format words that differ between the active lanes of one team (R388, R453). -/
def fmtCheck (b : Reg) (s : State) : Option TrapRec :=
  match s.me.fmtWords b with
  | [] => none
  | f :: r => if r.all (· = f) then none else some (preciseTrap 6 0 (s.me.gang.toNat % 65536) 0)

/-- The copy of an instruction that a member brings to the latch, or that a single team issues (R381). -/
def State.mmaCopy (s : State) (d a b : Reg) : LatchCopy :=
  let t := s.me
  let f := (t.fmtWords b).head?
  { team := s.cur, mma := true, fmt := f, scal := [t.rd a 0, t.rd (regAt a 1) 0], base := t.accBase, lim := t.accLim,
    mrow := t.trap.mrow, reg := d.code, rows := (f.map (t.aRows d.code)).getD [], lanes := t.live, pc := t.pc, kept := none,
    mixed := (t.fmtWords b).any fun g => decide (some g ≠ f), shown := if isVec b then t.live else 1 }

/-- Address of B in a copy. -/
def LatchCopy.baddr (c : LatchCopy) : Nat := match c.scal with
  | [lo, hi] => lo.toNat + 2 ^ 32 * hi.toNat
  | _ => 0

/-! ### Submitting matrix operations -/

/-- Teams of an MMA take part in it: MROW.V := 0, and it joins their open batches (R392, R393). -/
def State.joinMma (s : State) (k : Nat) : State :=
  s.mapTeam k fun t => { (t.joinBatch) with trap := { t.trap with mrow := t.trap.mrow &&& 0x7FFFFFFF } }

/-- SUBMIT an MMA whose copies agree, in INDEX order (R391 to R393). -/
def State.submitMma (s : State) (cs : List LatchCopy) (f : BitVec 64) : State :=
  match cs with
  | [] => s
  | c :: _ =>
    let t := SMap.get default s.teams c.team
    let chain := s.chainOf t
    let k0 := firstK c.mrow
    let rows := (cs.mapIdx fun i c => c.rows.filterMap fun p =>
      let m := i * t.lanes + p.1 / 512
      if m < fmtM f then some (512 * m + p.1 % 512, p.2) else none).flatten
    let parts := cs.map fun c =>
      { team := c.team, pc := c.pc, lanes := c.lanes, batch := (SMap.get default s.teams c.team).batchNext : MmaPart }
    let j : MmaJob := { crew := t.crew, parts := parts, fmt := f, baddr := c.baddr,
                        a := rows.foldl (fun m p => SMap.set 0 m p.1 p.2) [], k0 := k0, base := c.base,
                        opens := chain.openKey.isNone, seq := t.nextOut,
                        count := (if chain.openKey.isSome then chain.count else 0) + (fmtK f - k0) }
    let s := s.countUnit 0 (s.crewAt t.crew).core 8 9 (cs.length * mmaUnits f k0)
    let s := s.setChain c.team (chain.take f k0)
    let s := cs.foldl (fun s c => s.joinMma c.team) s
    s.mapCore (s.crewAt t.crew).core fun x => { x with jobs := x.jobs ++ [.mma j] }

/-- RE-ISSUE a kept MMA from MROW, before the team's later matrix operations (R394, R478); its chain goes on, and ends with it
under CEND (R392), unless a later MMA has taken it on. -/
def State.resubmit (s : State) (j : MmaJob) (mrow : Word) : State :=
  let k0 := firstK mrow
  let s := s.countUnit 0 (s.crewAt j.crew).core 8 9 (j.parts.length * mmaUnits j.fmt k0)
  let s := match j.parts with
    | p :: _ =>
      let c := s.chainOf (SMap.get default s.teams p.team)
      if c.openKey = some (keyOf j.fmt) ∧ s.mmaQueued p.team = false then s.setChain p.team (c.take j.fmt k0) else s
    | [] => s
  let parts := j.parts.map fun p => { p with batch := (SMap.get default s.teams p.team).batchNext }
  let s := j.parts.foldl (fun s p => (s.joinMma p.team).mapTeam p.team fun t => { t with mma := none }) s
  s.mapCore (s.crewAt j.crew).core fun x => { x with jobs := requeue (.mma { j with parts := parts, k0 := k0 }) x.jobs }

/-- MDRAIN's limits on a chain and window (R395, R466); an integer chain uses no scale rows (R396). -/
def drainLimit (c : ChainState) (ctl : Nat) (lim : Nat) : Option Nat :=
  if c.openKey.isSome then some 0x57
  else match c.closed with
    | none => some 0x58
    | some k =>
      if ctl.testBit 29 ∨ ctl.testBit 19 ∨ ctl.testBit 9 ∨ (ctl.testBit 31 ∧ k.bfmt = 6) ∨ ctl % 512 + k.m > lim ∨
          (¬ intChain k.afmt ∧ ((¬ ctl.testBit 30 ∧ bitsOf ctl 10 9 ≥ lim) ∨ (¬ ctl.testBit 31 ∧ bitsOf ctl 20 9 ≥ lim)))
      then some 0x59
      else none

/-- SUBMIT an MDRAIN (R396). -/
def State.submitDrain (s : State) (cs : List LatchCopy) : State :=
  match cs with
  | [] => s
  | c :: _ =>
    let t := SMap.get default s.teams c.team
    match (s.chainOf t).closed, c.scal with
    | some k, [ctl, sc] =>
      s.mapCore (s.crewAt t.crew).core fun x =>
        { x with jobs := x.jobs ++ [.drain t.crew (cs.map LatchCopy.team) ctl sc k c.base] }
    | _, _ => s

/-- The trap of a matrix limit: it shows the format word, the control word or nothing, and the lanes that hold the format word
(R454). -/
def matrixTrap (sub : Nat) (c : LatchCopy) : TrapRec :=
  let v := if c.mma then (c.fmt.map BitVec.toNat).getD 0 else if sub = 0x59 then (c.scal.headD 0).toNat else 0
  preciseTrap 8 sub (v % 2 ^ 32) (v / 2 ^ 32) (if sub = 0x55 ∨ sub = 0x56 then c.shown else 1)

/-- The limit that an agreed operation breaks: checked once, on the agreed copy, with the A registers of each member in its own
window (R390, R454, R466). -/
def State.matrixLimit (s : State) (cs : List LatchCopy) (f : Option (BitVec 64)) : Option Nat :=
  match cs with
  | [] => none
  | c :: _ =>
    let t := SMap.get default s.teams c.team
    if c.mma then f.bind fun f =>
      let window := fun (x : LatchCopy) => (SMap.get default s.teams x.team).window
      let x := (cs.find? fun x => decide (window x < x.reg + rowRegs f)).getD c
      mmaLimit (s.chainOf t) f c.baddr c.lim (t.lanes * cs.length) x.reg (window x) (firstK c.mrow)
    else drainLimit (s.chainOf t) (c.scal.headD 0).toNat c.lim

/-! ### The rendezvous latch (R381, R478) -/

/-- The copies of a complete latch, in INDEX order; `none` while a member is missing. -/
def State.latched (s : State) (crew : Nat) (g : Gang) : Option (List LatchCopy) :=
  let cs := (s.gangKeys crew g).map fun k => g.latch.find? fun c => decide (c.team = k)
  if cs.all Option.isSome then some (cs.filterMap id) else none

/-- The SUB by which copies differ (R381, R453): of several the lowest (DESIGN CHOICE, log entry 105). -/
def diverge (cs : List LatchCopy) : Option Nat :=
  match cs with
  | [] => none
  | c :: r =>
    let fmts := cs.filterMap LatchCopy.fmt
    if cs.any LatchCopy.mixed then some 0
    else if r.any (fun x => x.mma ≠ c.mma) then some 1
    else if fmts.any (fun f => some f ≠ fmts.head?) then some 2
    else if r.any (fun x => x.scal ≠ c.scal) then some 3
    else if r.any (fun x => x.base ≠ c.base ∨ x.lim ≠ c.lim ∨ x.mrow ≠ c.mrow) then some 4 else none

/-- Change the latch of a gang. -/
def State.setLatch (s : State) (crew : Nat) (mask : BitVec 16) (l : List LatchCopy) : State :=
  s.mapCrew crew fun c => { c with gangs := c.gangs.map fun g => if g.members = mask then { g with latch := l } else g }

/-- The wait of a member whose copy has been used ends; one that has gone on at a continuation stays where it is (R225, R381). -/
def State.endLatch (s : State) (c : LatchCopy) : State :=
  let t := SMap.get default s.teams c.team
  if t.pc = c.pc ∧ t.arrived then s.endStand c.team .latch 0 else s

/-- The copies of a complete latch are compared and checked, and the operation is performed once, or every member traps (R381
steps 3 to 5). A member without a format word of its own is charged now, by the others' word (R287, R388, R393; DESIGN CHOICE,
log entry 105). -/
def State.compareLatch (s : State) (g : Gang) (cs : List LatchCopy) (trapAll : (LatchCopy → TrapRec) → State → State)
    (done : State → State) : State :=
  let f := (cs.filterMap LatchCopy.fmt).head?
  let s := cs.foldl (fun s c => match c.mma, c.fmt, f with
    | true, none, some f => s.mapTeam c.team fun t => t.chargeI (mmaUnits f (firstK c.mrow))
    | _, _, _ => s) s
  match diverge cs, s.matrixLimit cs f with
  | some sub, _ => trapAll (fun _ => preciseTrap 6 sub g.members.toNat 0) s
  | none, some sub => trapAll (fun c => matrixTrap sub { c with fmt := f }) s
  | none, none =>
    match (cs.head?.map LatchCopy.mma).getD false, f with
    | true, some f => done (s.submitMma cs f)
    | true, none => done s
    | false, _ => done (s.submitDrain cs)

/-- COMPLETE a latch whose last member has arrived: a faulted MMA that every member has issued again goes on from its kept copy
(R478), and any other copies are compared. -/
def State.fireLatch (s : State) (crew : Nat) (g : Gang) : State :=
  match s.latched crew g with
  | none => s
  | some cs =>
    let s := s.setLatch crew g.members []
    let trapAll := fun (r : LatchCopy → TrapRec) (s : State) => cs.foldl (fun s c =>
      (s.mapTeam c.team fun t => { t with stood := none }).takeTrap c.team (r c) c.pc c.pc) s
    let done := fun (s : State) => cs.foldl State.endLatch s
    match cs.map LatchCopy.kept, cs.head? with
    | some j :: r, some c =>
      if r.all fun x => decide (x.map MmaJob.a = some j.a) then done (s.resubmit j c.mrow) else s.compareLatch g cs trapAll done
    | _, some _ => s.compareLatch g cs trapAll done
    | _, none => s

/-- A member's copy reaches the latch. -/
def State.bringCopy (s : State) (c : LatchCopy) : State :=
  match s.gangOf s.me with
  | none => s
  | some g =>
    let g' := { g with latch := g.latch ++ [c] }
    (s.setLatch s.me.crew g.members g'.latch).fireLatch s.me.crew g'

/-- Does the latch hold a copy of the running team? -/
def State.inLatch (s : State) : Bool := match s.gangOf s.me with
  | some g => g.latch.any fun c => decide (c.team = s.cur)
  | none => false

/-- A matrix instruction of a gang member: admitted as a rendezvous wait, charged at arrival, latched (R381, R497). A copy
that an earlier re-issue left at the latch must be used first. -/
def State.gangIssue (s : State) (c : LatchCopy) (units : Nat) : State :=
  if s.me.arrived then (if s.inLatch then s.stall .latch true else s.advance)
  else if s.inLatch then s.stall .latch false
  else s.admitWait (fun s => s.charge units) .latch fun s => (s.stall .latch true).bringCopy c

/-- The MMA kept for the running team's re-issue at this instruction, if there is one (R478). -/
def State.keptMma (s : State) : Option MmaJob :=
  let t := s.me
  if t.reissue.isNone then none
  else t.mma.filter fun j => j.parts.any fun p => decide (p.team = s.cur ∧ p.pc = t.pc)

/-- The rows of A that a team brought to an MMA, by its own lanes (R391). -/
def MmaJob.rowsOf (j : MmaJob) (k lanes : Nat) : SMap Word :=
  let i := j.parts.findIdx fun p => decide (p.team = k)
  j.a.filterMap fun p => if p.1 / 512 / lanes = i then some (512 * (p.1 / 512 % lanes) + p.1 % 512, p.2) else none

/-- A kept MMA as its team issues it again outside a gang (R382, R478). -/
def MmaJob.only (j : MmaJob) (k : Nat) : MmaJob :=
  if j.parts.length ≤ 1 then j else { j with parts := j.parts.filter fun p => decide (p.team = k) }

/-- The copy that a member brings to the latch with a kept MMA: what it latched before, not its registers (R478). -/
def State.keptCopy (s : State) (j : MmaJob) (c : LatchCopy) : LatchCopy :=
  { c with fmt := some j.fmt, scal := [BitVec.ofNat 32 j.baddr, BitVec.ofNat 32 (j.baddr / 2 ^ 32)], base := j.base,
           rows := j.rowsOf s.cur s.me.lanes, kept := some j, mixed := false }

/-- MMA (R388 to R393, R478). -/
def execMma (d a b : Reg) (s : State) : Host.Outcome State Fault Refusal :=
  match decodeCheck (.mma d a b) s.me, s.keptMma with
  | some r, _ => .next (s.trap r)
  | none, some j =>
    let mrow := s.me.trap.mrow
    let s := s.charge (mmaUnits j.fmt (firstK mrow))
    (match s.gangOf s.me with
     | none => .next ((s.resubmit (j.only s.cur) mrow).advance)
     | some _ => .next ((s.bringCopy (s.keptCopy j (s.mmaCopy d a b))).advance))
  | none, none =>
    let c := s.mmaCopy d a b
    let units := (c.fmt.map fun f => mmaUnits f (firstK c.mrow)).getD 0
    if s.me.arrived then .next (s.gangIssue c 0)
    else
      match s.gangOf s.me, fmtCheck b s, c.fmt with
      | some _, _, _ => .next (s.gangIssue c units)
      | none, some r, _ => .next (s.trap r)
      | none, none, none => .next s.advance
      | none, none, some f =>
        match s.matrixLimit [c] (some f) with
        | some sub => .next (s.trap (matrixTrap sub c))
        | none => .next ((s.charge units).submitMma [c] f).advance

/-- MDRAIN (R395, R396, R466). -/
def execMdrain (d a : Reg) (s : State) : Host.Outcome State Fault Refusal :=
  match decodeCheck (.mdrain d a) s.me with
  | some r => .next (s.trap r)
  | none =>
    let t := s.me
    let units := issueCharge (.mdrain d a) t
    let c : LatchCopy := { team := s.cur, mma := false, fmt := none, scal := [t.rd d 0, t.rd a 0], base := t.accBase,
                           lim := t.accLim, mrow := t.trap.mrow, reg := 0, rows := [], lanes := t.live, pc := t.pc,
                           kept := none }
    match s.gangOf t with
    | some _ => .next (s.gangIssue c units)
    | none =>
      match s.matrixLimit [c] none with
      | some sub => .next (s.trap (matrixTrap sub c))
      | none => .next ((s.charge units).submitDrain [c]).advance

/-! ### The matrix datapath (R112 to R116, R392, R396, R524) -/

/-- The float format of an operand code. -/
def floatOf (c : Nat) : FloatFmt :=
  match c with
  | 0 => fmtBF16
  | 1 => fmtF16
  | 2 => fmtE4M3
  | _ => fmtE5M2

/-- The value of an element of a floating operand. -/
def elemFloat (code bits : Nat) : FloatVal :=
  if code = 6 then
    let q := qc4Level bits
    .num (decide (q < 0)) q.natAbs (-7)
  else (floatOf code).decode bits

/-- The value of an element of an integer operand. -/
def elemInt (code bits : Nat) : Int := sext (codeWidth code) bits

/-- Element k of row m of A (R94, R391). -/
def MmaJob.aElem (j : MmaJob) (m k : Nat) : Nat :=
  let w := codeWidth (fmtA j.fmt)
  bitsOf (SMap.get 0 j.a (512 * m + k * w / 32)).toNat (k * w % 32) w

/-- Where element (k, n) of B lies: byte address and bit offset (R110, R391). -/
def MmaJob.bPlace (j : MmaJob) (k n : Nat) : Nat × Nat :=
  if fmtB j.fmt = 6 then (j.baddr + 32 * n + k / 2, 4 * (k % 2))
  else
    let w := codeWidth (fmtB j.fmt)
    (j.baddr + 64 * fmtPitch j.fmt * k + n * w / 8, n * w % 8)

/-- K rows of the step at which an MMA stands (R112). -/
def MmaJob.stepRows (j : MmaJob) : Nat := min ((stepLen (fmtA j.fmt) (fmtB j.fmt)).getD 8) (fmtK j.fmt - j.k0)

/-- 16-byte units of a row of B (R391). -/
def MmaJob.rowUnits (j : MmaJob) : Nat := ceilDiv (fmtN j.fmt * codeWidth (fmtB j.fmt)) 128

/-- Bytes of a unit of B: 16, or of a QC4 column what the step takes of it. -/
def MmaJob.unitBytes (j : MmaJob) : Nat := if fmtB j.fmt = 6 then ceilDiv (j.k0 % 2 + j.stepRows) 2 else 16

/-- The units of B that a step reads: number, address and bytes (R110, R391). -/
def MmaJob.bUnits (j : MmaJob) : List (Nat × Nat × Nat) :=
  if fmtB j.fmt = 6 then (List.range (fmtN j.fmt)).map fun n => (n, (j.bPlace j.k0 n).1, j.unitBytes)
  else
    let bytes := ceilDiv (fmtN j.fmt * codeWidth (fmtB j.fmt)) 8
    (List.range j.stepRows).flatMap fun i => (List.range j.rowUnits).map fun c =>
      (i * j.rowUnits + c, (j.bPlace (j.k0 + i) 0).1 + 16 * c, min 16 (bytes - 16 * c))

/-- Where row `i` of a step has element n of B: unit and bit offset. -/
def MmaJob.bUnit (j : MmaJob) (i n : Nat) : Nat × Nat :=
  if fmtB j.fmt = 6 then (n, 4 * (j.k0 % 2 + i))
  else
    let bit := n * codeWidth (fmtB j.fmt)
    (i * j.rowUnits + bit / 128, bit % 128)

/-- The B elements of a step, column by column, from the units read. -/
def MmaJob.columns (j : MmaJob) (got : List (Nat × Nat)) : List (List Nat) :=
  let units := got.foldl (fun m g => SMap.set 0 m g.1 g.2) ([] : SMap Nat)
  (List.range (fmtN j.fmt)).map fun n => (List.range j.stepRows).map fun i =>
    let p := j.bUnit i n
    bitsOf (SMap.get 0 units p.1) p.2 (codeWidth (fmtB j.fmt))

/-- A floating step: the exact sum of the products, rounded toward zero, added to the partial toward zero (R113, R114). -/
def floatStep (afmt bfmt : Nat) (xs : List (Nat × Nat)) (p : Word) : Word :=
  let prods := xs.map fun x => (elemFloat afmt x.1).mul (elemFloat bfmt x.2)
  match prods with
  | [] => p
  | h :: r => BitVec.ofNat 32 (addRnd fmtF32 1 p.toNat (fmtF32.round 1 (r.foldl (FloatVal.add 1) h)))

/-- An integer step (R116). -/
def intStep (afmt bfmt : Nat) (xs : List (Nat × Nat)) (p : Word) : Word :=
  p + BitVec.ofInt 32 ((xs.map fun x => elemInt afmt x.1 * elemInt bfmt x.2).foldl (· + ·) 0)

/-- One step of an MMA on the partial rows (R392). -/
def MmaJob.step (j : MmaJob) (ks : List Nat) (cols : List (List Nat)) (c : Crew) : Crew :=
  let a := fmtA j.fmt
  let b := fmtB j.fmt
  (List.range (fmtM j.fmt)).foldl (fun c m =>
    let row := j.base + fmtProw j.fmt + m
    let xs := ks.map (j.aElem m)
    (cols.mapIdx fun n col => (n, col)).foldl (fun c p =>
      let pairs := xs.zip p.2
      let old := c.accAt row p.1
      c.setAcc row p.1 (if intChain a then intStep a b pairs old else floatStep a b pairs old)) c) c

/-- The partial rows of a chain that opens are zeroed (R392). -/
def MmaJob.clear (j : MmaJob) (c : Crew) : Crew :=
  if !j.opens then c
  else
    (List.range (fmtM j.fmt)).foldl (fun c m =>
      (List.range (fmtN j.fmt)).foldl (fun c n => c.setAcc (j.base + fmtProw j.fmt + m) n 0) c) c

/-- What the running team meets where it reads the units of B of a step, as plain loads (R391). -/
def State.bLoads (s : State) (j : MmaJob) : List LaneLoad := j.bUnits.map s.classLoad

/-- The requests among them, one for each line (R223). -/
def bReqs (core : Nat) (j : MmaJob) (ls : List LaneLoad) : List HomeReq :=
  (groupAccs (ls.filterMap fun x => match x with
    | .miss c a => some ((0, lineId c a.va), c, a)
    | _ => none)).map fun g =>
    ⟨.nobody, core, g.2.1, (g.2.2.head?.map LaneAcc.va).getD 0, .load j.unitBytes, g.2.2⟩

/-- Does an MMA wait for earlier stores of its first team, which its B reads must see (R158, R391)? -/
def State.mmaWaits (s : State) (j : MmaJob) : Bool :=
  match j.parts with
  | [] => false
  | p :: _ => (SMap.get default s.teams p.team).outs.any fun o =>
      decide (o.id < j.seq ∧ o.pend > 0) && (match o.cls with
        | .store | .atomic | .rowStore | .sink => true
        | _ => false)

/-- Has the core's pool room for the reads of a step (R24)? -/
def State.mmaRoom (s : State) (j : MmaJob) : Bool :=
  let core := (s.crewAt j.crew).core
  match j.parts with
  | [] => true
  | p :: _ => s.poolRoom core j.bUnits.length ||
      s.poolRoom core (bReqs core j (({ s with cur := p.team } : State).bLoads j)).length

/-- May the datapath go on with an MMA: the reads of its step may leave, or have returned? -/
def State.mmaReady (s : State) (j : MmaJob) : Bool :=
  match j.reads, j.parts with
  | some out, p :: _ => !(SMap.get default s.teams p.team).outs.any fun o => decide (o.id = out ∧ o.pend > 1)
  | _, _ => !s.mmaWaits j && s.mmaRoom j

/-- Is an SCLD still waiting for its data? -/
def State.scaleWaits (s : State) : AccOp → Bool
  | .scale _ k out _ _ => (SMap.get default s.teams k).outs.any fun o => decide (o.id = out ∧ o.pend > 1)
  | _ => false

/-- Must an operation be passed over: data not returned, a faulted MMA or SCLD of its team not yet issued again, or the region
saved (R387, R478, R524)? -/
def State.jobHeld (s : State) (o : AccOp) : Bool :=
  s.scaleWaits o || (s.crewAt o.crew).taken || o.teams.any fun k =>
    let t := SMap.get default s.teams k
    t.mma.isSome || decide (t.scaleFaults ≠ [])

/-- The operation that the datapath performs next, as what stands before it and itself: the first that is not passed
over; an operation behind one of its own team waits with it (R387, R524). -/
def State.pickJob (s : State) : List AccOp → List Nat → Option AccOp
  | [], _ => none
  | o :: r, behind =>
    if s.jobHeld o || o.teams.any behind.contains then State.pickJob s r (behind ++ o.teams)
    else match o with
      | .mma j => if s.mmaReady j then some o else none
      | _ => some o

/-- What the datapath of a core does next: it goes on with the MMA that it has started, or takes the next operation (R524). -/
def State.nextJob (s : State) (core : Nat) : Option AccOp :=
  match (s.coreAt core).jobs.find? fun o => match o with
    | .mma j => j.running
    | _ => false with
  | some (.mma j) => if s.mmaReady j then some (.mma j) else none
  | _ => s.pickJob (s.coreAt core).jobs []

/-- An operation leaves the datapath. -/
def State.dropJob (s : State) (core : Nat) (o : AccOp) : State :=
  s.mapCore core fun c => { c with jobs := c.jobs.erase o }

/-- The MMA of every team of a job failed at K row `k` (R392, R394, R478): the kept copy, and a PART trap each, which come in the
order of the members, so that the lowest TEAM takes the handler (R439); MROW and the chain follow with the trap. -/
def State.mmaFault (s : State) (core : Nat) (j : MmaJob) (b : BadAccess) (k : Nat) : State :=
  let kept := { j with k0 := k, opens := false, running := false, reads := none }
  j.parts.foldl (fun s p =>
    let s := s.mapTeam p.team fun t => { t with mma := some kept }
    let r : TrapRec := { cause := b.cause, sub := 16 * b.site + b.kind, prec := false, part := true,
                         info0 := b.va % 2 ^ 32, info1 := b.va / 2 ^ 32 % 2 ^ 32, lanes := p.lanes }
    (s.finishBatchOp p.team p.batch).send (.back 384 core) (.partTrap p.team r p.pc.toNat)) s

/-- An MMA has performed its last step: it is finished for every team's batch (R393). -/
def State.mmaDone (s : State) (core : Nat) (j : MmaJob) : State :=
  j.parts.foldl (fun s p => s.finishBatchOp p.team p.batch) (s.dropJob core (.mma j))

/-- The step of an MMA starts (R391, R392): a chain that opens has its partial rows zeroed, and the step's B rows are read as plain
loads of the first member, which are charged to it (R223, R288). -/
def State.mmaRead (s : State) (core : Nat) (j : MmaJob) : State :=
  let s := if j.opens then s.mapCrew j.crew j.clear else s
  match j.parts with
  | [] => s.dropJob core (.mma j)
  | p :: _ =>
    if fmtK j.fmt ≤ j.k0 then s.mmaDone core j
    else
      let cur := s.cur
      let s : State := { s with cur := p.team }
      let ls := s.bLoads j
      let reqs := bReqs core j ls
      let hits := ls.filterMap fun x => match x with
        | .hit l v lid => some (l, v, lid)
        | _ => none
      let s := if reqs = [] then s else s.chargeMem (s.missCharge core reqs)
      let s := s.touchL1 core (hits.map fun h => h.2.2)
      let o := { newOut s.me (.mma (.v 0) (.s 0) (.s 0)) .load [] (linesOf reqs) with
                 pc := p.pc, pend := reqs.length + 1, got := hits.map fun h => (h.1, h.2.1), old := false }
      let o := ls.foldl (fun o x => match x with
        | .bad l b => o.addBad [l] b
        | _ => o) o
      let s := s.mapMe fun t => { t with outs := t.outs ++ [o], nextOut := t.nextOut + 1 }
      let s := reqs.foldl (fun s q => s.request { q with who := .team p.team o.id }) s
      let j' := { j with opens := false, running := true, reads := some o.id }
      { (s.mapCore core fun c => { c with jobs := c.jobs.map fun x => if x = .mma j then .mma j' else x }) with cur := cur }

/-- The reads of a step have returned: it is performed, or a fault of one of them stops the MMA before it (R392, R394). -/
def State.mmaStep (s : State) (core : Nat) (j : MmaJob) (out : Nat) : State :=
  match (j.parts.head?.bind fun p => SMap.look s.teams p.team).bind fun t => t.outs.find? fun o => decide (o.id = out) with
  | none => s.dropJob core (.mma j)
  | some o =>
    let s := s.mapTeam ((j.parts.head?.map MmaPart.team).getD 0) fun t =>
      { t with outs := t.outs.filter (fun x => decide (x.id ≠ out)), faultLines := t.faultLines ++ o.badLines }
    match o.bad with
    | some b => (s.dropJob core (.mma j)).mmaFault core j b j.k0
    | none =>
      let s := s.mapCrew j.crew (j.step ((List.range j.stepRows).map fun i => j.k0 + i) (j.columns o.got))
      if fmtK j.fmt ≤ j.k0 + j.stepRows then s.mmaDone core j
      else
        let j' := { j with k0 := j.k0 + j.stepRows, reads := none }
        s.mapCore core fun c => { c with jobs := c.jobs.map fun x => if x = .mma j then .mma j' else x }

/-- MMA_FINISH (R391 to R394, R478, R524): the datapath goes on with its MMA: the reads of a step leave, or the step is
performed; with its last step it is finished. -/
def execMmaFinish (core : Nat) (s : State) : Host.Outcome State Fault Refusal :=
  match s.nextJob core with
  | some (.mma j) =>
    let s := match j.reads with
      | none => s.mmaRead core j
      | some out => s.mmaStep core j out
    .next (s.takeRegion j.crew)
  | _ => .next s

/-- The drain of one element (R115, R116, R396): partial, scales, destination. -/
def drainElem (k : ChainKey) (p sa sb sc y : Word) : Word :=
  if intChain k.afmt then
    if k.isat then BitVec.ofInt 32 (max (-(2 ^ 31)) (min (2 ^ 31 - 1) (y.toInt + p.toInt))) else y + p
  else
    let x := fmulE fmtF32 1 false p.toNat sa.toNat
    let x := fmulE fmtF32 1 false x sb.toNat
    let x := fmulE fmtF32 1 false x (if k.bfmt = 6 then sc.toNat else 0x3F800000)
    BitVec.ofNat 32 (addRnd fmtF32 1 y.toNat x)

/-- MDRAIN on the accumulator store (R396): every element is read before any is written. -/
def drainRows (k : ChainKey) (ctl sc : Word) (base : Nat) (c : Crew) : Crew :=
  let one : Word := 0x3F800000
  let f := fun (lo : Nat) => base + bitsOf ctl.toNat lo 9
  (List.range k.m).foldl (fun x m =>
    (List.range k.n).foldl (fun x n =>
      let sa := if ctl.getLsbD 30 then one else c.accAt (f 10) m
      let sb := if ctl.getLsbD 31 then one else c.accAt (f 20) n
      x.setAcc (f 0 + m) n (drainElem k (c.accAt (base + k.prow + m) n) sa sb sc (c.accAt (f 0 + m) n))) x) c

/-- Zero rows of the accumulator store. -/
def zeroRows (row n : Nat) (c : Crew) : Crew :=
  { c with acc := c.acc.filter fun p => decide (p.1 < 256 * row ∨ 256 * (row + n) ≤ p.1) }

/-- An SCLD ends: its row and result, or the fault of its reads (R386, R470). -/
def State.endScale (s : State) (crew k out row mode : Nat) : State :=
  match (SMap.get default s.teams k).outs.find? fun o => decide (o.id = out) with
  | none => s
  | some o =>
    if o.bad.isSome then
      let o := { o with pend := 0, got := [], lanes := 1 }
      (s.mapTeam k fun t => { t with outs := t.outs.map fun x => if x.id = out then o else x,
                                     scaleFaults := t.scaleFaults ++ [o.pc] }).finishOut k o
    else
      let s := s.mapCrew crew fun c => (scaleRow mode o.got).foldl (fun c p => c.setAcc row p.1 p.2) c
      s.finishOut k { o with pend := 0, got := [(0, scaleOf mode o.got)] }

/-- An operation other than an MMA is performed (R385, R386, R396). -/
def State.performAcc (s : State) : AccOp → State
  | .mma _ => s
  | .drain crew _ ctl sc key base => s.mapCrew crew (drainRows key ctl sc base)
  | .read crew k out elems =>
    let c := s.crewAt crew
    let got := elems.map fun e => (e.1, (c.accAt e.2.1 e.2.2).toNat)
    match (SMap.get default s.teams k).outs.find? fun o => decide (o.id = out) with
    | none => s
    | some o => s.finishOut k { o with pend := 0, got := got }
  | .write crew _ elems => s.mapCrew crew fun c => elems.foldl (fun c e => c.setAcc e.1 e.2.1 e.2.2) c
  | .zero crew _ row n => s.mapCrew crew (zeroRows row n)
  | .scale crew k out row mode => s.endScale crew k out row mode

/-- ACCUMULATOR_OP_DONE (R385 to R387, R396, R524): the operation that the datapath takes next is performed; a region that waits
for it may be taken. -/
def execAccumulatorOpDone (core : Nat) (s : State) : Host.Outcome State Fault Refusal :=
  match s.nextJob core with
  | none | some (.mma _) => .next s
  | some o => .next (((s.dropJob core o).performAcc o).takeRegion o.crew)

end Sys2Proof.Machine
end

