-- ==== Sys2Proof/Machine/Drover.lean ====
section
/-!
DEFINITION. Engine-issue and batch instructions 0xD0 to 0xD9 and 0xDB (14_isa_matrix_engines R374 to R379), Drover
engines and their packets (09_engines R235 to R245, R249 to R251; 06_consistency R177 to R179; 10_host_peers R267;
24_memory_failures R479 to R481, R491; 25_scheduling_failures R515). A packet moves one unit at a time, so that other
accesses fall between its units; its reads and writes are requests at their home slices.
-/
namespace Sys2Proof.Machine

/-! ### Packets that instructions build (R375, R376) -/

/-- Register `i` of a parameter block. -/
def Team.blockWord (t : Team) (b : Reg) (i : Nat) : Nat := (t.rd (regAt b i) 0).toNat

/-- The packet of an instruction: KIND and SUB, SRC and DST, and the block's other bytes (R375, R376). -/
def Team.packetOf (t : Team) (kind : Nat) (sub : Option Nat) (dst src : Nat) (b : Reg) : BitVec 512 :=
  let w := t.blockWord b
  packFields [(0x08, kind), (0x09, bitsOf (w 0) 8 8), (0x0A, sub.getD (bitsOf (w 0) 16 8)), (0x0B, bitsOf (w 0) 24 8),
    (0x0C, w 1), (0x10, src), (0x18, dst), (0x20, w 2), (0x24, w 3), (0x28, w 4), (0x2C, w 5), (0x30, w 6), (0x34, w 7),
    (0x38, w 8), (0x3C, w 9)]

/-- A field of raw packet bytes. -/
def rawField (raw : BitVec 512) (off n : Nat) : Nat := bitsOf raw.toNat (8 * off) (8 * n)

/-- MBUD of a packet at its hand-over (R288). -/
def handUnits (raw : BitVec 512) (free : Nat) : Nat :=
  let f := rawField raw
  let len := f 0x28 8
  let count := f 0x38 4
  match f 8 1 with
  | 0 | 1 => (match f 0xA 1 with
    | 0 => 1 + ceilDiv len 64
    | 1 => 1 + ceilDiv (len * f 0x30 8) 64
    | 2 => 1
    | _ => free)
  | 2 => 1 + ceilDiv (count * len) 64 + ceilDiv (4 * count) 64
  | 3 | 5 => 1 + ceilDiv len 64
  | 4 | 7 | 8 => 1
  | 6 => 2
  | _ => free

/-- Does a cluster's instruction port hold 16 packets (R236)? -/
def State.portFull (s : State) (cluster : Nat) : Bool :=
  decide (16 ≤ (s.packets.filter fun p => decide (p.engine = cluster ∧ p.queue = none) && !p.accepted).length)

/-- A packet is handed to the engine of the team's cluster and joins the open batch (R235, R249). -/
def State.handOver (s : State) (raw : BitVec 512) : State :=
  let t := s.me
  let c := s.myCrew
  let p : Packet := { id := s.nextId, engine := clusterOfCore c.core, raw := raw, ctx := c.ctx, team := some s.cur,
                      teamIdx := t.idx, crew := c.num, grid := c.grid, batch := t.batchNext, queue := none, stream := 0 }
  ({ s with packets := s.packets ++ [p], nextId := s.nextId + 1 } : State).mapMe Team.joinBatch

/-- Issue of an instruction that hands over a packet; it stalls while the port is full (R236, R376). -/
def State.issuePacket (s : State) (i : Instr) (raw : Team → BitVec 512) : Host.Outcome State Fault Refusal :=
  s.issue i fun s =>
    let r := raw s.me
    let s := if s.me.charged then s else s.chargeMem (handUnits r (Config.unstatedCharge s.tick))
    if s.portFull (clusterOfCore s.myCore) then s.stall .port false else (s.handOver r).advance

/-- CPY (R239, R376). -/
def execCpy (d a b : Reg) (s : State) : Host.Outcome State Fault Refusal :=
  s.issuePacket (.cpy d a b) fun t => t.packetOf 0 (some 0) (t.addr d 0) (t.addr a 0) b
/-- CPYS (R239, R376). -/
def execCpys (d a b : Reg) (s : State) : Host.Outcome State Fault Refusal :=
  s.issuePacket (.cpys d a b) fun t => t.packetOf 0 (some 1) (t.addr d 0) (t.addr a 0) b
/-- CPYT (R239, R376). -/
def execCpyt (d a b : Reg) (s : State) : Host.Outcome State Fault Refusal :=
  s.issuePacket (.cpyt d a b) fun t => t.packetOf 0 (some 2) (t.addr d 0) (t.addr a 0) b
/-- CPYR (R239, R376): SUB comes from the block. -/
def execCpyr (d a b : Reg) (s : State) : Host.Outcome State Fault Refusal :=
  s.issuePacket (.cpyr d a b) fun t => t.packetOf 1 none (t.addr d 0) (t.addr a 0) b
/-- RGATH (R239, R376). -/
def execRgath (d a b : Reg) (s : State) : Host.Outcome State Fault Refusal :=
  s.issuePacket (.rgath d a b) fun t => t.packetOf 2 (some 0) (t.addr d 0) (t.addr a 0) b
/-- COLL (R239, R376): SUB comes from the block. -/
def execColl (d a b : Reg) (s : State) : Host.Outcome State Fault Refusal :=
  s.issuePacket (.coll d a b) fun t => t.packetOf 5 none (t.addr d 0) (t.addr a 0) b
/-- NMBLK (R239, R376): DST is zero. -/
def execNmblk (a b : Reg) (s : State) : Host.Outcome State Fault Refusal :=
  s.issuePacket (.nmblk a b) fun t => t.packetOf 6 (some 0) 0 (t.addr a 0) b

/-- The packet a QSUB has read is handed over, or stalls at a full port (R377). -/
def State.handRead (s : State) (raw : BitVec 512) : State :=
  if s.portFull (clusterOfCore s.myCore) then (s.mapMe fun t => { t with packet := some raw }).stall .port false
  else (((s.chargeMem (handUnits raw (Config.unstatedCharge s.tick))).handOver raw).mapMe fun t =>
    { t with packet := none }).advance

/-- QSUB (R377, R463): one plain load of 64 bytes; the packet is handed over when they have returned. -/
def execQsub (a : Reg) (s : State) : Host.Outcome State Fault Refusal :=
  s.issueIf (.qsub a) (fun s => limitTrap 0 (objectAlign (s.me.addr a 0) 64)) fun s =>
    let t := s.me
    match t.charged, t.packet with
    | true, some raw => s.handRead raw
    | true, none => s.stall .port false
    | false, _ =>
      let s := s.mapMe fun t => { t with packet := none }
      match s.classLoad (0, t.addr a 0, 64) with
      | .hit _ v lid => (s.touchL1 s.myCore [lid]).handRead (BitVec.ofNat 512 v)
      | .bad _ b =>
        (s.sendOut (.qsub a) .load [] [] [(0, b)]).mapMe fun t => { t with wait := some (.stopped 0), stood := none }
      | .miss c x =>
        let reqs := lineReqs s.myCore (.load 64) [(c, x)]
        ((s.chargeMem (s.missCharge s.myCore reqs)).sendOut (.qsub a) .load reqs [] []).stall .port false

/-! ### Batches (R249, R379) -/

/-- BSEAL (R84, R249): a seal that would leave a 32nd sealed batch unfinished waits. -/
def execBseal (d : Reg) (s : State) : Host.Outcome State Fault Refusal :=
  s.issue (.bseal d) fun s =>
    let t := s.me
    if t.batchCount t.batchNext ≠ 0 ∧ t.unfinished ≥ 32 then s.stall .seal false
    else (s.mapMe fun t => Team.settleBatches { (t.wr d 0 t.batchNext) with batchNext := t.batchNext + 1 }).advance

/-- BWAIT (R249, R379). -/
def execBwait (n : Fin 32) (s : State) : Host.Outcome State Fault Refusal :=
  s.issue (.bwait n) fun s =>
    if s.me.unfinished ≤ n.val then (s.acquired 4).advance else s.stall (.batches n.val) false

/-- BWAITY (R249, R379): it goes on, or yields with the label as its resume PC and no top-up. -/
def execBwaity (n : Fin 32) (a : Reg) (s : State) : Host.Outcome State Fault Refusal :=
  s.issueIf (.bwaity n a)
    (fun s => if (s.me.rd a 0).toNat % 4 ≠ 0 then some (preciseTrap 2 1 (s.me.rd a 0).toNat 0) else none)
    fun s =>
      if s.me.unfinished ≤ n.val then (s.acquired 4).advance
      else
        let label := s.me.rd a 0
        let pulled := s.me.mustYield
        let s := s.mapMe fun t => { (t.hold (phaseHold 4)) with
          pc := label, wait := some (.batchesYield n.val label), waitSince := s.tick, stood := none, standing := none,
          mustYield := false }
        if pulled then s else s.pullGang s.cur

/-- BWAITY_REACTIVATE (R249, R513): the team goes on at its label once the condition holds; a gang member waits for the
other members. -/
def execBwaityReactivate (team : Nat) (s : State) : Host.Outcome State Fault Refusal :=
  let t := SMap.get default s.teams team
  match t.wait with
  | some (.batchesYield n _) =>
    if t.place = .resident ∧ t.unfinished ≤ n then
      let s := s.mapTeam team fun t =>
        { (t.hold (acquireHold 4)) with wait := if t.gang.getLsbD 31 then some .gangYield else none }
      .next (s.gangRelease team)
    else .next s
  | _ => .next s

/-! ### Geometry of a packet (R240 to R244) -/

def Packet.sub (p : Packet) : Nat := p.f 0xA 1
def Packet.typ (p : Packet) : Nat := p.f 0xB 1
def Packet.src (p : Packet) : Nat := p.f 0x10 8
def Packet.dst (p : Packet) : Nat := p.f 0x18 8
def Packet.tb (p : Packet) : Nat := p.f 0x20 8
def Packet.len (p : Packet) : Nat := p.f 0x28 8
def Packet.p0 (p : Packet) : Nat := p.f 0x30 8
def Packet.p1 (p : Packet) : Nat := p.f 0x38 8
def Packet.flagOrd (p : Packet) : Bool := (p.f 9 1).testBit 0
def Packet.flagPeer (p : Packet) : Bool := (p.f 9 1).testBit 1

/-- A field of the packet's descriptor. -/
def Packet.d (p : Packet) (off n : Nat) : Nat := bitsOf ((p.desc.getD 0).toNat) (8 * off) (8 * n)

/-- Element size of a TYPE, when it names an operation of R242. -/
def elemSize (typ : Nat) : Option Nat :=
  match typ / 16 with
  | 0 => if typ % 16 ≤ 5 then some 4 else none
  | 1 => if typ % 16 ≤ 2 then some 4 else none
  | 2 => if typ % 16 ≤ 2 then some 2 else none
  | _ => none

/-- Outer levels, lowest first: repeats, source pitch, destination pitch (R240, R241). -/
def Packet.levels (p : Packet) : List (Nat × Int × Int) :=
  match decide (p.kind ≤ 1), p.sub with
  | true, 1 => [(p.p0, sext 32 (p.p1 % 2 ^ 32), sext 32 (p.p1 / 2 ^ 32))]
  | true, 2 => (List.range 4).map fun i => (p.d (8 + 4 * i) 4, sext 32 (p.d (0x18 + 4 * i) 4), sext 32 (p.d (0x28 + 4 * i) 4))
  | _, _ => []

/-- Bytes of a contiguous run. -/
def Packet.run (p : Packet) : Nat := if p.kind ≤ 1 ∧ p.sub = 2 then p.d 4 4 else p.len

/-- SWRAP of a tile. -/
def Packet.swrap (p : Packet) : Nat := if p.kind ≤ 1 ∧ p.sub = 2 then p.d 0x38 1 else 0

/-- Destination bytes of a transfer. -/
def Packet.total (p : Packet) : Nat := p.levels.foldl (fun n l => n * l.1) p.run

/-- Bytes that a packet arrives with (R245). -/
def Packet.count (p : Packet) : Nat :=
  match p.kind with
  | 0 | 1 => p.total
  | 2 => p.p1 % 2 ^ 32 * p.len
  | 8 => p.p0
  | 6 => 0
  | _ => p.len

/-- A unit of a transfer: source and destination address, bytes. -/
structure MoveUnit where
  src : Nat
  dst : Nat
  n   : Nat
  deriving DecidableEq, Repr

/-- An address moved by a signed distance. -/
def addrAdd (a : Nat) (x : Int) : Nat := ((a : Int) + x) % 2 ^ 64 |>.toNat

/-- Offsets of repeat `r`: the lowest level varies fastest (R241). -/
def repeatOffsets : List (Nat × Int × Int) → Nat → Int × Int
  | [], _ => (0, 0)
  | (c, sp, dp) :: l, r =>
    let o := repeatOffsets l (r / c)
    (o.1 + (r % c : Nat) * sp, o.2 + (r % c : Nat) * dp)

/-- The unit of a transfer that starts at destination byte `pos` in the order of R240: an aligned 16-byte unit of both rows,
else one element. -/
def Packet.unitAt (p : Packet) (pos elem : Nat) : MoveUnit :=
  let b := pos % p.run
  let o := repeatOffsets p.levels (pos / p.run)
  let so := if p.swrap = 0 then o.1 + b else (o.1 + b) % 2 ^ p.swrap
  let src := addrAdd p.src so
  let dst := addrAdd p.dst (o.2 + b)
  let fits := p.swrap = 0 ∨ so + 16 ≤ 2 ^ p.swrap
  ⟨src, dst, if src % 16 = 0 ∧ dst % 16 = 0 ∧ b + 16 ≤ p.run ∧ fits then 16 else elem⟩

/-! ### Limits (R238 to R252) -/

/-- Fields a kind uses: SRC, DST, TB, LEN, P0, P1. -/
def packetUses (kind sub : Nat) : List Nat :=
  match kind with
  | 0 | 1 => if sub = 0 then [0x10, 0x18, 0x20, 0x28] else if sub = 1 then [0x10, 0x18, 0x20, 0x28, 0x30, 0x38]
      else [0x10, 0x18, 0x20, 0x30]
  | 2 | 5 => [0x10, 0x18, 0x20, 0x28, 0x30, 0x38]
  | 3 => [0x18, 0x20, 0x28, 0x30]
  | 4 => [0x18, 0x20, 0x28]
  | 6 => [0x10, 0x30, 0x38]
  | 7 => [0x10, 0x20, 0x28]
  | _ => [0x20, 0x30]

/-- Limits of a kind's own fields. -/
def Packet.kindOk (p : Packet) : Bool :=
  let big := decide (1 ≤ p.len ∧ p.len ≤ 2 ^ 40)
  let small := decide (1 ≤ p.len ∧ p.len ≤ 2 ^ 32)
  let elemOk := fun (l : List Nat) => match elemSize p.typ with
    | none => false
    | some e => l.all fun x => decide (x % e = 0)
  let moves := match p.sub with
    | 0 => big
    | 1 => small && decide (1 ≤ p.p0 ∧ p.p0 ≤ 2 ^ 32)
    | _ => decide (p.p0 % 64 = 0)
  match p.kind with
  | 0 => decide (p.sub ≤ 2 ∧ p.typ = 0) && moves
  | 1 => decide (p.sub ≤ 2) && moves && (match p.sub with
    | 0 => elemOk [p.len, p.dst]
    | 1 => elemOk ([p.len, p.dst] ++ if p.p0 = 1 then [] else [p.p1 / 2 ^ 32])
    | _ => elemOk [p.src, p.dst])
  | 2 => decide (p.sub = 0 ∧ p.typ = 0 ∧ p.p1 % 2 ^ 32 ≠ 0 ∧ p.p0 % 4 = 0) && small
  | 3 => decide (p.sub = 0 ∧ p.typ = 0) && big
  | 4 => decide (p.sub = 0 ∧ p.typ = 0 ∧ p.dst % 32 = 0 ∧ p.len % 32 = 0 ∧ p.len ≤ 2 ^ 40)
  | 5 => small && decide (p.p0 % 64 = 0 ∧ p.p1 % 16 = 0) &&
      (if p.sub = 0 then decide (p.typ = 0) else decide (p.sub = 1) && elemOk [p.len, p.dst])
  | 6 => decide (p.sub = 0 ∧ p.typ = 0 ∧ p.src % 16 = 0 ∧ p.p0 ≤ 383 ∧ p.p1 ≤ 63)
  | 7 => decide (p.sub = 0 ∧ p.typ = 0) && big
  | _ => decide (p.sub = 0 ∧ p.typ = 0 ∧ p.tb ≠ 0 ∧ 1 ≤ p.p0 ∧ p.p0 < 2 ^ 48)

/-- The limits of a packet's fields: reserved and unused fields are zero, addresses canonical, TB aligned (R238). -/
def Packet.fieldsOk (p : Packet) : Bool :=
  let uses := packetUses p.kind p.sub
  decide (p.kind ≤ 8 ∧ p.f 9 1 < 4 ∧ p.f 0xE 2 = 0 ∧ p.tb % 16 = 0) &&
  (p.flagPeer || decide (p.kind = 5 ∨ p.f 0xC 2 = 0)) && (!p.flagPeer || decide (p.kind ≠ 5 ∧ p.kind ≠ 6)) &&
  [0x10, 0x18, 0x20, 0x28, 0x30, 0x38].all (fun off => uses.contains off || decide (p.f off 8 = 0)) &&
  canonical p.src && canonical p.dst && p.kindOk

/-- Does the packet name a descriptor that is read at its acceptance (R241, R251)? -/
def Packet.needsDesc (p : Packet) : Bool := decide (p.kind = 5) || decide (p.kind ≤ 1 ∧ p.sub = 2)

/-- A tile descriptor's limits (R241, R242). -/
def Packet.tileOk (p : Packet) : Bool :=
  let levels := p.d 0 1
  let e := if p.kind = 1 then (elemSize p.typ).getD 1 else 1
  let use := fun (l : Nat × Int × Int) => decide (l.2.1 % e = 0 ∧ l.2.2 % e = 0)
  decide (levels ≤ 4 ∧ p.d 1 3 = 0 ∧ p.d 0x39 7 = 0 ∧ 1 ≤ p.run ∧ p.run ≤ 2 ^ 24 ∧ p.total ≤ 2 ^ 40) &&
  decide (p.swrap = 0 ∨ (12 ≤ p.swrap ∧ p.swrap ≤ 32)) &&
  p.levels.all (fun l => decide (1 ≤ l.1 ∧ l.1 ≤ 2 ^ 24)) &&
  (p.levels.drop levels).all (fun l => decide (l = (1, 0, 0))) &&
  decide (p.run % e = 0) && (p.levels.take levels).all use

/-- A group descriptor's limits, and the packet's rank (R250, R251): the SUB of R480 that is broken. -/
def Packet.groupBreach (p : Packet) : Option Nat :=
  if ¬ (p.d 0 8 ≠ 0 ∧ 2 ≤ p.d 8 2 ∧ p.d 8 2 ≤ 256 ∧ p.d 0xA 2 < p.d 8 2 ∧ p.d 0xC 4 = 0 ∧ p.d 0x10 8 % 16 = 0 ∧
      p.d 0x20 32 = 0) then some 1
  else if p.f 0xC 2 ≥ p.d 8 2 ∨ p.f 0xC 2 = p.d 0xA 2 then some 0 else none

/-- The limit that a packet breaks at its acceptance (R479, R480). -/
def Packet.breach (p : Packet) : Option Nat :=
  if !p.fieldsOk then some 0
  else if !p.needsDesc then none
  else if p.kind = 5 then p.groupBreach
  else if p.tileOk then none else some 1

/-! ### Range locks (R179) -/

/-- The lowest and the highest byte that repeats of a run of `n` bytes cover, as a range. -/
def spanOf (base n : Nat) (l : List (Nat × Int)) : Nat × Nat :=
  let lo := l.foldl (fun m p => m + min 0 (((p.1 : Int) - 1) * p.2)) (0 : Int)
  let hi := l.foldl (fun m p => m + max 0 (((p.1 : Int) - 1) * p.2)) (0 : Int)
  (((base : Int) + lo).toNat, ((base : Int) + hi).toNat + n)

/-- The ranges of a packet: lowest byte, end, is it a destination. -/
def Packet.ranges (p : Packet) : List (Nat × Nat × Bool) :=
  let put := fun (r : Nat × Nat) (d : Bool) => (r.1, r.2, d)
  match p.kind with
  | 0 | 1 =>
    let s := if p.swrap ≠ 0 then (p.src, p.src + 2 ^ p.swrap) else spanOf p.src p.run (p.levels.map fun l => (l.1, l.2.1))
    let d := put (spanOf p.dst p.run (p.levels.map fun l => (l.1, l.2.2))) true
    put s false :: (if p.flagPeer then [] else [d])
  | 2 => (p.p0, p.p0 + 4 * (p.p1 % 2 ^ 32), false) :: (if p.flagPeer then [] else [(p.dst, p.dst + p.count, true)])
  | 3 | 4 => if p.flagPeer then [] else [(p.dst, p.dst + p.len, true)]
  | 5 => [(p.src, p.src + p.len, false)]
  | 6 => [(p.src + 16 * p.p1, p.src + 1024, false)]
  | _ => []

def dieOfEngine (e : Nat) : Nat := e / 16

/-- May a packet's ranges be registered now: room in the die's table, and no conflict (R179)? -/
def State.rangesFree (s : State) (p : Packet) : Bool :=
  let die := dieOfEngine p.engine
  let here := s.ranges.filter fun r => decide (r.die = die)
  decide (here.length + p.ranges.length ≤ 1024) &&
    p.ranges.all fun x => here.all fun r =>
      !(decide (r.ctx = p.ctx ∧ r.lo < x.2.1 ∧ x.1 < r.hi) && (x.2.2 || r.dst))

def State.registerRanges (s : State) (p : Packet) : State :=
  { s with ranges := s.ranges ++ p.ranges.map fun x => ⟨dieOfEngine p.engine, p.id, p.ctx, x.1, x.2.1, x.2.2⟩ }

/-! ### The end of a packet -/

/-- Packets of an engine that have not started may start now, and a collective step behind another may leave (R237, R251). -/
def State.pokeWaiting (s : State) (e : Nat) : State :=
  (s.packets.filter fun p => decide (p.engine = e) && p.accepted && (!p.started || decide (p.kind = 5))).foldl (fun s p =>
    s.poke p.event) s

/-- A packet leaves its engine: its ranges are released and its batch operation is finished (R179, R249); the kill of its context
goes on (R514). -/
def State.removePacket (s : State) (p : Packet) : State :=
  let s : State := { s with packets := s.packets.filter (fun x => decide (x.id ≠ p.id)),
                            ranges := s.ranges.filter (fun r => decide (r.pid ≠ p.id)) }
  let s := match p.team with
    | some k => s.finishBatchOp k p.batch
    | none => s
  let s := if s.kills.any fun x => decide (x.1 = p.ctx) then s.poke (.packetComplete p.id) else s
  s.pokeWaiting p.engine

/-- A request that takes no answer. -/
def State.sendNobody (s : State) (ctx va : Nat) (op : HomeOp) : State :=
  s.request ⟨.nobody, 0, ctx, va, op, [⟨0, va, 0, 0⟩]⟩

/-- A barrier receives abort (R481, R484). -/
def State.abortBarrier (s : State) (ctx tb : Nat) : State :=
  if tb = 0 ∨ tb % 16 ≠ 0 ∨ !canonical tb then s else s.sendNobody ctx tb .tbAbort

/-- The packet's own barrier receives abort, wherever it lies. -/
def State.abortTb (s : State) (p : Packet) : State :=
  match p.route with
  | some (port, peer) =>
    if p.tb = 0 then s else { s with peerOut := s.peerOut ++ [.tbAbort port peer p.tb] }
  | none => if p.flagPeer ∨ p.kind = 5 then s else s.abortBarrier p.ctx p.tb

/-- DONE of a packet: units performed (R479). -/
def Packet.done (p : Packet) : Nat :=
  match p.kind with
  | 1 => p.acked / (elemSize p.typ).getD 1
  | 2 => p.acked / max 1 p.len
  | 0 | 3 | 5 => p.acked
  | 6 => p.nmIdx - p.p1
  | _ => 0

/-- A failure record has been appended (R481): the packet leaves its engine and its barrier receives abort, or the NMCMD counts
as finished for its batch. -/
def State.recordEnd (s : State) : RecordEnd → State
  | .packet pid => (match s.packetAt pid with
    | some p => (s.removePacket p).abortTb p
    | none => s)
  | .command (some k) batch => s.finishBatchOp k batch
  | .command none _ => s

/-- The record of a failed packet or NMCMD (R480). What it ends goes on once it is appended, or dropped by a full buffer (R271;
DESIGN CHOICE, log entry 36). -/
def State.recordFailure (s : State) (ctx : Nat) (b : BadAccess) (engine source team kind nmIdx grid crew nmStep done
    stream tb : Nat) (fin : RecordEnd) : State :=
  let n := s.heq.length
  let s := s.heqPush 0x11 (s.partOfCtx ctx) ctx
    [(0x0C, b.cause), (0x0D, if b.cause = 8 then b.kind else 16 * b.site + b.kind), (0x0E, engine), (0x10, source),
     (0x11, team), (0x12, kind), (0x13, nmIdx), (0x14, grid), (0x18, crew), (0x1C, nmStep),
     (0x20, if b.cause = 8 then 0 else b.va), (0x28, done), (0x30, stream), (0x38, tb)]
  if s.heq.length = n then s.recordEnd fin else { s with recordEnds := s.recordEnds ++ [fin] }

/-- A PACKET FAILS (R480, R481): its record is written; its ranges, its batch and its barrier follow the append. -/
def State.failPacket (s : State) (p : Packet) (b : BadAccess) : State :=
  let source := match p.queue with
    | some q => 128 + q
    | none => 0
  let s := s.mapPacket p.id fun x => { x with reported := true, started := true, failed := some b }
  (s.recordFailure p.ctx b p.engine source (if p.queue.isSome then 0xFF else p.teamIdx) p.kind p.nmIdx p.grid p.crew
    p.nmStep p.done p.stream p.tb (.packet p.id)).pokeWaiting p.engine

/-! ### Acceptance (R236, R237, R241) -/

/-- The descriptor of a Drover queue and its context, if its register is valid (R235, R263). -/
def State.droverQueue (s : State) (e q : Nat) : Option (Nat × Nat) :=
  let off := 0x011000 + 16 * (16 * e + q)
  let ctl := (s.reg (off + 8)).toNat
  if ctl.testBit 63 then some (ctl % 65536, canonOf (bitsOf (s.reg off).toNat 8 49 * 256)) else none

/-- The number under which a Drover queue stands among the queues that were found unreadable (R509): its registers follow
those of the 256 launch queues. -/
def droverKey (e q : Nat) : Nat := 256 + 16 * e + q

/-- What an engine finds at one of its queues (R206, R235, R509, R514). -/
def State.droverFinds (s : State) (e q : Nat) : QueueHead :=
  match s.droverQueue e q with
  | none => .idle
  | some (ctx, qa) =>
    if s.killed.contains ctx || s.badQueues.contains (droverKey e q) then .idle else s.headOf ctx qa

/-- The head packet of a Drover queue, if the queue is ready (R206). -/
def State.droverHead (s : State) (e q : Nat) : Option (Nat × Nat × QueueDesc × Nat) :=
  match s.droverFinds e q with
  | .ready ctx qa d raw => some (ctx, qa, d, raw)
  | _ => none

/-- The first queue of an engine whose descriptor or head slot cannot be read: queue, context, descriptor and RIDX (R509). -/
def State.droverBad (s : State) (e : Nat) : Option (Nat × Nat × Nat × Nat) :=
  (List.range 16).findSome? fun q => match s.droverFinds e q with
    | .bad ctx qa stream => some (q, ctx, qa, stream)
    | _ => none

/-- The packet that a source offers, with its priority: 0 the instruction port, 1 + q a queue. A queue packet whose
descriptor is being read stands among the packets already. -/
def State.offered (s : State) (e src : Nat) : Option (Packet × Nat) :=
  if src = 0 then
    (s.packets.find? fun p => decide (p.engine = e ∧ p.queue = none) && !p.accepted).map fun p =>
      (p, (p.team.map s.effPrio).getD 0)
  else
    match s.droverHead e (src - 1) with
    | none => none
    | some (ctx, _, d, raw) =>
      match s.packets.find? fun p => decide (p.engine = e ∧ p.queue = some (src - 1)) && !p.accepted with
      | some p => some (p, d.prio)
      | none => some ({ id := 0, engine := e, raw := BitVec.ofNat 512 raw, ctx := ctx, team := none, teamIdx := 0, crew := 0,
                        grid := 0, batch := 0, queue := some (src - 1), stream := d.ridx }, d.prio)

/-- Has the read of a packet's descriptor at its acceptance ended (R241)? -/
def Packet.readDone (p : Packet) : Bool := p.asked && (p.desc.isSome || p.failed.isSome)

/-- Can the engine do something for an offered packet now: read its descriptor, refuse it, or accept it? Only 32 packets are
in progress or being accepted (R236). A descriptor that was read while the ranges were in conflict is read again at the
acceptance (R241). -/
def State.canAccept (s : State) (p : Packet) : Bool :=
  if p.asked then p.readDone
  else
    decide ((s.packets.filter fun x => decide (x.engine = p.engine) && (x.accepted || x.asked)).length < 32) &&
      (p.breach.isSome || (p.needsDesc && p.desc.isNone) || s.rangesFree p)

/-- The sources of an engine in the order in which equal priorities are served. -/
def State.droverOrder (s : State) (e : Nat) : List Nat :=
  let turn := SMap.get 0 s.droverTurn e
  ((List.range 17).filter fun x => decide (turn ≤ x)) ++ (List.range 17).filter fun x => decide (x < turn)

/-- The source that an engine takes a packet from: one whose descriptor it has just read, else that of the highest priority,
then its turn. -/
def State.droverChoose (s : State) (e : Nat) : Option (Nat × Packet) :=
  let offers := (s.droverOrder e).filterMap fun src => match s.offered e src with
    | some (p, prio) => if s.canAccept p then some (src, p, prio) else none
    | none => none
  match offers.find? fun o => o.2.1.readDone with
  | some o => some (o.1, o.2.1)
  | none =>
    match firstMax (fun src => ((offers.find? fun o => decide (o.1 = src)).map fun o => o.2.2).getD 0) (offers.map Prod.fst) with
    | none => none
    | some src => (offers.find? fun o => decide (o.1 = src)).map fun o => (src, o.2.1)

/-- Has an engine a packet to accept, or an unreadable queue to report? -/
def State.droverReady (s : State) (e : Nat) : Bool := (s.droverBad e).isSome || (s.droverChoose e).isSome

/-- Engines with a packet offered to them. -/
def State.droverEngines (s : State) : List Nat :=
  (List.range 64).filter fun e =>
    (s.packets.any fun p => decide (p.engine = e) && !p.accepted) ||
      (s.mgmt.any fun p => decide (0x011000 + 256 * e ≤ p.1 ∧ p.1 < 0x011000 + 256 * (e + 1)))

/-- A packet goes to the end of the list of packets, which is the order of acceptance. -/
def State.putLast (s : State) (p : Packet) : State :=
  { s with packets := s.packets.filter (fun x => decide (x.id ≠ p.id)) ++ [p] }

/-- A packet of a queue leaves its slot (R206). -/
def State.takeSlot (s : State) (e src : Nat) : State :=
  let s : State := { s with droverTurn := SMap.set 0 s.droverTurn e ((src + 1) % 17) }
  if src = 0 then s
  else
    match s.droverHead e (src - 1) with
    | some (ctx, qa, d, _) => s.freeSlot ctx qa d
    | none => s

/-- MBUD of a tile, charged when the engine has read its descriptor (R288). -/
def State.chargeTile (s : State) (p : Packet) : State :=
  match p.team with
  | some k => if p.kind ≤ 1 ∧ p.sub = 2 ∧ p.desc.isSome then s.mapTeam k fun t => t.chargeM (ceilDiv p.total 64) else s
  | none => s

/-- Read the descriptor of a packet that is being accepted (R241, R251). -/
def State.readDesc (s : State) (p : Packet) : State :=
  let p := { p with asked := true, desc := none, reads := 1 }
  let s : State := if (s.packetAt p.id).isSome then s.mapPacket p.id fun _ => p else { s with packets := s.packets ++ [p] }
  if canonical p.p0 then s.request ⟨.drover p.id, p.engine, p.ctx, p.p0, .load 64, [⟨0, p.p0, 0, 0⟩]⟩
  else s.mapPacket p.id fun p => { p with reads := 0, failed := some ⟨0x0B, 0, 5, p.p0⟩ }

/-- The engine takes a packet from its source, and refuses it or registers its ranges (R237, R479). -/
def State.acceptPacket (s : State) (src : Nat) (p : Packet) : State :=
  let s := ((s.takeSlot p.engine src).putLast { p with accepted := true, reads := 0, got := [] }).chargeTile p
  match p.failed, p.breach with
  | some b, _ => s.failPacket p b
  | none, some sub => s.failPacket p ⟨8, 0, sub, 0⟩
  | none, none => (s.registerRanges p).poke p.event

/-- DROVER_ACCEPT (R235, R236, R237, R241, R479, R509): an unreadable queue is reported once; else the engine accepts one
packet, registers its ranges, or refuses it. A packet with a descriptor has it read first; where its ranges turn out to be in
conflict, it waits, and is read again. -/
def execDroverAccept (engine : Nat) (s : State) : Host.Outcome State Fault Refusal :=
  match s.droverBad engine, s.droverChoose engine with
  | some (q, ctx, qa, stream), _ =>
    let s : State := { s with badQueues := droverKey engine q :: s.badQueues }
    .next (s.refuseLaunch (s.partOfCtx ctx) ctx 5 0xFF qa 0 0 stream)
  | none, none => .next s
  | none, some (src, p) =>
    let fresh := decide (p.id = 0)
    let p := if fresh then { p with id := s.nextId } else p
    let s : State := if fresh then { s with nextId := s.nextId + 1 } else s
    if p.failed.isNone && p.fieldsOk && p.needsDesc && !p.readDone then .next (s.readDesc p)
    else if p.failed.isNone && p.breach.isNone && !s.rangesFree p then
      .next (s.mapPacket p.id fun p => { p with asked := false })
    else .next (s.acceptPacket src p)

end Sys2Proof.Machine
end

