-- ==== Sys2Proof/Machine/Packets.lean ====
section
/-!
DEFINITION. How accepted packets run (09_engines R237, R240 to R245, R250 to R252; 10_host_peers R267;
24_memory_failures R479, R487, R491; 25_scheduling_failures R514, R515), inbound requests of peers, and the reports and
ABORT messages of the peer fabric.
-/
namespace Sys2Proof.Machine

/-! ### Start (R237, R491) -/

/-- Two packets of one source: the same queue, or the same issuing team (R237). Packets that a team handed to the engine of
another cluster, before it moved, are not looked at (DESIGN CHOICE, log entry 120). -/
def sameSource (a b : Packet) : Bool :=
  decide (a.engine = b.engine ∧ a.queue = b.queue) && (a.queue.isSome || decide (a.team = b.team))

/-- May an accepted packet start: every packet accepted before it has started, and, with ORD, every earlier packet of its
source has completed? -/
def State.startable (s : State) (p : Packet) : Bool :=
  let before := s.packets.takeWhile fun x => decide (x.id ≠ p.id)
  before.all fun x => !(decide (x.engine = p.engine) && x.accepted) || (x.started && !(p.flagOrd && sameSource x p))

/-- The lowest-numbered port of a mask that is up. -/
def State.portOf (s : State) (mask : Nat) : Option Nat :=
  (List.range 16).find? fun i => mask.testBit i && !s.portsDown.contains i

/-- The route of a packet with FLAGS.PEER, from PEERROUTE (R267). -/
def State.peerRoute (s : State) (peer : Nat) : Except BadAccess (Option Nat) :=
  let base := canonOf (bitsOf (s.reg 0x15000).toNat 17 40 * 2 ^ 17)
  match s.agentNat 0 (base + 2 * peer) 2 with
  | .ok mask => .ok (s.portOf mask)
  | .error b => .error b

/-- Fail an accepted packet. -/
def State.markFailed (s : State) (pid : Nat) (b : BadAccess) : State :=
  (s.mapPacket pid fun p => { p with failed := some b }).pokePacket pid

/-- START of a packet: a packet for a peer chip takes its route (R267, R491). -/
def State.startPacket (s : State) (p : Packet) : State :=
  let s := (s.mapPacket p.id fun p => { p with started := true }).pokeWaiting p.engine
  let s := s.poke p.event
  if !p.flagPeer then s
  else
    match s.peerRoute (p.f 0xC 2) with
    | .error b => s.markFailed p.id b
    | .ok none => s.markFailed p.id ⟨8, 0, 2, 0⟩
    | .ok (some port) => s.mapPacket p.id fun x => { x with route := some (port, p.f 0xC 2) }

/-! ### Reads and writes of a unit -/

/-- Requests that read a unit of `n` bytes: one access for an aligned 16-byte unit and for an index of GATHER-ROWS, which is a
plain load; every other byte singly (R240, R243). -/
def readReqs (p : Packet) (va n : Nat) : List HomeReq :=
  if va % n = 0 ∧ (n = 16 ∨ p.kind = 2) then [⟨.drover p.id, p.engine, p.ctx, va, .load n, [⟨0, va, 0, 0⟩]⟩]
  else (List.range n).map fun i =>
    ⟨.drover p.id, p.engine, p.ctx, (va + i) % 2 ^ 64, .load 1, [⟨i, (va + i) % 2 ^ 64, 0, 0⟩]⟩

/-- Issue the read of a unit; an address that is not canonical fails the packet (R474, R479). -/
def State.readUnit (s : State) (p : Packet) (va n : Nat) : State :=
  match (List.range n).find? fun i => !canonical ((va + i) % 2 ^ 64) with
  | some i => s.markFailed p.id ⟨0x0B, 0, 5, (va + i) % 2 ^ 64⟩
  | none =>
    let reqs := readReqs p va n
    reqs.foldl State.request (s.mapPacket p.id fun x => { x with reads := reqs.length })

/-- The value of a unit from the answers to its read. -/
def Packet.value (p : Packet) : Nat := p.got.foldl (fun v g => v + g.2 * 2 ^ (8 * g.1)) 0

/-- Where the source overlaps the packet's own destination, a byte is its value before the packet or one that the packet
wrote to it earlier (R240). -/
def Packet.mixBefore (p : Packet) (tick va n v : Nat) : Nat :=
  (List.range n).foldl (fun v i => match SMap.look p.before ((va + i) % 2 ^ 64) with
    | none => v
    | some old =>
      let now := bitsOf v (8 * i) 8
      if now = old then v
      else if Config.overlapEarlier (tick + i) then v + old * 2 ^ (8 * i) - now * 2 ^ (8 * i) else v) v

/-- The value that the bytes of a write had before the packet, where its source will read them. -/
def State.noteBefore (s : State) (p : Packet) (va n : Nat) : Packet :=
  match p.ranges with
  | (lo, hi, false) :: _ =>
    (List.range n).foldl (fun p i =>
      let a := (va + i) % 2 ^ 64
      if lo ≤ a ∧ a < hi ∧ (SMap.look p.before a).isNone then
        match s.agentByte p.ctx a with
        | .ok b => { p with before := SMap.put p.before a b.toNat }
        | .error _ => p
      else p) p
  | _ => p

/-- The request that writes a unit at its destination: a store, or one combination for each element (R240, R242). -/
def writeReq (p : Packet) (va n v : Nat) : HomeReq :=
  if p.kind = 1 then
    let e := (elemSize p.typ).getD 4
    ⟨.drover p.id, p.engine, p.ctx, va, .reduce p.typ,
      (List.range (n / e)).map fun i => ⟨i, va + e * i, bitsOf v (8 * e * i) (8 * e), 0⟩⟩
  else ⟨.drover p.id, p.engine, p.ctx, va, .store n, [⟨0, va, v, 0⟩]⟩

/-- Is a write of the packet on its way? The next one is issued when it has been acknowledged, so that a failure found at home
stops the packet exactly there, and later elements win (R240, R479; DESIGN CHOICE, log entry 121). -/
def Packet.writing (p : Packet) : Bool := p.outs.any fun q => decide (ackBytes q ≠ 0)

/-- A packet's translation fault is escalated, and the packet waits (R476). -/
def State.escalatePacket (s : State) (q : HomeReq) (pid : Nat) (b : BadAccess) : State :=
  (s.mapPacket pid fun p => { p with waiting := true }).escalateFault q b

/-- A translation fault that an engine finds before a write. -/
def State.packetFault (s : State) (q : HomeReq) (pid : Nat) (b : BadAccess) : State :=
  if s.hostMode 0 ∧ b.cause = 0x0B ∧ b.kind ≠ 5 then s.escalatePacket q pid b else s.markFailed pid b

/-- A piece for a peer chip (R250, R267). -/
def State.sendPiece (s : State) (p : Packet) (dst : Nat) (bytes : List Nat) (arrive : Nat) : State :=
  match p.route with
  | none => s
  | some (port, peer) =>
    let r : InboundReq :=
      { peer := (s.reg 8).toNat % 65536, tag := p.id, group := if p.kind = 5 then p.d 0 8 else 0,
        reduce := decide (p.kind = 1 ∨ (p.kind = 5 ∧ p.sub = 1)), typ := p.typ, dst := dst, tb := p.tb, bytes := bytes,
        arrive := arrive }
    { s with peerOut := s.peerOut ++ [.step port peer r] }

/-- Write one unit: to a peer, or to the destination's home once its page is known to be there (R479). The packet then
stands at `pos + step`. -/
def State.writeUnit (s : State) (p : Packet) (va n v step : Nat) : State :=
  let move := fun (x : Packet) => { x with pos := x.pos + step, got := [] }
  if p.route.isSome then
    ((s.sendPiece p va ((leBytes n v).map BitVec.toNat) 0).mapPacket p.id fun x =>
      { (move x) with acked := x.acked + n }).pokePacket p.id
  else if p.writing then s
  else
    let q := writeReq p va n v
    match s.agentTarget p.ctx va with
    | .error b => s.packetFault q p.id b
    | .ok _ =>
      let noted := s.noteBefore p va n
      let s := s.mapPacket p.id fun x => { (move x) with outs := x.outs ++ [q], before := noted.before }
      (s.request q).pokePacket p.id

/-! ### Arrivals and completion (R237, R245) -/

/-- Send an arrival on a local barrier. -/
def State.arriveOn (s : State) (p : Packet) (tb b : Nat) : State :=
  let q : HomeReq := ⟨.drover p.id, p.engine, p.ctx, tb, .tbArrive b, [⟨0, tb, 0, 0⟩]⟩
  (s.mapPacket p.id fun x => { x with outs := x.outs ++ [q], arrived := x.arrived + b }).request q

/-- The arrivals that end a packet: on a peer's barrier by the last piece, whose report is awaited; for a collective step
on P1 after that report; else on TB. -/
def State.closePacket (s : State) (p : Packet) : State :=
  if p.outs ≠ [] ∨ p.reads ≠ 0 then s
  else if p.route.isSome ∧ !p.closing then
    ((s.sendPiece p p.dst [] p.count).mapPacket p.id fun x => { x with closing := true, waiting := true }).pokeWaiting p.engine
  else
    let tb := if p.kind = 5 then p.p1 else if p.route.isSome then 0 else p.tb
    if tb ≠ 0 ∧ p.arrived < p.count then
      (s.arriveOn p tb (p.count - p.arrived)).mapPacket p.id fun x => { x with closing := true }
    else s.poke (.packetComplete p.id)

/-- Divide the arrivals: one for the bytes acknowledged so far (R245). -/
def State.partArrival (s : State) (p : Packet) : State :=
  if p.tb ≠ 0 ∧ p.route = none ∧ p.kind ≤ 4 ∧ p.arrived < p.acked ∧ p.acked < p.count ∧ p.outs.all (fun q => decide (ackBytes q ≠ 0)) then
    if Config.splitArrival s.tick then s.arriveOn p p.tb (p.acked - p.arrived) else s
  else s

/-- Port and peer of a step: its route, or what its rank's entry says, when it stops before it has one (R251, R515). -/
def State.stepRoute (s : State) (p : Packet) : Option (Nat × Nat) :=
  match p.route, s.agentNat p.ctx ((p.d 0x10 8 + 16 * p.f 0xC 2) % 2 ^ 64) 16 with
  | some r, _ => some r
  | none, .ok e => if bitsOf e 96 32 ≠ 0 then none else (s.portOf (bitsOf e 16 16)).map fun port => (port, e % 65536)
  | none, .error _ => none

/-- Write STATUS[0] of a group descriptor, and abort the step's barriers, that of the receiver too (R515). -/
def State.abortStep (s : State) (p : Packet) : State :=
  let s := s.agentWriteOr p.ctx (p.p0 + 0x18) (leBytes 8 1)
  let s : State := match s.stepRoute p with
    | some (port, peer) => if p.tb = 0 then s else { s with peerOut := s.peerOut ++ [PeerMsg.tbAbort port peer p.tb] }
    | none => s
  (s.abortBarrier p.ctx p.p1).removePacket p

/-- The frame of every step of a packet: stop (R514), start, failure and waiting come first; then `go`. -/
def State.runPacket (s : State) (pid : Nat) (go : State → Packet → State) : State :=
  match s.packetAt pid with
  | none => s
  | some p =>
    let quiet := decide (p.outs = [] ∧ p.reads = 0)
    if !p.accepted then s
    else if p.stop then (if quiet && !p.waiting then s.removePacket p else s)
    else if p.reported then s
    else if !p.started then (if s.startable p then s.startPacket p else s)
    else
      match p.failed with
      | some b => if quiet then s.failPacket p b else s
      | none =>
        if p.aborted ∨ (p.kind = 5 ∧ s.aborts.contains (p.d 0 8)) then (if quiet then s.abortStep p else s)
        else if p.waiting ∨ p.reads ≠ 0 then s
        else
          let s := s.partArrival p
          match s.packetAt pid with
          | none => s
          | some p => go s p

/-! ### The kinds (R240 to R244, R250, R252) -/

/-- One unit of a transfer that reads a source. -/
def State.moveOn (s : State) (p : Packet) (elem : Nat) : State :=
  if p.pos ≥ p.count then s.closePacket p
  else
    let u := p.unitAt p.pos elem
    if p.got = [] then s.readUnit p u.src u.n
    else s.writeUnit p u.dst u.n (p.mixBefore s.tick u.src u.n p.value) u.n

/-- COPY (R240, R241). -/
def execCopy (pid : Nat) (s : State) : Host.Outcome State Fault Refusal :=
  .next (s.runPacket pid fun s p => s.moveOn p 1)

/-- REDUCE_TILE (R242): each element is combined at its destination's home. -/
def execReduceTile (pid : Nat) (s : State) : Host.Outcome State Fault Refusal :=
  .next (s.runPacket pid fun s p => s.moveOn p ((elemSize p.typ).getD 1))

/-- The writes of a whole row, in order, once every page of it is there and the row before it is acknowledged (R479). -/
def State.writeRow (s : State) (p : Packet) : State :=
  let next := fun (x : Packet) => { x with pos := x.pos + 1, index := none, buf := [], got := [] }
  if p.route.isSome then
    (p.buf.foldl (fun s u => s.sendPiece p u.1 ((leBytes u.2.1 u.2.2).map BitVec.toNat) 0)
      (s.mapPacket p.id fun x => { (next x) with acked := x.acked + p.len })).pokePacket p.id
  else
    let bad := p.buf.findSome? fun u => match s.agentTarget p.ctx u.1 with
      | .error b => some (u, b)
      | .ok _ => none
    match bad with
    | some (u, b) => s.packetFault (writeReq p u.1 u.2.1 u.2.2) p.id b
    | none =>
      let reqs := p.buf.map fun u => writeReq p u.1 u.2.1 u.2.2
      let noted := p.buf.foldl (fun p u => s.noteBefore p u.1 u.2.1) p
      let s := s.mapPacket p.id fun x => { (next x) with outs := x.outs ++ reqs, before := noted.before }
      (reqs.foldl State.request s).pokePacket p.id

/-- GATHER_ROWS (R243): the index of a row is read as a plain load, then the row. -/
def execGatherRows (pid : Nat) (s : State) : Host.Outcome State Fault Refusal :=
  .next (s.runPacket pid fun s p =>
    if p.pos ≥ p.p1 % 2 ^ 32 then s.closePacket p
    else
      match p.index with
      | none =>
        if p.got = [] then s.readUnit p ((p.p0 + 4 * p.pos) % 2 ^ 64) 4
        else (s.mapPacket pid fun x => { x with index := some p.value, got := [] }).pokePacket pid
      | some idx =>
        let b := p.buf.foldl (fun n u => n + u.2.1) 0
        if b ≥ p.len then (if p.writing then s else s.writeRow p)
        else
          let src := addrAdd p.src (idx * (p.p1 / 2 ^ 32) + b)
          let dst := addrAdd p.dst (p.pos * p.len + b)
          let n := if src % 16 = 0 ∧ dst % 16 = 0 ∧ b + 16 ≤ p.len then 16 else 1
          if p.got = [] then s.readUnit p src n
          else
            let v := p.mixBefore s.tick src n p.value
            (s.mapPacket pid fun x => { x with buf := x.buf ++ [(dst, n, v)], got := [] }).pokePacket pid)

/-- Bytes `e` to `e + n - 1` of a repeating pattern (R244). -/
def patternBytes (pat e n : Nat) : Nat :=
  (List.range n).foldl (fun v i => v + bitsOf pat (8 * ((e + i) % 8)) 8 * 2 ^ (8 * i)) 0

/-- FILL (R244). -/
def execFill (pid : Nat) (s : State) : Host.Outcome State Fault Refusal :=
  .next (s.runPacket pid fun s p =>
    if p.pos ≥ p.len then s.closePacket p
    else
      let dst := addrAdd p.dst p.pos
      let n := if dst % 16 = 0 ∧ p.pos + 16 ≤ p.len then 16 else 1
      s.writeUnit p dst n (patternBytes p.p0 p.pos n) n)

/-- A packet that makes one request for each line of a range, and never fails (R474, R487). -/
def State.lineOn (s : State) (p : Packet) (base : Nat) (op : HomeOp) : State :=
  if p.pos ≥ p.len then s.closePacket p
  else
    let va := addrAdd base p.pos
    let n := min (128 - va % 128) (p.len - p.pos)
    let q : HomeReq := ⟨.drover p.id, p.engine, p.ctx, va, op, [⟨0, va, n, 0⟩]⟩
    let s := s.mapPacket p.id fun x => { x with pos := x.pos + n }
    (if canonical va ∧ (p.kind = 7 ∨ p.route = none) then (s.mapPacket p.id fun x => { x with outs := x.outs ++ [q] }).request q
     else s).pokePacket p.id

/-- DISCARD_PACKET (R181, R182, R244, R487). -/
def execDiscardPacket (pid : Nat) (s : State) : Host.Outcome State Fault Refusal :=
  .next (s.runPacket pid fun s p => s.lineOn p p.dst (.discard 0))

/-- PREFETCH_L2 (R244, R474). -/
def execPrefetchL2 (pid : Nat) (s : State) : Host.Outcome State Fault Refusal :=
  .next (s.runPacket pid fun s p => s.lineOn p p.src (.prefetch false))

/-- TB_ARRIVE (R244, R245). -/
def execTbArrive (pid : Nat) (s : State) : Host.Outcome State Fault Refusal :=
  .next (s.runPacket pid State.closePacket)

/-- The entry of the destination rank gives a step its port and peer (R251, R491). -/
def State.routeStep (s : State) (p : Packet) : State :=
  let e := p.value
  let s := s.mapPacket p.id fun x => { x with got := [] }
  if bitsOf e 96 32 ≠ 0 then s.markFailed p.id ⟨8, 0, 1, 0⟩
  else
    match s.portOf (bitsOf e 16 16) with
    | none => s.markFailed p.id ⟨8, 0, 2, 0⟩
    | some port => (s.mapPacket p.id fun x => { x with route := some (port, e % 65536) }).pokePacket p.id

/-- Does a step wait for an earlier one of its source to the same rank, whose last piece has not left (R251)? -/
def State.stepBehind (s : State) (p : Packet) : Bool :=
  (s.packets.takeWhile fun x => decide (x.id ≠ p.id)).any fun x =>
    decide (x.kind = 5 ∧ x.d 0 8 = p.d 0 8 ∧ x.f 0xC 2 = p.f 0xC 2) && x.accepted && !x.closing && sameSource x p

/-- COLLECTIVE_STEP (R250, R251, R515): the rank's entry is read as a plain load once the step has started (DESIGN CHOICE, log
entry 103), then the piece leaves unit by unit, behind the earlier steps of its source to that rank. -/
def execCollectiveStep (pid : Nat) (s : State) : Host.Outcome State Fault Refusal :=
  .next (s.runPacket pid fun s p =>
    if s.stepBehind p then s
    else if p.route.isNone then
      (if p.got = [] then s.readUnit p ((p.d 0x10 8 + 16 * p.f 0xC 2) % 2 ^ 64) 16 else s.routeStep p)
    else s.moveOn p (if p.sub = 1 then (elemSize p.typ).getD 1 else 1))

/-- NEARMEM_BLOCK (R252): the submission goes to its channel engine. -/
def execNearmemBlock (pid : Nat) (s : State) : Host.Outcome State Fault Refusal :=
  .next (s.runPacket pid fun s p =>
    if p.closing then s.poke (.packetComplete pid)
    else
      let b : Submission :=
        { id := s.nextId, ctx := p.ctx, src := p.src, cmds := [], upto := p.p1, first := p.p1, idx := p.p1, pid := some pid,
          team := p.team, batch := p.batch, grid := p.grid, crew := p.crew, teamIdx := p.teamIdx }
      let s : State := { s with nextId := s.nextId + 1 }
      let s := (s.mapEngine p.p0 fun e => { e with queue := e.queue ++ [b] }).mapPacket pid fun x => { x with waiting := true }
      s.poke (.submissionTake p.p0))

/-! ### The end of a kill (R514) -/

/-- ABORT goes to every peer whose port is up (R514). -/
def State.sendAbort (s : State) (group : Nat) : State :=
  { s with peerOut := s.peerOut ++ ((List.range 16).filter fun p => !s.portsDown.contains p).map fun p => PeerMsg.abort p group }

/-- The peers of a collective group learn of its end: by ABORT, or as the host answers the packet of function 6 (R514). -/
def State.tellPeers (s : State) (ctx group : Nat) : State :=
  if s.hostMode 6 then
    s.openEscalation { teamEscalation 6 ctx 0 with teams := [], key := group } (s.partOfCtx ctx) [(0x10, group), (0x18, ctx)]
  else s.sendAbort group

/-- Deferred entries of the context are removed with no free packet; a list that cannot be read, and an entry that cannot be
cleared, are reported and left (R514, R525). -/
def State.dropDeferred (s : State) (ctx : Nat) : State :=
  let base := s.ctxField ctx 0x20 8
  let cap := s.ctxField ctx 0x28 4
  let drop := fun (s : State) (i : Nat) => match s.agentNat ctx (base + 64 * i) 64 with
    | .error _ => s
    | .ok e =>
      let name := BitVec.ofNat 48 (bitsOf e 64 48)
      if !e.testBit 128 then s
      else
        match s.agentWrite ctx (base + 64 * i + 0x10) (leBytes 1 0) with
        | .error b => s.agentFault 1 ctx b name.toNat 0
        | .ok s => { s with filter := SMap.set 0 s.filter (pinBucket name) (SMap.get 0 s.filter (pinBucket name) - 1) }
  if cap = 0 then s
  else
    match s.agentRead ctx base (64 * cap) with
    | .error b => s.agentFault 1 ctx b 0 0
    | .ok _ => (List.range cap).foldl drop s

/-- Steps 4 to 7 of a kill, once every packet of the context has stopped (R514); clusters that lost blocks are dealt others
(R212). -/
def State.endKill (s : State) (ctx : Nat) : State :=
  match s.kills.find? fun x => decide (x.1 = ctx), s.packets.any fun p => decide (p.ctx = ctx) with
  | some (_, groups, locks), false =>
    let s := ({ s with kills := s.kills.filter fun x => decide (x.1 ≠ ctx) } : State).dropDeferred ctx
    let s := locks.foldl (fun s va => s.sendNobody ctx va .unlock) s
    let s := groups.foldl (fun s g => s.tellPeers ctx g) s
    let s := if (s.reg 0x660).toNat % 65536 = ctx then s.setReg 0x660 (BitVec.ofNat 64 (ctx + 2 ^ 62)) else s
    ([0, 1, 2, 3] : List Nat).foldl State.deal s
  | _, _ => s

/-- PACKET_COMPLETE (R237, R249): every write has been acknowledged and the arrivals are made. When the packet has left, kills of
contexts that waited for it go on (R514). -/
def execPacketComplete (pid : Nat) (s : State) : Host.Outcome State Fault Refusal :=
  match s.packetAt pid with
  | none => .next (s.kills.foldl (fun s x => s.endKill x.1) s)
  | some p => if p.outs = [] ∧ p.reads = 0 ∧ p.failed.isNone ∧ !p.waiting then .next (s.removePacket p) else .next s

/-! ### The peer fabric (R250, R267, R491, R515) -/

/-- The inbound window that holds a range and accepts it from a peer: its context (R267). Of several the lowest-numbered gives it
(DESIGN CHOICE, log entry 122). -/
def State.windowFor (s : State) (peer va n : Nat) (bit : Nat) : Option Nat :=
  (List.range 64).findSome? fun i =>
    let off := 0x15008 + 24 * i
    let base := canonOf ((s.reg off).toNat / 2 ^ 16 * 2 ^ 16)
    let size := (s.reg (off + 8)).toNat / 2 ^ 16 * 2 ^ 16
    let ctl := (s.reg (off + 16)).toNat
    if ctl.testBit 63 ∧ ctl.testBit bit ∧ bitsOf ctl 32 16 = peer ∧ base ≤ va ∧ va + n ≤ base + size then some (ctl % 65536)
    else none

/-- Requests that perform an inbound piece: aligned 16-byte units whole, else single elements (R240, R242, R250). -/
def inboundReqs (id ctx : Nat) (r : InboundReq) : List HomeReq :=
  let put := fun (op : HomeOp) (va v : Nat) => (⟨.peer id, 0, ctx, va, op, [⟨0, va, v, 0⟩]⟩ : HomeReq)
  let val := fun (o n : Nat) => (List.range n).foldl (fun v i => v + (r.bytes[o + i]?.getD 0) * 2 ^ (8 * i)) 0
  let n := r.bytes.length
  if r.reduce then
    let e := (elemSize r.typ).getD 4
    let unit := if n % 16 = 0 ∧ r.dst % 16 = 0 then 16 else e
    (List.range (n / unit)).map fun i => ⟨.peer id, 0, ctx, r.dst + unit * i, .reduce r.typ,
      (List.range (unit / e)).map fun j => ⟨j, r.dst + unit * i + e * j, val (unit * i + e * j) e, 0⟩⟩
  else if n % 16 = 0 ∧ r.dst % 16 = 0 then
    (List.range (n / 16)).map fun i => put (.store 16) (r.dst + 16 * i) (val (16 * i) 16)
  else (List.range n).map fun i => put (.store 1) (r.dst + i) (val i 1)

/-- An inbound request is checked against the windows and performed by a Drover engine (R267). -/
def State.takeInbound (s : State) (r : InboundReq) : State :=
  let wr := if r.bytes = [] then none else s.windowFor r.peer r.dst r.bytes.length 62
  let tb := if r.tb = 0 ∨ r.arrive = 0 then none else s.windowFor r.peer r.tb 16 61
  let badElem := match elemSize r.typ with
    | none => true
    | some e => decide (r.dst % e ≠ 0 ∨ r.bytes.length % e ≠ 0)
  let bad := decide (r.bytes ≠ [] ∧ wr = none) || decide (r.tb ≠ 0 ∧ r.arrive ≠ 0 ∧ (tb = none ∨ r.tb % 16 ≠ 0)) ||
    (r.reduce && decide (r.bytes ≠ []) && badElem)
  if bad then s.refuseInbound r (s.inboundDone r)
  else
    let id := s.nextId
    let reqs := inboundReqs id (wr.getD 0) r
    let x : Inbound := { id := id, r := r, ctx := tb.getD 0, outs := reqs, arriving := false, failed := false }
    let s := s.noteInbound r (s.inboundDone r + r.bytes.length)
    let s : State := { s with nextId := id + 1, inbound := s.inbound ++ [x] }
    if reqs = [] then s.inboundGoOn id else s.inboundBegin id

/-- INBOUND_WRITE (R267, R491). -/
def execInboundWrite (r : InboundReq) (s : State) : Host.Outcome State Fault Refusal := .next (s.takeInbound r)

/-- INBOUND_STEP (R250, R515): a step of a group in the abort filter is discarded, and its barrier receives abort. -/
def execInboundStep (r : InboundReq) (s : State) : Host.Outcome State Fault Refusal :=
  if s.aborts.contains r.group then
    .next (match s.windowFor r.peer r.tb 16 61 with
      | some ctx => s.abortBarrier ctx r.tb
      | none => s)
  else .next (s.takeInbound r)

/-- ARRIVAL_REPORT (R250): the receiver has arrived; the packet goes on to its end. -/
def execArrivalReport (pid : Nat) (s : State) : Host.Outcome State Fault Refusal :=
  .next ((s.mapPacket pid fun p => if p.closing then { p with waiting := false } else p).pokePacket pid)

/-- REFUSAL_REPORT (R491): the packet fails with SUB 3, and DONE counts the bytes accepted. -/
def execRefusalReport (pid accepted : Nat) (s : State) : Host.Outcome State Fault Refusal :=
  .next ((s.mapPacket pid fun p =>
    if p.route.isSome ∧ p.failed.isNone then { p with failed := some ⟨8, 0, 3, 0⟩, acked := accepted, waiting := false } else p).pokePacket pid)

/-- Enter a group in the abort filter of 256 entries (R515). -/
def State.enterAbort (s : State) (group : Nat) : State :=
  if s.aborts.contains group then s else { s with aborts := (s.aborts ++ [group]).drop (s.aborts.length - 255) }

/-- The steps of a group stop at an element boundary (R515). -/
def State.stopGroup (s : State) (group : Nat) : State :=
  (s.packets.filter fun p => decide (p.kind = 5 ∧ p.d 0 8 = group) && p.accepted).foldl (fun s p =>
    (s.mapPacket p.id fun x => { x with aborted := true, started := true }).pokePacket p.id) s

/-- ABORT_MESSAGE (R515): nothing is forwarded. -/
def execAbortMessage (group : Nat) (s : State) : Host.Outcome State Fault Refusal :=
  .next ((s.enterAbort group).stopGroup group)

end Sys2Proof.Machine
end

