-- ==== Sys2Proof/Machine/NearMem.lean ====
section
/-!
DEFINITION. Near-memory work: NMCMD, 0xDA (14_isa_matrix_engines R378), and the channel engines (05_memory R149 to R154,
06_consistency R180, 09_engines R252 to R254, 24_memory_failures R480 to R482, R493, R494). An engine performs one
command in a step, a RUN one row of a step of its pipeline, with an arbitration window after each row of its own channel. A row
of the engine's own stack is recalled from the caches and read or written in memory, over the network once the channels that
hold it are free; any other row is reached by requests at its home slices.
-/
namespace Sys2Proof.Machine

/-! ### NMCMD (R378) -/

/-- The command in four registers (R378). -/
def Team.command (t : Team) (a : Reg) : BitVec 128 :=
  BitVec.ofNat 128 ((List.range 4).foldl (fun v i => v + (t.rd (regAt a i) 0).toNat * 2 ^ (32 * i)) 0)

/-- NMCMD's limits (R378, R454): its OP, then the engine number. -/
def nmcmdCheck (a b : Reg) (s : State) : Option TrapRec :=
  let t := s.me
  let w := (t.rd a 0).toNat
  let e := (t.rd b 0).toNat
  if t.arrived then none
  else if ¬ (2 ≤ w % 256 ∧ w % 256 ≤ 5) then limitTrap 0x35 [(0, w)]
  else if e > 383 then limitTrap 0x35 [(0, e)] else none

/-- NMCMD (R180, R249, R253, R378): the command goes to the engine's controller and joins the open batch; the team waits
until the engine accepts it. -/
def execNmcmd (a b : Reg) (s : State) : Host.Outcome State Fault Refusal :=
  s.issueIf (.nmcmd a b) (nmcmdCheck a b) fun s =>
    let t := s.me
    if t.arrived then (if s.cmdWaits s.cur then s.stall .nmcmd true else s.advance)
    else
      let c := s.myCrew
      let e := (t.rd b 0).toNat
      let x : Submission :=
        { id := s.nextId, ctx := c.ctx, src := 0, cmds := [(0, t.command a)], upto := 1, first := 0, idx := 0, pid := none,
          team := some s.cur, batch := t.batchNext, grid := c.grid, crew := c.num, teamIdx := t.idx }
      let s : State := { (s.chargeMem 1) with nextId := s.nextId + 1 }
      let s := (s.mapEngine e fun y => { y with queue := y.queue ++ [x] }).mapMe Team.joinBatch
      (s.poke (.submissionTake e)).stall .nmcmd true

/-! ### Rows (R149, R150) -/

/-- The stack and the channel of a physical address of HBM4E (R128). -/
def stackOf (pa : Nat) : Nat := pa / 2 ^ 36
def channelOf (pa : Nat) : Nat := bitsOf pa 10 5

/-- Is an address in the stack of an engine? -/
def inStack (e pa : Nat) : Bool := decide (stackOf pa = e / 32)

/-- The pieces of a range that lie in one line each: address and bytes. -/
def linePieces (va n : Nat) : List (Nat × Nat) :=
  (linesOfRange va n).map fun l => (max l va, min (l + 128) (va + n) - max l va)

/-- Where the pieces of a row lie, or its first fault: rows in host memory are kind 0x7 (R150). -/
def State.rowPlaces (s : State) (ctx : Nat) (wr : Bool) : List (Nat × Nat) → Except BadAccess (List (Nat × Nat × Nat))
  | [] => .ok []
  | (va, n) :: r =>
    if !canonical va then .error ⟨0x0B, 0, 5, va⟩
    else
      match s.translate ctx va with
      | .error b => .error b
      | .ok l =>
        if l.host then .error ⟨0x0B, 2, 7, va⟩
        else if wr && !l.wr then .error ⟨0x0B, 2, 3, va⟩
        else if !wr && !l.rd then .error ⟨0x0B, 2, 2, va⟩
        else
          match s.rowPlaces ctx wr r with
          | .error b => .error b
          | .ok m => .ok ((va, n, l.pa) :: m)

/-- Does an engine reach a row directly: exactly one DRAM row of its own channel (R149)? -/
def isDirect (e n : Nat) (ps : List (Nat × Nat × Nat)) : Bool :=
  match ps with
  | (_, _, pa) :: _ => decide (n = 1024 ∧ pa % 1024 = 0 ∧ channelOf pa = e % 32) && ps.all fun p => inStack e p.2.2
  | [] => false

/-- Does a row lie wholly in the stack of an engine? Any other is read and written at its home slices (R150). -/
def rowInStack (e : Nat) (ps : List (Nat × Nat × Nat)) : Bool := ps.all fun p => inStack e p.2.2

/-- The other channel engines whose channels hold pieces of a row of the stack (R149). -/
def rowChannels (e : Nat) (ps : List (Nat × Nat × Nat)) : List Nat :=
  (dedupNat (ps.map fun p => 32 * stackOf p.2.2 + channelOf p.2.2)).filter (· ≠ e)

/-- A row that is not reached directly is counted (R149, R273, R274). -/
def State.countRow (s : State) (e ctx : Nat) (direct : Bool) : State :=
  if direct then s else (s.countUnit 3 e 2 3 1).countPart (s.partOfCtx ctx) 5 1

/-- Read the pieces of a row of the engine's stack: dirty data of the range are written back first (R150). -/
def State.readPieces (s : State) (ctx : Nat) : List (Nat × Nat × Nat) → Except BadAccess (State × List Byte)
  | [] => .ok (s, [])
  | (va, n, pa) :: r =>
    let s := s.writeBack (lineId ctx va)
    let bad := (List.range n).find? fun i => s.poison.contains ((pa + i) / 32 * 2) || s.poison.contains ((pa + i) / 32 * 2 + 1)
    match bad with
    | some i => .error ⟨0x0D, 2, 0, va + i⟩
    | none =>
      match State.readPieces s ctx r with
      | .error b => .error b
      | .ok (s', rest) => .ok (s', s.dram.bytes pa n ++ rest)

/-- A fill on its way from memory to a home slice looks at memory again. -/
def refetchFill (lid : Nat) (p : Pending) : Pending :=
  match p.ev with
  | .homeFillComplete q (.filled d) =>
    if lineId q.ctx q.va = lid then { p with ev := .translateRequest q } else { p with ev := .homeFillComplete q (.filled d) }
  | _ => p

/-- Recall of a line before an engine writes it: dirty data go to memory and every copy is invalidated (R150). -/
def State.recallLine (s : State) (lid : Nat) : State :=
  let s := s.evictLine lid
  { s with agenda := s.agenda.map (refetchFill lid) }

/-- Mark the sectors of a range poisoned, where its line is held, else in memory (R493, R494). -/
def State.poisonRange (s : State) (ctx va n pa : Nat) : State :=
  let halves := dedupNat ((List.range n).map fun i => (va % 128 + i) / 32)
  match SMap.look s.l2 (lineId ctx va) with
  | some x =>
    let m := halves.foldl (fun m i => m ||| BitVec.ofNat 8 (3 * 2 ^ (2 * i))) x.poison
    { s with l2 := SMap.put s.l2 (lineId ctx va) { x with poison := m } }
  | none =>
    let base := (pa - va % 128) / 16
    { s with poison := s.poison ++ (halves.flatMap fun i => [base + 2 * i, base + 2 * i + 1]).filter fun h => !s.poison.contains h }

/-- Write the pieces of a row of the engine's stack, each once its line is recalled; `bad` poisons every sector of it (R150,
R494). A line that the host may hold is acknowledged after its snoop (R258). -/
def State.writePieces (s : State) (e : Nat) (b : Submission) (bad : Bool) : List (Nat × Nat × Nat) → List Byte → State
  | [], _ => s
  | (va, n, pa) :: r, bs =>
    let lid := lineId b.ctx va
    let s := (s.recallLine lid).physWrite pa (bs.take n)
    let s := if s.hostLines.contains lid && s.linkUp then
        (s.mapEngine e fun x => { x with subs := x.subs.map fun y => if y.id = b.id then { y with outs := y.outs + 1 } else y }).snoopFor
          lid (.writerAck ⟨.engine e, 0, b.ctx, va, .store n, [⟨b.id, va, 0, 0⟩]⟩ [] none)
      else s
    let s := s.afterWrite b.ctx va
    State.writePieces (if bad then s.poisonRange b.ctx va n pa else s) e b bad r (bs.drop n)

/-! ### How a submission runs (R252, R253) -/

/-- The running submission of an engine. -/
def State.headSub (s : State) (e : Nat) : Option Submission := (s.engineAt e).subs.head?

/-- Change the running submission. -/
def State.mapSub (s : State) (e : Nat) (f : Submission → Submission) : State :=
  s.mapEngine e fun x => match x.subs with
    | [] => x
    | b :: r => { x with subs := f b :: r }

/-- The event of the command at which a submission stands; an end, a failure and a reserved OP are for NM_END. -/
def Submission.event (b : Submission) (e : Nat) : Instr :=
  match b.failed, b.command with
  | none, some c => (match bitsOf c.toNat 0 8 with
    | 1 => .nmBind e
    | 2 => .nmRun e
    | 3 => .nmScadd e
    | 4 => .nmAccz e
    | 5 => .nmAccst e
    | 6 => .nmFence e
    | _ => .nmEnd e)
  | _, _ => .nmEnd e

/-- The engine goes on with its running submission; requests that its channel held back are served where it leaves the channel
to them. -/
def State.nmNext (s : State) (e : Nat) : State :=
  let s := s.easeChannel e
  let x := s.engineAt e
  match x.subs with
  | b :: _ => if b.taken ∧ !x.suspended ∧ !x.window ∧ !x.waiting then s.poke (b.event e) else s
  | [] => s

/-- The engine is done with a row that it did not reach directly: no channel waits for it any longer (R149). -/
def State.leaveNet (s : State) (e : Nat) : State :=
  let s := if (s.engineAt e).netting then s.mapEngine e fun x => { x with netting := false } else s
  (s.chans.filter fun p => p.2.wants.contains e).foldl (fun s p =>
    s.mapEngine p.1 fun x => { x with wants := x.wants.filter (· ≠ e) }) s

/-- What a command leaves behind when it ends, as an engine finds it at the next one. -/
def ChanEngine.rest (x : ChanEngine) : ChanEngine := { x with phase := 0, bufs := [], rowIn := [], sent := false }

/-- Before the first command: accumulators and binding of another context are dropped (R253), and the first activation
is exposed (R153). -/
def State.beginSub (s : State) (e : Nat) (b : Submission) : State :=
  if b.begun then s
  else
    (s.mapEngine e fun x =>
      if x.lastCtx = some b.ctx then { x with exposed := true }
      else { x with acc := [], poison := 0, bound := none, lastCtx := some b.ctx, exposed := true }).mapSub e fun b =>
      { b with begun := true }

/-- The running command fails (R480, R482). -/
def State.failCommand (s : State) (e : Nat) (b : BadAccess) : State :=
  let s := ((s.leaveNet e).mapEngine e ChanEngine.rest).mapSub e fun x => { x with failed := some b }
  (s.easeChannel e).poke (.nmEnd e)

/-- A fault of a command: escalated under PGFLT = 1 with the engine suspended, else a failure (R476, R482). -/
def State.engineFault (s : State) (e ctx : Nat) (acc : Nat) (b : BadAccess) : State :=
  if s.hostMode 0 ∧ b.cause = 0x0B ∧ b.kind ≠ 5 then
    let s := ((s.leaveNet e).mapEngine e fun x => { x with waiting := true }).easeChannel e
    match s.escs.find? fun x => decide (x.fn = 0 ∧ x.ctx = ctx ∧ x.page = escPage b.va) with
    | some old =>
      let join := fun (x : Escalation) => if x.tag = old.tag ∧ x.fn = 0 then { x with engines := x.engines ++ [(e, b)] } else x
      { s with escs := s.escs.map join }
    | none =>
      s.openEscalation { fn := 0, tag := 0, ctx := ctx, page := escPage b.va, reqs := [], teams := [], pkts := [],
                         engines := [(e, b)], bad := b, key := 0 } (s.partOfCtx ctx)
        [(0x10, 16 * b.site + b.kind), (0x11, acc), (0x12, 2), (0x14, e), (0x18, b.va)]
  else s.failCommand e b

/-- A command is complete; the next one follows (R253, R273). -/
def State.commandDone (s : State) (e : Nat) : State :=
  (((s.mapEngine e fun x => { x.rest with step := 0 }).mapSub e fun b => { b with idx := b.idx + 1 }).countUnit 3 e 2 1 1)

/-- A window is opened after a row of the engine's own channel (R153). -/
def State.rowDone (s : State) (e : Nat) (direct : Bool) : State :=
  if direct then (s.mapEngine e fun x => { x with window := true }).poke (.arbitrationWindow e) else (s.leaveNet e).nmNext e

/-- The limits of a command (R253): bits and fields that it does not use, and the alignment of ADDR. -/
def commandBad (c : BitVec 128) : Bool :=
  let f := fun (off n : Nat) => bitsOf c.toNat (8 * off) (8 * n)
  let op := f 0 1
  decide (op > 6 ∨ f 1 1 > 15 ∨ f 2 1 > 1 ∨ f 3 1 ≠ 0) ||
  (match op with
   | 1 => decide (f 1 2 ≠ 0 ∨ f 4 4 ≠ 0 ∨ f 8 8 % 64 ≠ 0)
   | 3 => decide (f 8 8 % 1024 ≠ 0)
   | 4 => decide (f 2 1 ≠ 0 ∨ f 4 4 ≠ 0 ∨ f 8 8 ≠ 0)
   | 5 => decide (f 4 4 ≠ 0 ∨ f 8 8 % 1024 ≠ 0)
   | _ => decide (f 1 2 ≠ 0 ∨ f 4 4 ≠ 0 ∨ f 8 8 ≠ 0))

/-- THE FRAME of a command: the engine runs its head submission, the command is of kind `op`, and obeys R253. -/
def State.runCommand (s : State) (e op : Nat) (go : State → Submission → BitVec 128 → State) : State :=
  let x := s.engineAt e
  match x.subs with
  | [] => s
  | b :: _ =>
    if !b.taken || x.suspended || x.window || x.waiting || b.failed.isSome then s
    else
      match b.command with
      | none => s
      | some c =>
        if bitsOf c.toNat 0 8 ≠ op then s
        else
          let s := s.beginSub e b
          if commandBad c then s.failCommand e ⟨8, 0, 4, 0⟩ else go s b c

/-- THE WAY TO A ROW: may the engine read or write it now? A row of its own channel whose activation is exposed opens a window
first (R153). For any other the engine leaves its channel to ordinary requests (R149); one in its stack is reached once every
channel that holds it is free of its own engine, and no accepted NMCMD is about to write it (R153, R180). -/
def State.toRow (s : State) (e n : Nat) (ps : List (Nat × Nat × Nat)) : State × Bool :=
  let x := s.engineAt e
  if isDirect e n ps then
    if x.exposed then
      ((s.mapEngine e fun x => { x with exposed := false, window := true }).poke (.arbitrationWindow e), false)
    else (s, true)
  else if !x.netting then ((s.mapEngine e fun x => { x with netting := true, exposed := false }).nmNext e, false)
  else if !rowInStack e ps then (s, true)
  else
    let busy := (rowChannels e ps).filter s.channelBusy
    if busy = [] ∧ ps.all (fun p => !s.rowHeld (.engine e) true p.2.2) then (s, true)
    else
      let ask := fun (x : ChanEngine) => { x with wants := if x.wants.contains e then x.wants else x.wants ++ [e] }
      ((busy.foldl (fun s c => s.mapEngine c ask) s).nmNext e, false)

/-- Requests at home for the lines of a row outside the stack (R150). -/
def State.askRow (s : State) (e : Nat) (b : Submission) (ps : List (Nat × Nat × Nat)) : State :=
  ps.foldl (fun s p => s.request ⟨.engine e, e, b.ctx, p.1, .load p.2.1, [⟨0, p.1, b.id, 2⟩]⟩)
    (s.mapEngine e fun x => { x with waiting := true, rowReads := ps.length })

/-- Stores at home of the lines of a row outside the stack (R150). -/
def State.sendRow (s : State) (e : Nat) (b : Submission) (bad : Bool) : List (Nat × Nat × Nat) → List Byte → State
  | [], _ => s
  | (va, n, _) :: r, bs =>
    let q : HomeReq := ⟨.engine e, e, b.ctx, va, .store n, [⟨b.id, va, leNat (bs.take n), if bad then 2 else 0⟩]⟩
    ((s.mapSub e fun b => { b with outs := b.outs + 1 }).request q).sendRow e b bad r (bs.drop n)

/-- The bytes of a row from the answers for its lines. -/
def rowBytes (got : List (HomeReq × Option Nat × Option BadAccess)) (va n : Nat) : List Byte :=
  (linePieces va n).flatMap fun p =>
    leBytes p.2 (((got.find? fun a => decide (a.1.va = p.1)).bind fun a => a.2.1).getD 0)

/-- READ A ROW of `n` bytes for the running command and go on with its bytes; `go` learns whether it was reached directly
(R149, R150, R153, R482). -/
def State.withRow (s : State) (e : Nat) (b : Submission) (va n : Nat) (go : State → Bool → List Byte → State) : State :=
  let got := (s.engineAt e).rowIn
  if got ≠ [] then
    let s := s.mapEngine e fun x => { x with rowIn := [] }
    match got.findSome? fun a => a.2.2 with
    | some bad => s.failCommand e bad
    | none => go s false (rowBytes got va n)
  else
    match s.rowPlaces b.ctx false (linePieces va n) with
    | .error bad => s.engineFault e b.ctx 0 bad
    | .ok ps =>
      let r := s.toRow e n ps
      if !r.2 then r.1
      else
        let direct := isDirect e n ps
        let s := r.1.countRow e b.ctx direct
        if rowInStack e ps then
          match s.readPieces b.ctx ps with
          | .error bad => s.engineFault e b.ctx 0 bad
          | .ok (s, bs) => go s direct bs
        else s.askRow e b ps

/-- WRITE A ROW for the running command and go on; `bad` poisons it (R149, R150, R153, R482, R494). The command waits for the
acknowledgements of a row outside the stack, so that a failure found at home leaves it at that row (R482). -/
def State.putRow (s : State) (e : Nat) (b : Submission) (bad : Bool) (va : Nat) (bs : List Byte) (go : State → Bool → State) :
    State :=
  if (s.engineAt e).sent then go (s.mapEngine e fun x => { x with sent := false }) false
  else
    match s.rowPlaces b.ctx true (linePieces va bs.length) with
    | .error x => s.engineFault e b.ctx 1 x
    | .ok ps =>
      let r := s.toRow e bs.length ps
      if !r.2 then r.1
      else
        let direct := isDirect e bs.length ps
        let s := r.1.countRow e b.ctx direct
        if rowInStack e ps then go (s.writePieces e b bad ps bs) direct
        else (s.mapEngine e fun x => { x with waiting := true, sent := true }).sendRow e b bad ps bs

/-! ### Bank commands (R152) -/

def cmdBank (c : BitVec 128) : Nat := bitsOf c.toNat 8 4
def cmdFloat (c : BitVec 128) : Bool := c.getLsbD 16
def cmdScalar (c : BitVec 128) : Nat := bitsOf c.toNat 32 32
def cmdAddr (c : BitVec 128) : Nat := bitsOf c.toNat 64 64

/-- A 32-bit element of a list of bytes. -/
def wordAt (bs : List Byte) (i : Nat) : Nat := leNat ((bs.drop (4 * i)).take 4)

/-- acc + s × row[i] (R152). -/
def scaddElem (isFloat : Bool) (acc s r : Nat) : Nat :=
  if isFloat then ffmaE fmtF32 0 false s r acc else (acc + s * r) % 2 ^ 32

/-- Add a scaled row into a bank. -/
def addRow (c : BitVec 128) (bs : List Byte) (acc : SMap Word) : SMap Word :=
  (List.range 256).foldl (fun m i =>
    let k := 256 * cmdBank c + i
    SMap.set 0 m k (BitVec.ofNat 32 (scaddElem (cmdFloat c) (SMap.get 0 m k).toNat (cmdScalar c) (wordAt bs i)))) acc

/-- NM_SCADD (R152, R482). -/
def execNmScadd (engine : Nat) (s : State) : Host.Outcome State Fault Refusal :=
  .next (s.runCommand engine 3 fun s b c => s.withRow engine b (cmdAddr c) 1024 fun s direct bs =>
    ((s.mapEngine engine fun x => { x with acc := addRow c bs x.acc }).commandDone engine).rowDone engine direct)

/-- NM_ACCZ (R152, R494): the bank is zero, and not poisoned. -/
def execNmAccz (engine : Nat) (s : State) : Host.Outcome State Fault Refusal :=
  .next (s.runCommand engine 4 fun s _ c =>
    let k := cmdBank c
    ((s.mapEngine engine fun x =>
      { x with acc := x.acc.filter fun p => decide (p.1 / 256 ≠ k), poison := x.poison &&& ~~~(BitVec.ofNat 16 (2 ^ k)) }).commandDone
        engine).nmNext engine)

/-- The bytes of a bank. -/
def bankBytes (acc : SMap Word) (k : Nat) : List Byte :=
  (List.range 256).flatMap fun i => leBytes 4 (SMap.get 0 acc (256 * k + i)).toNat

/-- NM_ACCST (R152, R482, R494). -/
def execNmAccst (engine : Nat) (s : State) : Host.Outcome State Fault Refusal :=
  .next (s.runCommand engine 5 fun s b c =>
    let x := s.engineAt engine
    s.putRow engine b (x.poison.getLsbD (cmdBank c)) (cmdAddr c) (bankBytes x.acc (cmdBank c)) fun s direct =>
      (s.commandDone engine).rowDone engine direct)

/-! ### BIND and RUN (R151, R254) -/

/-- Ask for bytes of one line for the engine itself; `mark` is 0 for a command block and 1 for a parameter block. -/
def engineReq (e ctx va n sub mark : Nat) : HomeReq := ⟨.engine e, e, ctx, va, .load n, [⟨0, va, sub, mark⟩]⟩

/-- NM_BIND (R253, R254): the parameter block is read; a fault leaves the engine unbound. -/
def execNmBind (engine : Nat) (s : State) : Host.Outcome State Fault Refusal :=
  let x := s.engineAt engine
  match x.answers.find? fun a => decide ((a.1.accs.head?.map LaneAcc.data2).getD 0 = 1) with
  | some a =>
    let blk : Option (BitVec 512) := if a.2.2.isSome then none else a.2.1.map (BitVec.ofNat 512)
    let s := s.mapEngine engine fun y => { y with answers := y.answers.erase a, waiting := false, bound := blk }
    .next (match a.2.2 with
      | some b => s.failCommand engine b
      | none => (s.commandDone engine).nmNext engine)
  | none =>
    .next (s.runCommand engine 1 fun s b c =>
      if !canonical (cmdAddr c) then
        (s.mapEngine engine fun x => { x with bound := none }).failCommand engine ⟨0x0B, 0, 5, cmdAddr c⟩
      else
        ((s.mapEngine engine fun x => { x with waiting := true }).easeChannel engine).request
          (engineReq engine b.ctx (cmdAddr c) 64 b.id 1))

/-- Fields of a parameter block (R254). -/
def blockF (b : BitVec 512) (off n : Nat) : Nat := bitsOf b.toNat (8 * off) (8 * n)
def blockCount (b : BitVec 512) (i : Nat) : Nat := blockF b (0x30 + 2 * i) 2
def blockLen (b : BitVec 512) : Nat := blockF b 0x3A 2
def blockDeq (b : BitVec 512) : Bool := b.getLsbD (8 * 0x38)
def blockMul (b : BitVec 512) : Bool := b.getLsbD (8 * 0x38 + 1)
def blockRed (b : BitVec 512) : Bool := b.getLsbD (8 * 0x38 + 2)
def blockAct (b : BitVec 512) : Nat := blockF b 0x38 1 / 16 % 4
def blockW4 (b : BitVec 512) : Bool := b.getLsbD (8 * 0x38 + 7)
def blockG (b : BitVec 512) : Nat := 32 * 2 ^ (blockF b 0x39 1 % 4)
def blockSat (b : BitVec 512) : Bool := b.getLsbD (8 * 0x38 + 10)

/-- The limits of a parameter block (R254). -/
def blockOk (b : BitVec 512) : Bool :=
  let len := blockLen b
  decide (1 ≤ blockCount b 0 ∧ 1 ≤ blockCount b 3 ∧ 1 ≤ len ∧ blockF b 0x39 1 / 8 = 0 ∧ blockF b 0x39 1 % 4 ≠ 3 ∧ blockAct b ≠ 3 ∧
    blockF b 0x38 1 / 64 % 2 = 0 ∧ blockF b 0x38 1 / 8 % 2 = 0) &&
  (blockRed b || decide (len = 1)) && (!blockDeq b || decide (1 ≤ blockCount b 1 ∧ len % blockG b = 0)) &&
  (!blockMul b || decide (1 ≤ blockCount b 2)) && (!blockW4 b || decide (len % 2 = 0))

/-- The address of the row of a stream at step `j` (R254). -/
def streamRow (b : BitVec 512) (i j : Nat) : Nat :=
  addrAdd (blockF b (8 * i) 8) ((j % max 1 (blockCount b i) : Nat) * sext 32 (blockF b (0x20 + 4 * i) 4))

/-- Bytes that a step reads of a stream. -/
def streamBytes (b : BitVec 512) (i : Nat) : Nat :=
  let len := blockLen b
  match i with
  | 0 => if blockW4 b then len / 2 else len
  | 1 => if blockDeq b then 2 * (len / blockG b) else 0
  | 2 => if blockMul b then (if blockDeq b then 2 * len else len) else 0
  | _ => 4

/-- One output on the integer path (R151). Where LO is above HI the upper bound wins (DESIGN CHOICE, log entry 123), on the float
path too. -/
def runInt (b : BitVec 512) (w x : Nat → Int) : Nat :=
  let fit := fun (v : Int) => if blockSat b then max (-(2 ^ 31)) (min (2 ^ 31 - 1) v) else sext 32 (wrapNat 32 v)
  let acc := (List.range (blockLen b)).foldl (fun acc i => fit (acc + (if blockMul b then w i * x i else w i))) 0
  let lo := sext 16 (blockF b 0x3C 2)
  let hi := sext 16 (blockF b 0x3E 2)
  wrapNat 32 (match blockAct b with
    | 0 => acc
    | 1 => max acc 0
    | _ => min (max acc lo) hi)

/-- One output on the float path (R151): products and sums are rounded toward zero. -/
def runFloat (b : BitVec 512) (w : Nat → Int) (sc x : Nat → Nat) : Nat :=
  let p := fun (i : Nat) =>
    let d := (ofIntVal (w i) 0).mul (fmtBF16.decode (sc (i / blockG b)))
    fmtF32.round 1 (if blockMul b then d.mul (fmtBF16.decode (x i)) else d)
  let acc := if blockRed b then (List.range (blockLen b)).foldl (fun acc i => addRnd fmtF32 1 acc (p i)) 0 else p 0
  let lo := blockF b 0x3C 2 * 2 ^ 16
  let hi := blockF b 0x3E 2 * 2 ^ 16
  match blockAct b with
  | 0 => acc
  | 1 => fmaxE fmtF32 false acc 0
  | _ => fminE fmtF32 false (fmaxE fmtF32 false acc lo) hi

/-- The output of a step from the rows read (R151). -/
def runOutput (b : BitVec 512) (r0 r1 r2 : List Byte) : Nat :=
  let byte := fun (l : List Byte) (i : Nat) => (l[i]?.getD 0).toNat
  let half := fun (l : List Byte) (i : Nat) => byte l (2 * i) + 256 * byte l (2 * i + 1)
  let w := fun (i : Nat) => if blockW4 b then sext 4 (byte r0 (i / 2) / 16 ^ (i % 2)) else sext 8 (byte r0 i)
  if blockDeq b then runFloat b w (half r1) (half r2) else runInt b w fun i => sext 8 (byte r2 i)

/-- One row of a step of a RUN: the next stream that the step reads, or the output of what it has read (R151, R153, R254). -/
def State.runPhase (s : State) (e : Nat) (sub : Submission) (b : BitVec 512) : State :=
  let x := s.engineAt e
  let row := fun (i : Nat) => (((x.bufs.find? fun p => decide (p.1 = i)).map Prod.snd).getD [])
  match [0, 1, 2].find? fun i => decide (x.phase ≤ i ∧ streamBytes b i ≠ 0) with
  | some i => s.withRow e sub (streamRow b i x.step) (streamBytes b i) fun s direct bs =>
      (s.mapEngine e fun x => { x with phase := i + 1, bufs := x.bufs ++ [(i, bs)] }).rowDone e direct
  | none => s.putRow e sub false (streamRow b 3 x.step) (leBytes 4 (runOutput b (row 0) (row 1) (row 2))) fun s direct =>
      (s.mapEngine e fun x => { x.rest with step := x.step + 1 }).rowDone e direct

/-- NM_RUN (R151, R253, R254): one row of a step, or the end of the run. -/
def execNmRun (engine : Nat) (s : State) : Host.Outcome State Fault Refusal :=
  .next (s.runCommand engine 2 fun s sub _ =>
    let x := s.engineAt engine
    match x.bound with
    | none => s.failCommand engine ⟨8, 0, 4, 0⟩
    | some b =>
      if !blockOk b then s.failCommand engine ⟨8, 0, 4, 0⟩
      else if x.step ≥ blockCount b 0 then (s.commandDone engine).nmNext engine
      else s.runPhase engine sub b)

/-- NM_FENCE (R253). -/
def execNmFence (engine : Nat) (s : State) : Host.Outcome State Fault Refusal :=
  .next (s.runCommand engine 6 fun s b _ =>
    if b.outs ≠ 0 then s.poke (.nmFence engine) else (s.commandDone engine).nmNext engine)

/-! ### The end of a submission (R252, R253, R480 to R482) -/

/-- How a submission ended: its packet, or the batch of its NMCMD, goes on. -/
def State.endSub (s : State) (e : Nat) (b : Submission) (bad : Option BadAccess) : State :=
  let step := (s.engineAt e).step
  let s := (s.leaveNet e).mapEngine e fun x => { x.rest with subs := x.subs.drop 1, step := 0 }
  let s := match b.pid with
    | some p => (s.mapPacket p fun x =>
        { x with waiting := false, closing := true, nmIdx := b.idx, nmStep := step,
                 failed := if x.failed.isSome then x.failed else bad }).pokePacket p
    | none =>
      let s := match (if s.killed.contains b.ctx then none else bad) with
        | some x => s.recordFailure b.ctx x (2 ^ 15 + e) 0 b.teamIdx 0xFF b.idx b.grid b.crew step 0 0 0 (.command b.team b.batch)
        | none => s.recordEnd (.command b.team b.batch)
      s
  (s.poke (.submissionTake e)).nmNext e

/-- NM_END (R252, R253, R482): the block ends, or the submission has failed, once its writes are acknowledged. -/
def execNmEnd (engine : Nat) (s : State) : Host.Outcome State Fault Refusal :=
  let x := s.engineAt engine
  match x.subs with
  | [] => .next s
  | b :: _ =>
    if !b.taken || x.suspended || x.window || x.waiting then .next s
    else if b.event engine ≠ .nmEnd engine then .next s
    else
      let s := s.beginSub engine b
      if b.outs ≠ 0 then .next (s.poke (.nmEnd engine))
      else
        match b.failed, b.command with
        | some f, _ => .next (s.endSub engine b (some f))
        | none, some c =>
          if commandBad c then .next (s.endSub engine b (some ⟨8, 0, 4, 0⟩)) else .next (s.endSub engine b none)
        | none, none => .next (s.endSub engine b (if b.idx ≥ 64 then none else b.readBad))

/-! ### Places and acceptance (R180, R252, R378) -/

/-- Ask for the next line of a command block (R252). -/
def State.readBlock (s : State) (e : Nat) (b : Submission) : State :=
  let va := (b.src + 16 * b.upto) % 2 ^ 64
  if canonical va then s.request (engineReq e b.ctx va (128 - va % 128) b.id 0)
  else s.mapEngine e fun x =>
    { x with subs := x.subs.map fun y => if y.id = b.id then { y with readBad := some ⟨0x0B, 0, 5, va⟩, taken := true } else y }

/-- The commands of a line, up to the first END or command 63. -/
def takeCommands (v : Nat) : Nat → Nat → SMap (BitVec 128) → SMap (BitVec 128) × Nat × Bool
  | 0, i, m => (m, i, false)
  | n + 1, i, m =>
    let c := BitVec.ofNat 128 v
    let m := SMap.put m i c
    if bitsOf c.toNat 0 8 = 0 ∨ i ≥ 63 then (m, i + 1, true) else takeCommands (v / 2 ^ 128) n (i + 1) m

/-- An answer to the read of a command block. -/
def State.blockAnswer (s : State) (e : Nat) (q : HomeReq) (v : Option Nat) (bad : Option BadAccess) : State :=
  let id := (q.accs.head?.map LaneAcc.data).getD 0
  let n := match q.op with
    | .load n => n / 16
    | _ => 0
  let put := fun (b : Submission) =>
    if b.id ≠ id then b
    else
      match bad with
      | some x => { b with readBad := some x, taken := true }
      | none =>
        let r := takeCommands (v.getD 0) n b.upto b.cmds
        { b with cmds := r.1, upto := r.2.1, taken := r.2.2 }
  let s := s.mapEngine e fun x => { x with subs := x.subs.map put }
  match (s.engineAt e).subs.find? fun b => decide (b.id = id) with
  | some b => if b.taken then s else s.readBlock e b
  | none => s

/-- What an answer to an engine's read is for: 0 a command block, 1 a parameter block, 2 a row. -/
def answerMark (a : HomeReq × Option Nat × Option BadAccess) : Nat := (a.1.accs.head?.map LaneAcc.data2).getD 0

/-- When the last line of a row outside the stack is there, the engine goes on with it (R150). -/
def ChanEngine.takeRow (x : ChanEngine) : ChanEngine :=
  let got := x.answers.filter fun a => decide (answerMark a = 2)
  if x.rowReads ≠ 0 ∧ x.rowReads ≤ got.length then
    { x with answers := x.answers.filter (fun a => decide (answerMark a ≠ 2)), rowReads := 0, rowIn := got, waiting := false }
  else x

/-- SUBMISSION_TAKE (R150, R252): answers to reads are taken in, and the first submission that waits takes a place. -/
def execSubmissionTake (engine : Nat) (s : State) : Host.Outcome State Fault Refusal :=
  let s := if (s.engineAt engine).rowReads = 0 then s else (s.mapEngine engine ChanEngine.takeRow).nmNext engine
  let s := if (s.engineAt engine).sent then s.nmNext engine else s
  let x := s.engineAt engine
  match x.answers.find? fun a => decide (answerMark a = 0) with
  | some a =>
    let s := s.mapEngine engine fun y => { y with answers := y.answers.erase a }
    .next (((s.blockAnswer engine a.1 a.2.1 a.2.2).poke (.submissionTake engine)).nmNext engine)
  | none =>
    match x.queue with
    | [] => .next s
    | b :: r =>
      if x.subs.length ≥ 8 then .next s
      else
        match b.pid, b.team with
        | none, some k => .next (s.poke (.nmcmdAccept k))
        | _, _ =>
          let s := s.mapEngine engine fun y => { y with queue := r, subs := y.subs ++ [b] }
          .next ((s.readBlock engine b).poke (.submissionTake engine))

/-- The lines of the rows that a command writes in its engine's stack (R180). -/
def State.heldLines (s : State) (e ctx : Nat) (c : BitVec 128) : List Nat :=
  let n := if bitsOf c.toNat 0 8 = 5 then 1024 else 4
  (writtenRows c (s.engineAt e).bound).flatMap fun row => match s.translate ctx row with
    | .error _ => []
    | .ok l =>
      if l.host then [] else (linesOfRange (row / 1024 * 1024) (if n = 4 then 1024 else n)).map (lineId ctx)

/-- NMCMD_ACCEPT (R180, R378): the engine accepts the command; the rows it writes are recalled, and requests to them wait
at the controller from now on. The team goes on. -/
def execNmcmdAccept (team : Nat) (s : State) : Host.Outcome State Fault Refusal :=
  match s.chans.find? fun p => p.2.queue.head?.any fun b => decide (b.pid = none ∧ b.team = some team) with
  | none => .next s
  | some (e, x) =>
    match x.queue with
    | [] => .next s
    | b :: r =>
      if x.subs.length ≥ 8 then .next s
      else
        let s := s.mapEngine e fun y => { y with queue := r, subs := y.subs ++ [{ b with taken := true }] }
        let s : State := match SMap.look b.cmds 0 with
          | some c => (s.heldLines e b.ctx c).foldl (fun s lid => s.recallLine lid) s
          | none => s
        let s := ((s.poke (.submissionTake e)).nmNext e)
        let t := SMap.get default s.teams team
        if t.wait = some .nmcmd then
          let cur := s.cur
          let s : State := { s with cur := team }
          .next { ((s.mapMe fun t => { t with wait := none }).advance) with cur := cur }
        else .next s

/-! ### Arbitration (R153) -/

/-- Does an ordinary request wait for the channel of an engine: a line request, or a row of another engine (R149, R153)? -/
def State.channelWanted (s : State) (e : Nat) : Bool := decide ((s.engineAt e).waits ≠ [] ∨ (s.engineAt e).wants ≠ [])

/-- ARBITRATION_WINDOW (R153, R273): the engine goes on, or suspends for the requests that wait. -/
def execArbitrationWindow (engine : Nat) (s : State) : Host.Outcome State Fault Refusal :=
  if !(s.engineAt engine).window then .next s
  else if s.channelWanted engine then
    let s := s.mapEngine engine fun x => { x with window := false, suspended := true, exposed := true }
    .next (((s.countUnit 3 engine 2 2 1).easeChannel engine).poke (.engineResume engine))
  else .next ((s.mapEngine engine fun x => { x with window := false }).nmNext engine)

/-- ENGINE_RESUME (R153): it goes on once no ordinary request waits. -/
def execEngineResume (engine : Nat) (s : State) : Host.Outcome State Fault Refusal :=
  if !(s.engineAt engine).suspended then .next s
  else if s.channelWanted engine then .next (s.poke (.engineResume engine))
  else .next ((s.mapEngine engine fun x => { x with suspended := false }).nmNext engine)

end Sys2Proof.Machine
end

