-- ==== Sys2Proof/Machine/Replies.lean ====
section
/-!
DEFINITION. The host's replies to escalations (24_memory_failures R476, R477, 25_scheduling_failures R495, R496, R501,
R504, R506, R508, R514, R516, R517), and the end of a crew that the host or the hardware terminates (22_failure_model
R443).
-/
namespace Sys2Proof.Machine

/-! ### Terminating crews (R443) -/

/-- A crew ends, unless it has ended already (R443). -/
def State.killCrew (s : State) (crew reason team : Nat) (r : TrapRec) (pc : Word) : State :=
  if (s.crewAt crew).exited then s else s.terminateCrew crew reason team r pc

/-- Terminate the crew of a team at the host's word, with reason 3. -/
def State.killByHost (s : State) (k : Nat) : State :=
  match SMap.look s.teams k with
  | some t => s.killCrew t.crew 3 t.idx noTrap t.pc
  | none => s

/-! ### Escalations and their ends -/

/-- The open escalation of a function and tag. -/
def State.escAt (s : State) (fn tag : Nat) : Option Escalation := s.escs.find? fun e => decide (e.fn = fn ∧ e.tag = tag)

/-- An escalation is closed, and the teams that it parked are parked no longer. -/
def State.closeEsc (s : State) (tag : Nat) : State :=
  let free := fun (t : Team) =>
    if t.escals.contains tag then
      let rest := t.escals.filter (· ≠ tag)
      { t with escals := rest, noHolder := if rest = [] then t.noHolder.drop 1 else t.noHolder, wait := match t.wait with
          | some (.host fn n) => if n = tag then none else some (.host fn n)
          | w => w }
    else t
  { s with escs := s.escs.filter (fun e => decide (e.tag ≠ tag)), teams := s.teams.map fun p => (p.1, free p.2) }

/-- Answer the escalation of a function: one that is not open is ignored (R477, R495). -/
def State.reply (s : State) (fn tag : Nat) (go : State → Escalation → State) : State :=
  match s.escAt fn tag with
  | none => s
  | some e => go (s.closeEsc tag) e

/-! ### Translation faults (R476, R477) -/

/-- Does the request wait for its controller, or is it a sink packet? -/
def State.atController (s : State) (q : HomeReq) : Bool :=
  (match q.op with
   | .sink _ _ _ _ => true
   | _ => false) || s.fills.any fun p => decide (p.1 = lineId q.ctx q.va)

/-- Translate a joined request again (PFRESP action 0). -/
def State.retryReq (s : State) (q : HomeReq) : State :=
  if s.atController q then s.send .free (.translateRequest q)
  else
    match q.who with
    | .drover pid => (s.mapPacket pid fun p => { p with waiting := false }).pokePacket pid
    | .team _ _ => s.request q
    | _ => s

/-- Treat a joined request as under PGFLT = 0 (PFRESP action 1). -/
def State.failReq (s : State) (q : HomeReq) (b : BadAccess) : State :=
  if s.atController q then s.fillFault q b
  else
    match q.who with
    | .drover pid => (s.mapPacket pid fun p => { p with waiting := false }).markFailed pid b
    | .team _ _ => s.fail q b
    | _ => s

/-- The engines of an escalation go on, or fail their commands. -/
def State.wakeEngines (s : State) (es : List (Nat × BadAccess)) (retry : Bool) : State :=
  es.foldl (fun s p =>
    let s := s.mapEngine p.1 fun x => { x with waiting := false }
    if retry then s.nmNext p.1 else s.failCommand p.1 p.2) s

/-- The joined requests, but for those that wait on the fill of an earlier one's line and end with it (R471, R477). -/
def State.firstOnes (s : State) : List Nat → List (HomeReq × BadAccess) → List (HomeReq × BadAccess)
  | _, [] => []
  | seen, p :: r =>
    let lid := lineId p.1.ctx p.1.va
    let fills := s.fills.any (fun f => (reqLines p.1).contains f.1) && (match p.1.op with
      | .sink _ _ _ _ => s.waitsFill p.1
      | _ => true)
    if !fills then p :: s.firstOnes seen r
    else if (reqLines p.1).any seen.contains then s.firstOnes seen r
    else p :: s.firstOnes (lid :: seen) r

/-- PFRESP_RETRY (R477). -/
def execPfrespRetry (tag : Nat) (s : State) : Host.Outcome State Fault Refusal :=
  .next (s.reply 0 tag fun s e => ((s.firstOnes [] e.reqs).foldl (fun s p => s.retryReq p.1) s).wakeEngines e.engines true)

/-- PFRESP_FAIL (R477). -/
def execPfrespFail (tag : Nat) (s : State) : Host.Outcome State Fault Refusal :=
  .next (s.reply 0 tag fun s e => ((s.firstOnes [] e.reqs).foldl (fun s p => s.failReq p.1 p.2) s).wakeEngines e.engines false)

/-- PFRESP_TERMINATE (R477): the crews of team requests are terminated; packets and submissions fail. -/
def execPfrespTerminate (tag : Nat) (s : State) : Host.Outcome State Fault Refusal :=
  .next (s.reply 0 tag fun s e =>
    let s := e.reqs.foldl (fun s p => match p.1.who with
      | .team k _ => s.killByHost k
      | _ => s) s
    ((s.firstOnes [] e.reqs).foldl (fun s p => match p.1.who, s.atController p.1 with
      | .team _ _, false => s
      | _, _ => s.failReq p.1 p.2) s).wakeEngines e.engines false)

/-! ### Deadlock (R501) -/

/-- DEADLK_REEXECUTE (R496): the wait is executed again, and walks again. -/
def execDeadlkReexecute (tag : Nat) (s : State) : Host.Outcome State Fault Refusal := .next (s.reply 1 tag fun s _ => s)

/-- DEADLK_DELIVER (R496, R498): cause 0x0C at the waiting instruction. -/
def execDeadlkDeliver (tag : Nat) (s : State) : Host.Outcome State Fault Refusal :=
  .next (s.reply 1 tag fun s e => e.teams.foldl (fun s k =>
    let pc := (SMap.get default s.teams k).pc
    s.takeTrap k (preciseTrap 0x0C 0 (e.key % 2 ^ 32) (e.key / 2 ^ 32 % 2 ^ 32)) pc pc) s)

/-- DEADLK_TERMINATE (R496). -/
def execDeadlkTerminate (tag : Nat) (s : State) : Host.Outcome State Fault Refusal :=
  .next (s.reply 1 tag fun s e => e.teams.foldl State.killByHost s)

/-- Teams are admitted to the wait that they execute again: 1 with no cycle found for it, 2 untracked. A held save goes on waiting
(R505). -/
def State.admitTeams (s : State) (ks : List Nat) (how : Nat) : State :=
  ks.foldl (fun s k => s.mapTeam k fun t => if t.place = .saving then { t with untracked := t.untracked || decide (how = 2) }
    else { t with admission := how }) s

/-- DEADLK_ADMIT (R496, R501). -/
def execDeadlkAdmit (tag : Nat) (s : State) : Host.Outcome State Fault Refusal :=
  .next (s.reply 1 tag fun s e => s.admitTeams e.teams 1)

/-! ### A full wait-for table (R504) -/

/-- WFTOVF_ADMIT_UNTRACKED (R496, R504). -/
def execWftovfAdmitUntracked (tag : Nat) (s : State) : Host.Outcome State Fault Refusal :=
  .next (s.reply 2 tag fun s e => s.admitTeams e.teams 2)

/-- WFTOVF_RETRY (R496, R504). -/
def execWftovfRetry (tag : Nat) (s : State) : Host.Outcome State Fault Refusal :=
  .next (s.reply 2 tag fun s e => e.teams.foldl (fun s k =>
    if (SMap.get default s.teams k).place = .saving then (s.mapTeam k Team.unheld).saveTeam k else s) s)

/-- WFTOVF_TERMINATE (R496). -/
def execWftovfTerminate (tag : Nat) (s : State) : Host.Outcome State Fault Refusal :=
  .next (s.reply 2 tag fun s e => e.teams.foldl State.killByHost s)

/-! ### A full parked-pin bucket (R506) -/

/-- A save that is still held writes its entry into the overflow area and goes on; if that is full too, another packet is
appended. -/
def State.retryOverflow (s : State) (k h : Nat) : State :=
  if (SMap.get default s.teams k).wait ≠ some (.pinBucket h) then s
  else match (s.entriesDue k).find? fun e => decide (pinBucket (entryName e) = h) with
  | none => s.saveTeam k
  | some e => match s.pptxPut e with
    | some s => (s.noteEntry k e).saveTeam k
    | none => s.saveTeam k

/-- PPT_RETRY (R496, R506). -/
def execPptRetry (tag : Nat) (s : State) : Host.Outcome State Fault Refusal :=
  .next (s.reply 3 tag fun s e => e.teams.foldl (fun s k => s.retryOverflow k e.key) s)

/-- PPT_TERMINATE (R496). -/
def execPptTerminate (tag : Nat) (s : State) : Host.Outcome State Fault Refusal :=
  .next (s.reply 3 tag fun s e => e.teams.foldl State.killByHost s)

/-! ### Empty pools (R508) -/

/-- TOPUP_REFILL (R496, R508): HAARG0 and HAARG1 are added to the pools. -/
def execTopupRefill (tag : Nat) (s : State) : Host.Outcome State Fault Refusal :=
  .next (s.reply 4 tag fun s e => s.refill e.key (s.reg 0x618).toNat (s.reg 0x620).toNat)

/-- TOPUP_LEAVE_PARKED (R496). -/
def execTopupLeaveParked (tag : Nat) (s : State) : Host.Outcome State Fault Refusal := .next (s.reply 4 tag fun s _ => s)

/-- TOPUP_TERMINATE (R496): every crew of the grid. -/
def execTopupTerminate (tag : Nat) (s : State) : Host.Outcome State Fault Refusal :=
  .next (s.reply 4 tag fun s e =>
    ((s.crews.filter fun p => decide (p.2.grid = e.key) && !p.2.exited).map Prod.fst).foldl (fun s k =>
      s.killCrew k 3 0xFF noTrap 0) s)

/-! ### A fenced core (R445, R516, R517) -/

/-- FENCE_PLACE (R496, R516). -/
def execFencePlace (tag : Nat) (s : State) : Host.Outcome State Fault Refusal :=
  .next (s.reply 5 tag fun s e => s.send .free (.crewPlace (clusterOfCore e.key)))

/-- FENCE_TERMINATE (R496): every clean crew of the event. -/
def execFenceTerminate (tag : Nat) (s : State) : Host.Outcome State Fault Refusal :=
  .next (s.reply 5 tag fun s e => e.teams.foldl State.killByHost s)

/-! ### An aborted collective (R514) -/

/-- COLLABT_SEND_ABORT (R496, R514). -/
def execCollabtSendAbort (tag : Nat) (s : State) : Host.Outcome State Fault Refusal :=
  .next (s.reply 6 tag fun s e => s.sendAbort e.key)

/-- COLLABT_SEND_NOTHING (R496). -/
def execCollabtSendNothing (tag : Nat) (s : State) : Host.Outcome State Fault Refusal := .next (s.reply 6 tag fun s _ => s)

end Sys2Proof.Machine
end

