-- ==== Sys2Proof/Machine/Bridge.lean ====
section
/-!
DEFINITION. The host link (05_memory R127, R142, 10_host_peers R256 to R261, 24_memory_failures R489, R490), the ports of
the peer fabric (R491, R514), and memory errors (R492 to R494).
-/
namespace Sys2Proof.Machine

/-! ### Answers from the host (R259 to R261) -/

/-- The atomic operations that an atomic request makes on host words: one for each word, or for each lane of ACAS (R119,
R260). -/
def atomUnits (q : HomeReq) : List (List LaneAcc) :=
  match q.op with
  | .atom .cas _ => q.accs.map fun a => [a]
  | _ => (dedupNat (q.accs.map LaneAcc.va)).map fun va => q.accs.filter fun a => decide (a.va = va)

/-- The operation of an atomic request. -/
def atomOpOf : HomeOp → AtomOp
  | .atom op _ => op
  | _ => .add

/-- Old values of the lanes of one atomic operation, and the word's new value, from its old value. -/
def unitResult (q : HomeReq) (n : Nat) (old : Word) : List (Nat × Nat) × Word :=
  atomLanes (atomOpOf q.op) old old none ((atomUnits q).getD n [])

/-- The request that a fill of a line was made for is answered without a fill; the others are looked at again. -/
def State.bridgeFinish (s : State) (q : HomeReq) (r : Instr) : State :=
  let lid := lineId q.ctx q.va
  match s.fills.find? fun p => decide (p.1 = lid) with
  | some (_, _ :: rest) =>
    let s : State := { s with fills := s.fills.filter fun p => decide (p.1 ≠ lid) }
    rest.foldl State.arrive (s.answer q r)
  | _ => s.answer q r

/-- One atomic operation of a request is done, or has failed: the next one, or the answer (R470). -/
def State.unitDone (s : State) (r : BridgeReq) (vals : List (Nat × Nat)) (bad : Option BadAccess) : State :=
  let r := { r with done := r.done + 1, vals := r.vals ++ vals, bad := if r.bad.isSome then r.bad else bad, tries := 0,
                    stage := if atomicOpPath (atomOpOf r.q.op) then 3 else 4 }
  if r.done < (atomUnits r.q).length then { s with bridge := s.bridge ++ [r] }
  else
    match r.vals, r.bad with
    | [], some b => s.translationFault r.q b
    | vals, bad => s.bridgeFinish r.q (.writerAck r.q vals bad)

/-- The answer of AtomicOp CAS in the loop of R261. -/
def State.casAnswer (s : State) (r : BridgeReq) (seen : Nat) : State :=
  if seen = r.old then s.unitDone r (unitResult r.q r.done (BitVec.ofNat 32 r.old)).1 none
  else
    let n := r.tries + 1
    let s := s.countPart (s.partOfCtx r.q.ctx) 10 1
    if n = (s.reg 0x18).toNat % 65536 then s.unitDone r [] (some ⟨0x0B, 3, 8, r.q.va⟩)
    else { s with bridge := s.bridge ++ [{ r with tries := n, old := seen }] }

/-- The leaf that a host entry of a 4 KiB table gives under the leaf that names the table (R127), or its fault. -/
def hostLeaf (q : HomeReq) (e : Nat) : Except BadAccess Leaf :=
  if !e.testBit 0 then .error ⟨0x0B, 3, 0, q.va⟩
  else if bitsOf e 52 12 ≠ 0 ∨ bitsOf e 3 2 ≠ 0 ∨ e.testBit 7 ∨ !e.testBit 6 ∨ !e.testBit 8 then .error ⟨0x0B, 3, 1, q.va⟩
  else
    let l : Leaf := { pa := bitsOf e 12 40 * 2 ^ 12 + q.va % 2 ^ 12, cls := bitsOf e 9 3, host := true, tbl := false,
                      rd := e.testBit 1, wr := e.testBit 2, ex := e.testBit 5 }
    match needFails (opNeed q.op) l.rd l.wr l.ex with
    | some k => .error ⟨0x0B, 3, k, q.va⟩
    | none => .ok l

/-- Send a half of the host-facing cache that differs from the host's back to the host. -/
def State.flushHalf (s : State) (h : Nat) : State :=
  let x := s.halfAt h
  if x.dirty then
    let cells := (List.range 64).map fun o => (64 * h + o, (lineByte (x.data.zeroExtend 1024) o).toNat)
    ({ s with halves := SMap.set {} s.halves h { x with dirty := false } }).hostSend 0 (64 * h) (64 * h / 128 * 128) cells x.poison
  else s

/-- Lines of host memory that home slices hold and that take in a half (R142). -/
def State.linesOfHalf (s : State) (h : Nat) : List Nat :=
  (s.l2.filter fun p => p.2.host && decide (p.2.pa / 128 = h / 2)).map Prod.fst

/-- The bridge gives up a half: its line leaves the device caches, and its data go back to the host (R142, R259). -/
def State.dropHalf (s : State) (h : Nat) : State :=
  let s := ((s.linesOfHalf h).foldl State.evictLine s).flushHalf h
  { s with halves := SMap.set {} s.halves h {} }

/-- The host-facing cache holds 131,072 halves (8 MiB); a full one gives up a half before it takes another (R259). -/
def State.roomHalf (s : State) : State :=
  if s.halves.length < 131072 then s
  else match s.halves[Config.victim (s.tick + 4) % s.halves.length]? with
    | some (h, _) => s.dropHalf h
    | none => s

/-- The bridge takes half `h` of a line with its data: exclusive where the request wants that (R142, R260). -/
def State.takeHalf (s : State) (r : BridgeReq) (h : Nat) (v : BitVec 512) : State :=
  let k := r.pa / 128 * 2 + h
  let s := if (s.halfAt k).state = 0 then s.roomHalf else s
  { s with halves := SMap.set {} s.halves k { state := if wantsOwn r.q then 2 else 1, data := v } }

/-- A request that the host could not answer: status 1 is Unsupported Request, Completer Abort, a time-out or a lost link,
status 2 is poison (R490), and status 3 an address that the bridge itself refuses (R469; which ones it refuses is left to the
event: DESIGN CHOICE, log entry 119). -/
def hostFault (q : HomeReq) (status : Nat) : BadAccess :=
  if status = 2 then ⟨0x0D, 3, 2, q.va⟩ else if status = 3 then ⟨0x0B, 3, 6, q.va⟩ else ⟨0x0B, 3, 0xA, q.va⟩

/-- A request to the host ends without its answer. -/
def State.bridgeFail (s : State) (r : BridgeReq) (status : Nat) : State :=
  let b := hostFault r.q status
  match r.stage with
  | 9 => s
  | 10 => s.send .free (.sharerAck hostAgent r.old r.q.ctx r.q.va none false)
  | 3 | 4 | 5 => if r.vals = [] then s.translationFault r.q b else s.bridgeFinish r.q (.writerAck r.q r.vals (some b))
  | _ => s.translationFault r.q b

/-- The host's answer to a request of the bridge. A request for a half brings its 64 bytes: they are kept with the half, but for a
line of the streaming class (R142, R259). A host entry grants no more than the leaf that names its table (R127, R523; DESIGN CHOICE,
log entry 45). -/
def State.bridgeAnswer (s : State) (r : BridgeReq) (bytes : List Nat) : State :=
  let v := leNat (bytes.map (BitVec.ofNat 8))
  match r.stage, r.fill with
  | 0, some d | 1, some d | 6, some d | 7, some d =>
    let x := BitVec.ofNat 512 v
    let s := if r.streams then s else s.takeHalf r r.done x
    s.bridgeNext { r with done := r.done + 1 } { d with data := setHalf d.data r.done x }
  | 2, _ => s.bridgeFinish r.q (.writerAck r.q [] none)
  | 3, _ => s.unitDone r (unitResult r.q r.done (BitVec.ofNat 32 v)).1 none
  | 4, _ => { s with bridge := s.bridge ++ [{ r with stage := 5, old := v % 2 ^ 32 }] }
  | 5, _ => s.casAnswer r (v % 2 ^ 32)
  | 8, d =>
    (match hostLeaf r.q v with
     | .error b => s.translationFault r.q b
     | .ok l => (match d with
       | some f => s.bridgeServe r.q { l with rd := l.rd && f.rd, wr := l.wr && f.wr, ex := l.ex && f.ex }
       | none => s.bridgeServe r.q l))
  | 10, _ => s.send .free (.sharerAck hostAgent r.old r.q.ctx r.q.va none false)
  | 11, _ => s.send .free (.translateRequest r.q)
  | _, _ => s

/-- HOST_COMPLETION (R258 to R261, R490): status 0 brings the bytes asked for. -/
def execHostCompletion (id status : Nat) (bytes : List Nat) (s : State) : Host.Outcome State Fault Refusal :=
  match s.bridge.find? fun r => decide (r.id = id) with
  | none => .next s
  | some r =>
    let s : State := { s with bridge := s.bridge.filter fun x => decide (x.id ≠ id) }
    .next (if status = 0 then s.bridgeAnswer r bytes else s.bridgeFail r status)

/-- HOST_COMPLETION_TIMEOUT (R490): nothing has come back within 10 ms. -/
def execHostCompletionTimeout (id : Nat) (s : State) : Host.Outcome State Fault Refusal :=
  match s.bridge.find? fun r => decide (r.id = id) with
  | none => .next s
  | some r => .next (({ s with bridge := s.bridge.filter fun x => decide (x.id ≠ id) } : State).bridgeFail r 1)

/-- LINK_DOWN (R490): every outstanding host-bound request fails, and so do those made while the link is down. -/
def execLinkDown (s : State) : Host.Outcome State Fault Refusal :=
  let rs := s.bridge
  .next (rs.foldl (fun s r => s.bridgeFail r 1) { s with linkUp := false, bridge := [], hostLines := [] })

/-- HOST_LINK_UP (R490). -/
def execHostLinkUp (s : State) : Host.Outcome State Fault Refusal := .next { s with linkUp := true }

/-- Is a request for half `h` on its way to the host (R141)? -/
def State.halfAsked (s : State) (h : Nat) : Bool :=
  s.bridge.any fun r => decide (r.stage = 0 ∨ r.stage = 6 ∨ r.stage = 7) && decide (r.pa / 128 * 2 + r.done = h)

/-- The bridge gives up, or shares, half `h` of a host line; its data go back to the host, and a line of which a half is lost
leaves L2 and L1 (R142). -/
def State.snooped (s : State) (h : Nat) (exclusive : Bool) : State :=
  if exclusive then s.dropHalf h
  else
    let s := ((s.linesOfHalf h).foldl State.writeBack s).flushHalf h
    { s with halves := SMap.set {} s.halves h { s.halfAt h with state := 1 } }

/-- HOST_SNOOP (R141, R142): `half` is a host address / 64. A request of the bridge for that half that is on its way is served
after it; where that request reached the host first, the step takes the snoop after it. -/
def execHostSnoop (half : Nat) (exclusive : Bool) (s : State) : Host.Outcome State Fault Refusal :=
  if (s.halfAt half).state = 0 then .next s else .next (s.snooped half exclusive)

/-! ### Accesses of the host to device memory (R256 to R258) -/

/-- The aperture that an address falls in: its context and the virtual address (R257). -/
def State.aperture (s : State) (pa : Nat) : Option (Nat × Nat) :=
  (List.range 256).findSome? fun i =>
    let off := 0x1000 + 32 * i
    let ctl := (s.reg off).toNat
    let base := bitsOf (s.reg (off + 8)).toNat 16 36 * 2 ^ 16
    let size := (s.reg (off + 0x18)).toNat / 2 ^ 16 * 2 ^ 16
    if ctl.testBit 63 ∧ base ≤ pa ∧ pa < base + size then
      some (ctl % 65536, canonOf (bitsOf (s.reg (off + 0x10)).toNat 16 41 * 2 ^ 16 + (pa - base)))
    else none

/-- Bytes of a host access. -/
def hostSize (r : HostReq) : Nat :=
  match r.write with
  | some bs => bs.length
  | none => r.len

/-- The device physical address that a host access reaches (R256). -/
def hostPa (r : HostReq) : Nat :=
  match r.target with
  | .memory d off => d * 2 ^ 40 + off
  | .bar0 off => off

/-- Does a host access of memory lie whole in a decoder's range (R256)? -/
def hostInRange (r : HostReq) : Bool :=
  match r.target with
  | .memory 0 off => decide (off + hostSize r ≤ 12 * 2 ^ 36)
  | .memory 1 off => decide (off + hostSize r ≤ 2 ^ 40)
  | _ => false

/-- The piece of a host access that lies in one line. -/
def hostPieceOf (r : HostReq) (p : Nat × Nat) : HostReq :=
  { r with
    target := match r.target with
      | .memory d off => .memory d (off + (p.1 - hostPa r))
      | t => t
    write := r.write.map fun bs => (bs.drop (p.1 - hostPa r)).take p.2
    len := p.2 }

/-- The request at a home slice of a piece that lies in an aperture (R258). -/
def hostReq (r : HostReq) (ctx va : Nat) : HomeReq :=
  match r.write with
  | none => ⟨.host r.tag, 0, ctx, va, .load r.len, [⟨0, va, 0, 0⟩]⟩
  | some bs => ⟨.host r.tag, 0, ctx, va, .store bs.length, [⟨0, va, leNat (bs.map (BitVec.ofNat 8)), 0⟩]⟩

/-- A piece of a host access outside every aperture, at the controller (R258); poisoned data return as an empty answer (R493). -/
def State.hostDirect (s : State) (r : HostReq) : State :=
  match r.write with
  | some bs =>
    let s := s.countUnit 2 (controllerOfPa (hostPa r)) 4 2 1
    { s.physWrite (hostPa r) (bs.map (BitVec.ofNat 8)) with hostOut := s.hostOut ++ [(r.tag, [])] }
  | none =>
    let s := s.countUnit 2 (controllerOfPa (hostPa r)) 4 1 1
    let bad := (List.range r.len).any fun i =>
      s.poison.contains ((hostPa r + i) / 32 * 2) || s.poison.contains ((hostPa r + i) / 32 * 2 + 1)
    { s with hostOut := s.hostOut ++ [(r.tag, if bad then [] else (s.dram.bytes (hostPa r) r.len).map BitVec.toNat)] }

/-- A piece of a host access: through the aperture that it lies in to the home slice, else to the controller (R258). -/
def State.hostPiece (s : State) (r : HostReq) : State :=
  match s.aperture (hostPa r) with
  | some (ctx, va) => s.request (hostReq r ctx va)
  | none => s.hostDirect r

/-- Does a host access outside the apertures touch a row that an accepted NMCMD writes (R180)? Then it waits for that row. -/
def State.hostHeld (s : State) (r : HostReq) : Bool :=
  !s.chans.isEmpty && hostInRange r && (linePieces (hostPa r) (hostSize r)).any fun p =>
    (s.aperture p.1).isNone && (s.rowHeld (.host r.tag) true p.1 || s.rowHeld (.host r.tag) false p.1)

/-! ### Peer ports (R491, R514) -/

/-- PEER_PORT_DOWN (R491, R514): packets in flight on the port fail, and the group of a step is aborted here and at every
peer. -/
def execPeerPortDown (port : Nat) (s : State) : Host.Outcome State Fault Refusal :=
  let lost := s.packets.filter fun p => p.accepted && decide (p.route.map Prod.fst = some port)
  let s : State := { s with portsDown := if s.portsDown.contains port then s.portsDown else port :: s.portsDown }
  let s := lost.foldl (fun s p =>
    (s.mapPacket p.id fun x =>
      { x with failed := if x.failed.isSome then x.failed else some ⟨8, 0, 2, 0⟩, waiting := false }).pokePacket p.id) s
  let steps := lost.filter fun p => decide (p.kind = 5)
  let groups := dedupNat (steps.map fun p => p.d 0 8)
  .next (groups.foldl (fun s g => ((s.enterAbort g).stopGroup g).tellPeers
    (((steps.find? fun p => decide (p.d 0 8 = g)).map Packet.ctx).getD 0) g) s)

/-- PEER_PORT_UP (R267). -/
def execPeerPortUp (port : Nat) (s : State) : Host.Outcome State Fault Refusal :=
  .next { s with portsDown := s.portsDown.filter (· ≠ port) }

/-! ### Memory errors (R492 to R494) -/

/-- CORRECTABLE_ERROR (R273, R492): corrected and counted. -/
def execCorrectableError (controller : Nat) (s : State) : Host.Outcome State Fault Refusal :=
  .next (s.countUnit 2 controller 4 6 1)

/-- An error in a sector of a held line: a dirty sector is poisoned, a clean line is dropped, and a clean sector of a dirty
line is read again (R492, R493). -/
def State.errorInL2 (s : State) (lid sector : Nat) : State :=
  match SMap.look s.l2 lid with
  | none => s
  | some x =>
    if x.dirty = 0 then s.dropLine lid
    else if (List.range 32).any fun j => x.dirty.getLsbD (32 * sector + j) then
      { s with l2 := SMap.put s.l2 lid { x with poison := x.poison ||| BitVec.ofNat 8 (3 * 2 ^ (2 * sector)) } }
    else s

/-- UNCORRECTABLE_ERROR (R492 to R494): `place` 0 is a 32-byte sector of device memory, 1 sector `key % 4` of the held line
`key / 4`, 2 accumulator `key % 16` of channel engine `key / 16`. -/
def execUncorrectableError (place key : Nat) (s : State) : Host.Outcome State Fault Refusal :=
  .next (match place with
    | 0 => { s with poison := s.poison ++ [2 * key, 2 * key + 1].filter fun h => !s.poison.contains h }
    | 1 => s.errorInL2 (key / 4) (key % 4)
    | 2 => s.mapEngine (key / 16) fun x => { x with poison := x.poison ||| BitVec.ofNat 16 (2 ^ (key % 16)) }
    | _ => s)

/-- UNIT_SRAM_ERROR (R494): the unit is reported and stops; a Drover engine's buffer fails the packet it poisons, and the
engine goes on. Of the other SRAMs, kind 8, `unit` 0 is the host bridge's, 1 to 28 a controller's, and 29 and above a channel
engine's (DESIGN CHOICE, log entry 117). -/
def execUnitSramError (die kind unit : Nat) (s : State) : Host.Outcome State Fault Refusal :=
  let s := s.heqPush 0x12 (if kind = 5 then unit % 4 else 0) 0 [(0x0C, die), (0x0D, kind), (0x0E, if kind = 0 ∨ 5 ≤ kind ∧ kind < 8 then unit else 0)]
  if kind = 6 then
    let ps := s.packets.filter fun p => decide (p.engine = unit) && p.accepted
    match ps[Config.victim (s.tick + 2) % ps.length]? with
    | some p => .next ((s.mapPacket p.id fun x =>
        { x with failed := if x.failed.isSome then x.failed else some ⟨0x0D, 0, 0, x.src⟩, waiting := false }).pokePacket p.id)
    | none => .next s
  else
    let key := (kind, if kind = 0 ∨ kind = 5 ∨ 7 ≤ kind then unit else die)
    .next { s with stopped := if s.stopped.contains key then s.stopped else key :: s.stopped }

end Sys2Proof.Machine
end

