-- ==== Sys2Proof/Machine/Lanes.lean ====
section
/-!
DEFINITION. Lane and special-register instructions, 0x68 to 0x74 (12_isa_compute R332 to R339; 03_state R74 to R85;
22_failure_model R433 to R435).
-/
namespace Sys2Proof.Machine

/-- A shuffle: the source lane `j` when it exists, else the lane itself (R333). -/
def shuffled (t : Team) (a : Reg) (l : Nat) (j : Int) : Word :=
  if 0 ≤ j ∧ j < t.lanes then t.rd a j.toNat else t.rd a l

/-- SHFL (R333). -/
def execShfl (d a b : Reg) (s : State) : Host.Outcome State Fault Refusal :=
  s.issue (.shfl d a b) fun s => s.result d fun t l => shuffled t a l ((t.rd b l).toNat : Int)

/-- SHFLUP (R333). -/
def execShflup (d a b : Reg) (s : State) : Host.Outcome State Fault Refusal :=
  s.issue (.shflup d a b) fun s => s.result d fun t l => shuffled t a l ((l : Int) - (t.rd b l).toNat)

/-- SHFLDN (R333). -/
def execShfldn (d a b : Reg) (s : State) : Host.Outcome State Fault Refusal :=
  s.issue (.shfldn d a b) fun s => s.result d fun t l => shuffled t a l ((l : Int) + (t.rd b l).toNat)

/-- SHFLX (R333). -/
def execShflx (d a b : Reg) (s : State) : Host.Outcome State Fault Refusal :=
  s.issue (.shflx d a b) fun s => s.result d fun t l => shuffled t a l ((l ^^^ (t.rd b l).toNat : Nat) : Int)

/-- BCAST (R333): SHFL with one source lane for all. -/
def execBcast (d a b : Reg) (s : State) : Host.Outcome State Fault Refusal :=
  s.issue (.bcast d a b) fun s => s.result d fun t l => shuffled t a l ((t.rd b 0).toNat : Int)

/-- RDFL (R334): the lowest active lane of a vector; a scalar is moved whatever the mask. -/
def execRdfl (d a : Reg) (s : State) : Host.Outcome State Fault Refusal :=
  s.issue (.rdfl d a) fun s => s.result d fun t _ =>
    if isVec a then (match t.actives with
      | [] => 0
      | f :: _ => t.rd a f)
    else t.rd a 0

/-- RDLANE (R335): lane s[B], active or not; 0 at or above TEAMLANES. -/
def execRdlane (d a b : Reg) (s : State) : Host.Outcome State Fault Refusal :=
  s.issue (.rdlane d a b) fun s => s.result d fun t _ =>
    if (t.rd b 0).toNat < t.lanes then t.rd a (t.rd b 0).toNat else 0

/-- WRLANE (R335): lane s[B] when it is active; in a handler whenever it exists (R440). -/
def execWrlane (d a b : Reg) (s : State) : Host.Outcome State Fault Refusal :=
  s.issue (.wrlane d a b) fun s =>
    (s.mapMe fun t =>
      let j := (t.rd b 0).toNat
      if j < t.lanes ∧ (t.trap.inHandler ∨ t.live.getLsbD j) then t.wrLanes d [j] (fun _ => t.rd a 0) else t).advance

/-- VOTE (R336): ANY, ALL or BALLOT over active lanes. -/
def execVote (d : Reg) (p : Fin 8) (pass : Fin 32) (op : Fin 4) (s : State) : Host.Outcome State Fault Refusal :=
  s.issue (.vote d p pass op) fun s => s.result d fun t l =>
    let k := t.maskOf fun x => t.live.getLsbD x && t.pred p.val x
    match op.val with
    | 0 => if k ≠ 0 then 1 else 0
    | 1 => if k = t.maskOf (fun x => t.live.getLsbD x) then 1 else 0
    | _ => if isVec d then maskWord k (l / 32) else maskWord k pass.val

/-- The operation of RED and SCAN (R337). -/
def redOp (t : Team) (op : Nat) (x y : Word) : Word :=
  match op with
  | 0 => addOp t.etype t.sat x y
  | 1 => minOp t.etype x y
  | 2 => maxOp t.etype x y
  | 3 => minuOp t.etype x y
  | 4 => maxuOp t.etype x y
  | 5 => x &&& y
  | 6 => x ||| y
  | 7 => x ^^^ y
  | 8 => perFlt t.etype (fun f a b _ => faddE f t.rnd t.ftz a b) x y 0
  | 9 => perFlt t.etype (fun f a b _ => fminE f t.ftz a b) x y 0
  | _ => perFlt t.etype (fun f a b _ => fmaxE f t.ftz a b) x y 0

/-- The identity of RED and SCAN (R337). -/
def redIdentity (t : Team) (op : Nat) : Word :=
  let h := intHalves t.etype
  match op with
  | 1 => if h then 0x7FFF7FFF else 0x7FFFFFFF
  | 2 => if h then 0x80008000 else 0x80000000
  | 3 => 0xFFFFFFFF
  | 5 => 0xFFFFFFFF
  | 9 => perFlt t.etype (fun f _ _ _ => f.infBits false) 0 0 0
  | 10 => perFlt t.etype (fun f _ _ _ => f.infBits true) 0 0 0
  | _ => 0

/-- Combine two values that may be absent (R117). -/
def joinOpt (f : Word → Word → Word) : Option Word → Option Word → Option Word
  | some x, some y => some (f x y)
  | some x, none => some x
  | none, y => y

/-- Node of the tree of R117: `2^j` lanes from lane `lo`. -/
def treeNode (f : Word → Word → Word) (leaf : Nat → Option Word) : Nat → Nat → Option Word
  | 0, lo => leaf lo
  | j + 1, lo => joinOpt f (treeNode f leaf j lo) (treeNode f leaf j (lo + 2 ^ j))

/-- The running value over the first `n` passes (R117). -/
def passesValue (f : Word → Word → Word) (leaf : Nat → Option Word) : Nat → Option Word
  | 0 => none
  | n + 1 => joinOpt f (passesValue f leaf n) (treeNode f leaf 5 (32 * n))

/-- The in-pass prefix over `cnt` lanes from `lo`, behind the blocks `acc` on its left: aligned blocks from the highest set bit of
`cnt`, combined from left to right (R118). Three or more blocks are folded from the left (DESIGN CHOICE, log entry 106). -/
def prefixBlocks (f : Word → Word → Word) (leaf : Nat → Option Word) : Nat → Option Word → Nat → Nat → Option Word
  | 0, acc, lo, cnt => if cnt = 0 then acc else joinOpt f acc (leaf lo)
  | j + 1, acc, lo, cnt =>
    if cnt ≥ 2 ^ (j + 1) then
      prefixBlocks f leaf j (joinOpt f acc (treeNode f leaf (j + 1) lo)) (lo + 2 ^ (j + 1)) (cnt - 2 ^ (j + 1))
    else prefixBlocks f leaf j acc lo cnt

/-- The inclusive value of lane `l` by steps 1 to 3 of R118. -/
def scanValue (f : Word → Word → Word) (leaf : Nat → Option Word) (l : Nat) : Option Word :=
  joinOpt f (passesValue f leaf (l / 32)) (prefixBlocks f leaf 5 none (l / 32 * 32) (l % 32 + 1))

/-- The leaves of a reduction: the values of active lanes. -/
def redLeaf (t : Team) (a : Reg) (l : Nat) : Option Word := if l < t.lanes ∧ t.live.getLsbD l then some (t.rd a l) else none

/-- RED (R337): the active lanes combined in the order of R117; the identity with none. -/
def execRed (d a : Reg) (op : Fin 16) (s : State) : Host.Outcome State Fault Refusal :=
  s.issue (.red d a op) fun s => s.result d fun t _ =>
    (passesValue (redOp t op.val) (redLeaf t a) t.passes).getD (redIdentity t op.val)

/-- The inclusive value that active lane `l` receives: at the highest active lane the in-pass prefix is the root of R117, so that
it equals the result of RED (R118; DESIGN CHOICE, log entry 106, where the blocks folded from the left differ from the root). -/
def Team.scanLane (t : Team) (a : Reg) (op l : Nat) : Word :=
  let f := redOp t op
  let leaf := redLeaf t a
  (if t.actives.getLast? = some l then passesValue f leaf (l / 32 + 1) else scanValue f leaf l).getD (redIdentity t op)

/-- SCAN (R338): inclusive prefix, or with EXCL the inclusive value of the next lower active lane. -/
def execScan (d a : Reg) (excl : Bool) (op : Fin 16) (s : State) : Host.Outcome State Fault Refusal :=
  s.issue (.scan d a excl op) fun s => s.result d fun t l =>
    if excl then
      (match (t.actives.filter (· < l)).getLast? with
       | none => redIdentity t op.val
       | some k => t.scanLane a op.val k)
    else t.scanLane a op.val l

/-! ### Special registers (R74) -/

/-- A pin slot's two words (R85). -/
def pinWord (p : PinSlot) (hi : Bool) : Word :=
  if hi then BitVec.ofNat 32 ((if p.valid then 2 ^ 31 else 0) + (p.name.toNat / 2 ^ 32)) else p.name.setWidth 32

/-- A special register as lane `l` reads it (R74, R433). -/
def State.special (s : State) (sr l : Nat) : Word :=
  let t := s.me
  let c := s.myCrew
  let n32 := fun (x : Nat) => BitVec.ofNat 32 x
  match sr with
  | 0x00 => n32 l
  | 0x01 => n32 t.idx
  | 0x02 => n32 c.num
  | 0x03 => n32 c.grid
  | 0x04 => n32 t.lanes
  | 0x05 => n32 c.teams
  | 0x06 => n32 s.myGrid.launch.crews
  | 0x07 => n32 s.myGrid.depth
  | 0x08 => n32 t.role
  | 0x09 => t.mode.zeroExtend 32
  | 0x0A => BitVec.ofInt 32 t.ibud
  | 0x0B => BitVec.ofInt 32 t.mbud
  | 0x0C => t.contpc
  | 0x0D => t.gang
  | 0x0E => n32 t.accBase
  | 0x0F => n32 t.accLim
  | 0x10 => (SMap.get 0 t.sinkSite l).zeroExtend 32
  | 0x11 => summaryWord t.mask
  | 0x12 => n32 c.core
  | 0x13 => n32 (s.partOfCluster (clusterOfCore c.core))
  | 0x14 => n32 s.clk
  | 0x15 => t.clockh
  | 0x16 => t.batchNext
  | 0x17 => t.batchDone
  | 0x20 => t.trap.tcause
  | 0x21 => t.trap.tpc
  | 0x22 => t.trap.tnpc
  | 0x23 => t.trap.tinfo0
  | 0x24 => t.trap.tinfo1
  | 0x25 => t.trap.tskid
  | 0x26 => t.trap.tvbase
  | 0x27 => t.trap.mrow
  | 0x28 => n32 ((if t.trap.inHandler then 1 else 0) + (if s.supervisor then 2 else 0))
  | 0x29 => t.trap.tmode.zeroExtend 32
  | 0x2A => t.trap.tlsel.zeroExtend 32
  | 0x2B => maskWord t.trap.restart t.trap.tlsel.toNat
  | 0x2C => t.trap.tscr0
  | 0x2D => t.trap.tscr1
  | 0x2E => t.trap.tscr2
  | 0x2F => t.trap.tscr3
  | _ => if sr < 0x20 then pinWord (SMap.get default t.pins ((sr - 0x18) / 2)) (decide (sr % 2 = 1)) else 0

/-- Replace word `k` of a mask. -/
def setMaskWord (m : LaneMask) (k : Nat) (w : Word) : LaneMask :=
  (m &&& ~~~(BitVec.ofNat 1024 ((2 ^ 32 - 1) * 2 ^ (32 * k)))) ||| BitVec.ofNat 1024 (w.toNat * 2 ^ (32 * k))

/-- Write a special register; registers marked RO or HW keep their value (R75, R433). A handler may only clear bits of
the restart set (R438). -/
def Team.writeSpecial (t : Team) (sr : Nat) (w : Word) : Team :=
  let tr := t.trap
  match sr with
  | 0x09 => { t with mode := w.setWidth 16 }
  | 0x0C => { t with contpc := w &&& ~~~2 }
  | 0x22 => { t with trap := { tr with tnpc := w } }
  | 0x26 => { t with trap := { tr with tvbase := w &&& ~~~2 } }
  | 0x27 => { t with trap := { tr with mrow := w &&& 0x800003FF } }
  | 0x29 => { t with trap := { tr with tmode := w.setWidth 16 } }
  | 0x2A => { t with trap := { tr with tlsel := w.setWidth 5 } }
  | 0x2B => { t with trap := { tr with restart := setMaskWord tr.restart tr.tlsel.toNat (w &&& maskWord tr.restart tr.tlsel.toNat) } }
  | 0x2C => { t with trap := { tr with tscr0 := w } }
  | 0x2D => { t with trap := { tr with tscr1 := w } }
  | 0x2E => { t with trap := { tr with tscr2 := w } }
  | 0x2F => { t with trap := { tr with tscr3 := w } }
  | _ => t

/-- Is a MODE value one that SETMODE refuses (R73)? -/
def badMode (m : Nat) : Bool := decide (m / 32 % 8 > 4 ∨ m / 2048 % 8 = 7)

/-- The privilege check of MOVSR and MOVRS (R434, R451): outside a handler and without privilege, only reading TSTAT
and TVBASE and writing TVBASE. -/
def specialPriv (s : State) (sr : Nat) (write : Bool) : Option TrapRec :=
  if 0x20 ≤ sr ∧ sr ≤ 0x2F ∧ !s.me.trap.inHandler ∧ !s.supervisor ∧
      ¬ (sr = 0x26 ∨ (sr = 0x28 ∧ !write)) then
    some (preciseTrap 9 0 sr 0)
  else none

/-- MOVSR (R75, R76, R339): a scalar special is broadcast to a vector; reading CLOCK latches CLOCKH (R78). -/
def execMovsr (d : Reg) (sr : BitVec 8) (s : State) : Host.Outcome State Fault Refusal :=
  s.issueIf (.movsr d sr) (fun s => specialPriv s sr.toNat false) fun s =>
    let v := fun l => s.special sr.toNat l
    (s.mapMe fun t =>
      let t' := t.wrLanes d t.actives v
      if sr = 0x14 then { t' with clockh := BitVec.ofNat 32 (s.clk / 2 ^ 32) } else t').advance

/-- MOVRS (R75, R339): a reserved MODE value is refused as by SETMODE (R73). -/
def execMovrs (sr : BitVec 8) (a : Reg) (s : State) : Host.Outcome State Fault Refusal :=
  s.issueIf (.movrs sr a)
    (fun s => if sr = 0x09 ∧ badMode ((s.me.rd a 0).toNat % 65536) then some (preciseTrap 1 2 (wordOf (.movrs sr a)) 0)
      else specialPriv s sr.toNat true)
    fun s => (s.mapMe fun t => t.writeSpecial sr.toNat (t.rd a 0)).advance

end Sys2Proof.Machine
end

