-- ==== Sys2Proof/Machine/Sha.lean ====
section
/-!
DEFINITION. SHA-256 and LMS signatures, which boot and attestation use (01_device R34, 10_host_peers R268, R269). The
functions themselves are those of FIPS 180-4 and RFC 8554, which the spec names and does not print: PRESUMED, log entry 60.
-/
namespace Sys2Proof.Machine

/-! ### Bytes, the highest first -/

/-- The `n` bytes of a number, highest first. -/
def beBytes (n x : Nat) : List Byte := (leBytes n x).reverse

/-- The number that bytes give, highest first. -/
def beNat (l : List Byte) : Nat := leNat l.reverse

/-! ### SHA-256 -/

/-- Bits `n - 1` to 0 of the `k`-th root of `x` are settled, the highest first; `r` holds those above. -/
def rootBits (k x : Nat) : Nat → Nat → Nat
  | 0, r => r
  | n + 1, r => rootBits k x n (if (r + 2 ^ n) ^ k ≤ x then r + 2 ^ n else r)

/-- The first 32 fraction bits of the `k`-th root of a number below 2⁹. -/
def rootFraction (k p : Nat) : Word := BitVec.ofNat 32 (rootBits k (p * 2 ^ (32 * k)) 37 0)

/-- The 64 primes below 312. -/
def shaPrimes : List Nat := (List.range 312).filter fun n => decide (2 ≤ n) && (List.range 18).all fun d => d < 2 || n ≤ d || n % d ≠ 0

/-- The round constants: cube roots of the primes. -/
def roundConstants : List Word := shaPrimes.map (rootFraction 3)

/-- The words a hash starts from: square roots of the first eight primes. -/
def startWords : List Word := (shaPrimes.take 8).map (rootFraction 2)

/-- A word XORed with itself moved: two rotations, and a last one or, for `shift`, a shift. -/
def mixWord (shift : Bool) (p q r : Nat) (x : Word) : Word :=
  x.rotateRight p ^^^ x.rotateRight q ^^^ (if shift then x >>> r else x.rotateRight r)

/-- The message schedule is a window of 16 words, the oldest first; a round consumes the oldest, and the next word is put
behind. `v` are the eight working words. -/
def hashRounds : List Word → List Word → List Word → List Word
  | [], _, v => v
  | k :: ks, w, v =>
    let at' := fun i => v.getD i 0
    let add := at' 7 + mixWord false 6 11 25 (at' 4) + (at' 6 ^^^ (at' 4 &&& (at' 5 ^^^ at' 6))) + k + w.headD 0
    let most := (at' 0 &&& (at' 1 ||| at' 2)) ||| (at' 1 &&& at' 2)
    let next := w.headD 0 + mixWord true 7 18 3 (w.getD 1 0) + w.getD 9 0 + mixWord true 17 19 10 (w.getD 14 0)
    hashRounds ks (w.drop 1 ++ [next])
      ((add + mixWord false 2 13 22 (at' 0) + most) :: v.take 3 ++ (at' 3 + add) :: (v.drop 4).take 3)

/-- One block of 64 bytes. -/
def hashBlock (v : List Word) (l : List Byte) : List Word :=
  let w := (List.range 16).map fun i => BitVec.ofNat 32 (beNat ((l.drop (4 * i)).take 4))
  v.zipWith (· + ·) (hashRounds roundConstants w v)

/-- Blocks of a padded message. -/
def hashBlocks : Nat → List Word → List Byte → List Word
  | 0, v, _ => v
  | n + 1, v, l => hashBlocks n (hashBlock v l) (l.drop 64)

/-- A message with its padding: a one bit, zeros, and its length in bits. -/
def padded (m : List Byte) : List Byte :=
  m ++ 0x80 :: List.replicate ((119 - m.length % 64) % 64) 0 ++ beBytes 8 (8 * m.length)

/-- SHA-256 of a message: its 32 bytes as a number, the first byte lowest. -/
def sha256 (m : List Byte) : BitVec 256 :=
  let l := padded m
  BitVec.ofNat 256 (leNat ((hashBlocks (l.length / 64) startWords l).flatMap fun w => beBytes 4 w.toNat))

/-- The bytes of a digest. -/
def digestBytes (d : BitVec 256) : List Byte := leBytes 32 d.toNat

/-- The digest that stands at byte `o` of a list of bytes. -/
def digestAt (l : List Byte) (o : Nat) : BitVec 256 := BitVec.ofNat 256 (leNat ((l.drop o).take 32))

/-! ### LMS (RFC 8554) -/

/-- Bits of a digit of an LM-OTS type that is accepted: W4 or W8 (R268). -/
def otsWidth : Nat → Option Nat
  | 3 => some 4
  | 4 => some 8
  | _ => none

/-- Height of the tree of an LMS type that is accepted: H10 to H25 (R268). -/
def lmsHeight : Nat → Option Nat
  | 6 => some 10
  | 7 => some 15
  | 8 => some 20
  | 9 => some 25
  | _ => none

/-- A hash under the identifier `id` of a key: a number, a two-byte mark, and a message. -/
def lmsHash (id : List Byte) (n mark : Nat) (m : List Byte) : BitVec 256 := sha256 (id ++ beBytes 4 n ++ beBytes 2 mark ++ m)

/-- Digits of `w` bits (4 or 8), the highest first. -/
def digitsOf (w : Nat) (l : List Byte) : List Nat :=
  if w = 8 then l.map BitVec.toNat else l.flatMap fun b => [b.toNat / 16, b.toNat % 16]

/-- The digits that an LM-OTS signature of a digest shows: those of the digest, and of its checksum. -/
def otsDigits (w : Nat) (d : BitVec 256) : List Nat :=
  let ds := digitsOf w (digestBytes d)
  let sum := ds.foldl (fun n x => n + (2 ^ w - 1 - x)) 0
  ds ++ if w = 8 then digitsOf 8 (beBytes 2 sum) else (digitsOf 4 (beBytes 2 (16 * sum))).take 3

/-- Digits, and so chains, of an LM-OTS signature. -/
def otsChains (w : Nat) : Nat := if w = 8 then 34 else 67

/-- `n` links of chain `i` of the key of leaf `q`, from link `j` on. -/
def otsChain (id : List Byte) (q i : Nat) : Nat → Nat → BitVec 256 → BitVec 256
  | 0, _, x => x
  | n + 1, j, x =>
    otsChain id q i n (j + 1) (sha256 (id ++ beBytes 4 q ++ beBytes 2 i ++ [BitVec.ofNat 8 j] ++ digestBytes x))

/-- The digits that sign a message at leaf `q` with randomizer `c`. -/
def messageDigits (id : List Byte) (q w : Nat) (c : BitVec 256) (m : List Byte) : List Nat :=
  otsDigits w (lmsHash id q 0x8181 (digestBytes c ++ m))

/-- The LM-OTS public key that a signature leads to; `y` gives its chain values. -/
def otsCandidate (id : List Byte) (q w : Nat) (c : BitVec 256) (y : Nat → BitVec 256) (m : List Byte) : BitVec 256 :=
  lmsHash id q 0x8080 (((messageDigits id q w c m).mapIdx fun i a =>
    digestBytes (otsChain id q i (2 ^ w - 1 - a) a (y i))).flatMap fun z => z)

/-- From a node of the tree to the root along a path. -/
def climb (id : List Byte) : List (BitVec 256) → Nat → BitVec 256 → BitVec 256
  | [], _, x => x
  | p :: r, n, x =>
    climb id r (n / 2) (lmsHash id (n / 2) 0x8383
      (if n % 2 = 1 then digestBytes p ++ digestBytes x else digestBytes x ++ digestBytes p))

/-- The root that a signature of a message leads to. -/
def lmsRoot (id : List Byte) (w h : Nat) (sig m : List Byte) : BitVec 256 :=
  let q := beNat (sig.take 4)
  let kc := otsCandidate id q w (digestAt sig 8) (fun i => digestAt sig (40 + 32 * i)) m
  climb id ((List.range h).map fun i => digestAt sig (44 + 32 * otsChains w + 32 * i)) (2 ^ h + q)
    (lmsHash id (2 ^ h + q) 0x8282 (digestBytes kc))

/-- The LMS and LM-OTS types of a public key, and of a signature. -/
def keyTypes (key : List Byte) : Nat × Nat := (beNat (key.take 4), beNat ((key.drop 4).take 4))

def sigTypes (w : Nat) (sig : List Byte) : Nat × Nat :=
  (beNat ((sig.drop (40 + 32 * otsChains w)).take 4), beNat ((sig.drop 4).take 4))

/-- Are the types of a key accepted (R268)? -/
def typesOk (key : List Byte) : Bool := (lmsHeight (keyTypes key).1).isSome && (otsWidth (keyTypes key).2).isSome

/-- Does a signature of a message verify under a public key? -/
def lmsVerifies (key sig m : List Byte) : Bool :=
  match lmsHeight (keyTypes key).1, otsWidth (keyTypes key).2 with
  | some h, some w =>
    decide (key.length = 56 ∧ sig.length = 44 + 32 * otsChains w + 32 * h ∧ sigTypes w sig = keyTypes key ∧
      beNat (sig.take 4) < 2 ^ h) &&
      decide (lmsRoot ((key.drop 8).take 16) w h sig m = digestAt key 24)
  | _, _ => false

/-- The LM-OTS public key of a leaf with W8, from the secrets of its chains. -/
def otsPublic (id : List Byte) (q : Nat) (x : Nat → BitVec 256) : BitVec 256 :=
  lmsHash id q 0x8080 ((List.range 34).flatMap fun i => digestBytes (otsChain id q i 255 0 (x i)))

/-- Node `r` of a tree of height 15, which stands `h` levels above the leaves, from the secrets of the leaves. -/
def lmsNode (id : List Byte) (secret : Nat → Nat → BitVec 256) : Nat → Nat → BitVec 256
  | 0, r => lmsHash id r 0x8282 (digestBytes (otsPublic id (r - 2 ^ 15) (secret (r - 2 ^ 15))))
  | h + 1, r =>
    lmsHash id r 0x8383 (digestBytes (lmsNode id secret h (2 * r)) ++ digestBytes (lmsNode id secret h (2 * r + 1)))

/-- The node beside the way from leaf `q` to the root, at level `i`. -/
def lmsPath (id : List Byte) (secret : Nat → Nat → BitVec 256) (q i : Nat) : BitVec 256 :=
  let r := (2 ^ 15 + q) / 2 ^ i
  lmsNode id secret i (if r % 2 = 1 then r - 1 else r + 1)

/-- The signature of a message at leaf `q` of a tree of height 15 with W8 (R269); `x` gives the secret of each chain, `path`
the nodes beside the way to the root. -/
def lmsSign (id : List Byte) (q : Nat) (c : BitVec 256) (x path : Nat → BitVec 256) (m : List Byte) : List Byte :=
  beBytes 4 q ++ beBytes 4 4 ++ digestBytes c ++
    (((messageDigits id q 8 c m).mapIdx fun i a => digestBytes (otsChain id q i a 0 (x i))).flatMap fun y => y) ++
    beBytes 4 7 ++ (List.range 15).flatMap fun i => digestBytes (path i)

end Sys2Proof.Machine
end

