-- ==== Sys2Proof/Machine/Manage.lean ====
section
/-!
DEFINITION. Management of the device: the host event queue (10_host_peers R271), partitions (01_device R32), translation
invalidation (R129, R263), remap filters (R265), killing a context (25_scheduling_failures R514), fencing a core
(22_failure_model R445, R446), thermal action (01_device R36), boot and attestation (10_host_peers R268, R269).
-/
namespace Sys2Proof.Machine

/-! ### The host event queue (R271) -/

/-- HEQ_RETRY (R204, R271, R481): the first packet that waits is appended, in the supervisor context of partition 0 (R272); a
failure record ends its packet or its NMCMD. -/
def execHeqRetry (s : State) : Host.Outcome State Fault Refusal :=
  match s.heq with
  | [] => .next s
  | pkt :: _ =>
    if !(s.reg 0x108).getLsbD 63 then .next s
    else
      match s.append 0 (canonOf (bitsOf (s.reg 0x108).toNat 8 49 * 256)) s.heqSlot pkt with
      | .done s =>
        let s := ({ s with heq := s.heq.drop 1, heqSlot := none } : State).poke .heqRetry
        .next (match s.recordEnds with
          | x :: r => if bitsOf pkt.toNat 64 8 = 0x11 then ({ s with recordEnds := r } : State).recordEnd x else s
          | [] => s)
      | .full s i => .next { s with heqSlot := some i }
      | .failed s _ slot => .next { s with heqSlot := slot }

/-! ### Partitions (R32, R263) -/

/-- Does a cluster hold resident work: a team on one of its cores, or local memory, rows or matrix operations of a crew whose
teams are saved? -/
def State.clusterBusy (s : State) (c : Nat) : Bool :=
  s.crews.any fun p => decide (clusterOfCore p.2.core = c) && !p.2.exited && decide (s.teamsOfCrew p.1 ≠ []) &&
    (!s.regionFree p.1 || (!p.2.taken && decide (0 < p.2.localBytes + p.2.accRows)))

/-- The fields of a partition map that take effect: those of clusters without resident work. -/
def State.partmapValue (s : State) (index : Bool) (v : BitVec 64) : BitVec 64 :=
  let old := s.reg (if index then 0x208 else 0x200)
  BitVec.ofNat 64 ((List.range 32).foldl (fun acc i =>
    acc + bitsOf (if s.clusterBusy ((if index then 32 else 0) + i) then old else v).toNat (2 * i) 2 * 2 ^ (2 * i)) 0)

/-- Write a partition map (R32): unstarted blocks, task groups and saved crews of a cluster that changes its partition go to
clusters of the old one. -/
def State.writePartmap (s : State) (index : Bool) (v : BitVec 64) : State :=
  let clusters := (List.range 32).map fun i => (if index then 32 else 0) + i
  let old := clusters.map fun c => (c, s.partOfCluster c)
  let s := s.setReg (if index then 0x208 else 0x200) (s.partmapValue index v)
  let moved := old.filter fun p => decide (s.partOfCluster p.1 ≠ p.2)
  let s := (List.range 64).foldl (fun s c => ([0, 1, 2, 3] : List Nat).foldl (fun s p =>
    let here := (s.clusterAt c).ccbs.any (fun b => decide ((s.gridAt b.grid).part = p)) ||
      (s.clusterAt c).groups.any (fun g => decide ((s.gridAt g.grid).part = p)) ||
      s.crews.any fun x => decide (clusterOfCore x.2.core = c ∧ (s.gridAt x.2.grid).part = p)
    if p ≠ s.partOfCluster c && here then s.handOn c p else s) s) s
  (moved.map Prod.fst).foldl (fun s c => (s.deal (s.partOfCluster c)).send .free (.crewPlace c)) s

/-- PARTMAP_WRITE (R32). -/
def execPartmapWrite (index : Bool) (value : BitVec 64) (s : State) : Host.Outcome State Fault Refusal :=
  .next (s.writePartmap index value)

/-! ### Translation invalidation (R129, R263, R523) -/

/-- A translation of the context that is on its way is made again. -/
def retranslate (ctx : Nat) (p : Pending) : Pending :=
  match p.ev with
  | .homeFillComplete q (.filled d) =>
    if q.ctx = ctx then { p with ev := .translateRequest q } else { p with ev := .homeFillComplete q (.filled d) }
  | .loadReply q vals (some d) u bad =>
    if q.ctx = ctx then { p with ev := .loadReply q vals none u bad } else { p with ev := .loadReply q vals (some d) u bad }
  | _ => p

/-- A host fill, or the read of a host table entry, that is on its way for a context is to be translated again (R523). -/
def reask (ctx : Nat) (r : BridgeReq) : BridgeReq :=
  if r.q.ctx ≠ ctx then r
  else if r.stage = 0 then { r with stage := 7 }
  else if r.stage = 8 then { r with stage := 11 }
  else r

/-- Every translation of a context is forgotten, and every permission recorded on its lines (R129, R523). -/
def State.invalidateContext (s : State) (ctx : Nat) : State :=
  let home := fun (p : Nat × L2Line) =>
    if lineCtx p.1 = ctx then (p.1, { p.2 with rd := false, wr := false, ex := false }) else p
  let near := fun (p : Nat × L1Line) => if lineCtx p.1 = ctx then (p.1, { p.2 with rd := false, wr := false }) else p
  let core := fun (c : CoreState) =>
    { c with l1 := c.l1.map near, icache := c.icache.filter fun p => decide (lineCtx p.1 ≠ ctx) }
  { s with tlb := s.tlb.filter (fun p => decide (p.1 ≠ ctx)), l2 := s.l2.map home,
           cores := s.cores.map (fun p => (p.1, core p.2)), agenda := s.agenda.map (retranslate ctx),
           bridge := s.bridge.map (reask ctx) }

/-- Write TLBINV (R263): with GO, the invalidation of CONTEXT, after which DONE is set. -/
def State.writeTlbinv (s : State) (v : BitVec 64) : State :=
  let ctx := v.toNat % 65536
  if v.getLsbD 63 then (s.invalidateContext ctx).setReg 0x308 (BitVec.ofNat 64 (ctx + 2 ^ 62))
  else s.setReg 0x308 (BitVec.ofNat 64 (ctx + (if (s.reg 0x308).getLsbD 62 then 2 ^ 62 else 0)))

/-- TLBINV (R129, R263, R523). -/
def execTlbinv (value : BitVec 64) (s : State) : Host.Outcome State Fault Refusal := .next (s.writeTlbinv value)

/-! ### Remap filters (R130, R265) -/

/-- An entry from REMAPDATA0 and REMAPDATA1. -/
def remapEntry (d0 d1 : Nat) : RemapEntry :=
  { valid := d0.testBit 63, big := d0.testBit 62, aliasPage := bitsOf d0 16 41, actx := d0 % 65536,
    primPage := bitsOf d1 16 41, pctx := d1 % 65536 }

/-- REMAPDATA0 and REMAPDATA1 from an entry. -/
def remapData (e : RemapEntry) : Nat × Nat :=
  (e.actx + e.aliasPage * 2 ^ 16 + (if e.big then 2 ^ 62 else 0) + (if e.valid then 2 ^ 63 else 0),
   e.pctx + e.primPage * 2 ^ 16)

/-- Read an entry into the data registers. -/
def State.remapRead (s : State) (v : BitVec 64) : State :=
  let e := remapData (SMap.get default (s.coreAt (bitsOf v.toNat 12 8)).remap (v.toNat % 4096))
  (s.setReg 0x508 (BitVec.ofNat 64 e.1)).setReg 0x510 (BitVec.ofNat 64 e.2)

/-- Write an entry of the filters of some cores from the data registers. -/
def State.remapWrite (s : State) (cores : List Nat) (v : BitVec 64) : State :=
  let e := remapEntry (s.reg 0x508).toNat (s.reg 0x510).toNat
  cores.foldl (fun s c => s.mapCore c fun x => { x with remap := SMap.set default x.remap (v.toNat % 4096) e }) s

/-- Write REMAPIDX (R265). -/
def State.writeRemap (s : State) (v : BitVec 64) : State :=
  if !v.getLsbD 63 then s
  else if !v.getLsbD 62 then s.remapRead v
  else if v.getLsbD 61 then s.remapWrite (List.range 256) v
  else s.remapWrite [bitsOf v.toNat 12 8] v

/-- REMAP_READ (R265). -/
def execRemapRead (value : BitVec 64) (s : State) : Host.Outcome State Fault Refusal := .next (s.writeRemap value)
/-- REMAP_WRITE (R265). -/
def execRemapWrite (value : BitVec 64) (s : State) : Host.Outcome State Fault Refusal := .next (s.writeRemap value)
/-- REMAP_WRITE_ALL (R265). -/
def execRemapWriteAll (value : BitVec 64) (s : State) : Host.Outcome State Fault Refusal := .next (s.writeRemap value)

/-! ### Killing a context (R514) -/

/-- Discard what has not started of a context: records handed over, blocks, task groups, donated work on its way. -/
def State.discardUnstarted (s : State) (ctx : Nat) : State :=
  let mine := fun (h : Nat) => decide ((s.gridAt h).ctx = ctx)
  let blocks := fun (c : Cluster) =>
    { c with ccbs := c.ccbs.filter (fun b => !mine b.grid), groups := c.groups.filter fun g => !mine g.grid }
  let gift := fun (p : Pending) => match p.ev with
    | .stealReply thief ⟨crews, group⟩ =>
      { p with ev := .stealReply thief ⟨crews.filter (fun b => !mine b.1), group.filter fun g => !mine g.1⟩ }
    | _ => p
  { s with launches := s.launches.filter (fun p => decide (p.2.ctx ≠ ctx)),
           singles := s.singles.filter (fun w => decide (w.ctx ≠ ctx)),
           clusters := s.clusters.map (fun p => (p.1, blocks p.2)), agenda := s.agenda.map gift }

/-- Does a channel engine hold the submission of a packet in a place? -/
def State.placed (s : State) (pid : Nat) : Bool := s.chans.any fun x => x.2.subs.any fun b => decide (b.pid = some pid)

/-- The context's packets stop at an element boundary; those not accepted are dropped. A submission that an engine has taken
ends first. -/
def State.stopPackets (s : State) (ctx : Nat) : State :=
  (s.packets.filter fun p => decide (p.ctx = ctx)).foldl (fun s p =>
    if p.accepted then
      (s.mapPacket p.id fun x => { x with stop := true, started := true, waiting := s.placed p.id }).pokePacket p.id
    else s.removePacket p) s

/-- The context's submissions end at a command boundary, with no failure record. -/
def State.stopEngines (s : State) (ctx : Nat) : State :=
  s.chans.foldl (fun s p =>
    let e := p.1
    let parked := s.escs.any fun x => (x.engines.map Prod.fst).contains e
    let head := match p.2.subs.head? with
      | some b => decide (b.ctx = ctx)
      | none => false
    let stopped := fun (b : Submission) => if b.ctx = ctx then { b with taken := true, failed := some default } else b
    let s := s.mapEngine e fun x =>
      { x with queue := x.queue.filter (fun b => decide (b.ctx ≠ ctx)), subs := x.subs.map stopped,
               waiting := x.waiting && !(head && parked) }
    s.nmNext e) s

/-- Grids and instances of the context are forgotten: a GWAIT on one of them returns at once (R371, R514). -/
def State.dropWork (s : State) (ctx : Nat) : State :=
  let insts := (s.insts.filter fun p => decide (p.2.ctx = ctx)).map fun p => (p.1, p.2)
  let s := insts.foldl (fun s p =>
    let s := s.pptDrop (pinEntry (blockName p.2.block) ctx p.1 true 0)
    ({ s with insts := SMap.drop s.insts p.1 } : State).rescanFor (blockName p.2.block)) s
  ((s.grids.filter fun p => decide (p.2.ctx = ctx)).map Prod.fst).foldl State.dropGrid s

/-- Steps 1 to 3 of a kill (R514): queues are left alone, crews are terminated, grids and instances forgotten, packets and
submissions stopped. -/
def State.beginKill (s : State) (ctx : Nat) : State :=
  let s : State := { s with killed := if s.killed.contains ctx then s.killed else ctx :: s.killed }
  let steps := s.packets.filter fun p => decide (p.ctx = ctx ∧ p.kind = 5) && p.desc.isSome
  let groups := dedupNat (steps.map fun p => p.d 0 8)
  let mine := s.teams.filter fun p => decide (s.ctxOf p.2 = ctx)
  let locks := mine.flatMap fun p => (p.2.holdings.filter fun h => h.isLock && !h.released).map Holding.va
  let crews := (s.crews.filter fun p => decide (p.2.ctx = ctx) && !p.2.exited).map Prod.fst
  let s := crews.foldl (fun s k => s.killCrew k 3 0xFF noTrap 0) (s.discardUnstarted ctx)
  let s := ((s.dropWork ctx).stopPackets ctx).stopEngines ctx
  { s with kills := s.kills ++ [(ctx, groups, locks)] }

/-- KILL A CONTEXT, step by step (R514). A kill that is under way goes on. -/
def State.killContext (s : State) (ctx : Nat) : State :=
  if s.kills.any fun x => decide (x.1 = ctx) then s.endKill ctx
  else ((s.setReg 0x660 (BitVec.ofNat 64 ctx)).beginKill ctx).endKill ctx

/-- Write CTXKILL (R514). -/
def State.writeCtxkill (s : State) (v : BitVec 64) : State :=
  let ctx := v.toNat % 65536
  if v.getLsbD 63 then s.killContext ctx
  else s.setReg 0x660 (BitVec.ofNat 64 (ctx + (if (s.reg 0x660).getLsbD 62 then 2 ^ 62 else 0)))

/-- CTXKILL (R514). -/
def execCtxkill (value : BitVec 64) (s : State) : Host.Outcome State Fault Refusal := .next (s.writeCtxkill value)

/-- ABTCLR (R515): the entry of a group leaves the abort filter. -/
def execAbtclr (value : BitVec 64) (s : State) : Host.Outcome State Fault Refusal :=
  .next { s with aborts := s.aborts.filter (· ≠ value.toNat) }

/-! ### Fenced cores and hot dies (R36, R445) -/

/-- A team is struck, yields unless it has already, and is to be saved, though its core issues no more. -/
def State.forceSave (s : State) (k : Nat) : State :=
  match SMap.look s.teams k with
  | none => s
  | some t =>
    if t.place ≠ .resident then s
    else
      let s := s.mapTeam k fun t => { t with ibud := 0, mbud := 0, evict := true }
      if t.yielded then (s.mapTeam k fun t => { t with place := .saving }).send .free (.teamSave k) else s.yieldTeam k

/-- Every team of a crew is saved, and its region with the last (R228). -/
def State.saveCrew (s : State) (crew : Nat) : State :=
  let s := s.mapCrew crew fun c => { c with taking := !c.taken }
  (s.teamsOfCrew crew).foldl State.forceSave (s.takeRegion crew)

/-- Crews with a team or a region on a core. -/
def State.crewsToMove (s : State) (core : Nat) : List Nat :=
  (s.crews.filter fun p => decide (p.2.core = core) && !p.2.exited && decide (s.teamsOfCrew p.1 ≠ []) &&
    (!p.2.taken || (s.teamsOfCrew p.1).any fun k => decide ((SMap.get default s.teams k).place ≠ .saved))).map Prod.fst

/-- CORE_FENCE (R445, R446): `poisoned` names the crews with a poisoned image. -/
def execCoreFence (core : Nat) (poisoned : List Nat) (s : State) : Host.Outcome State Fault Refusal :=
  if s.isFenced core then .next s
  else
    let off := 0x17000 + 8 * (core / 64)
    let s := s.setReg off (s.reg off ||| BitVec.ofNat 64 (2 ^ (core % 64)))
    let crews := s.crewsToMove core
    let bad := crews.filter poisoned.contains
    let clean := crews.filter fun k => !poisoned.contains k
    let s := bad.foldl (fun s k => s.killCrew k 2 0xFF noTrap 0) s
    let s := clean.foldl State.saveCrew s
    let teams := clean.flatMap s.teamsOfCrew
    let s := if s.hostMode 5 ∧ clean ≠ [] then
        s.openEscalation { teamEscalation 5 0 0 with teams := teams, key := core } (s.partOfCluster (clusterOfCore core))
          [(0x10, core), (0x14, clean.length)]
      else s
    .next (s.send .free (.crewPlace (clusterOfCore core)))

/-- A reading of a die as THERMSTAT shows it (R36). A reading below 0 °C, for which the spec gives no encoding, stands modulo
256 here and modulo 65,536 in a packet (DESIGN CHOICE, log entry 107). -/
def thermField (warn stop : Bool) (temp : Int) : Nat :=
  (temp % 256).toNat + (if stop then 2 ^ 14 else 0) + (if warn then 2 ^ 15 else 0)

/-- One die's reading (R36): WARN and STOP, their packets, and the saves or restores that follow. -/
def State.thermal (s : State) (die : Nat) (temp : Int) : State :=
  let old := bitsOf (s.reg 0x28).toNat (16 * die) 16
  let warn := decide (temp > 100) || (old.testBit 15 && decide (temp > 95))
  let stop := decide (temp > 110) || (old.testBit 14 && decide (temp > 95))
  let all := (s.reg 0x28).toNat
  let s := s.setReg 0x28 (BitVec.ofNat 64 (all - old * 2 ^ (16 * die) + thermField warn stop temp * 2 ^ (16 * die)))
  let tell := fun (s : State) (level : Nat) =>
    s.heqPush 0x14 0 0 [(0x0C, die), (0x0D, level), (0x0E, (temp % 65536).toNat)]
  let s := if temp > 100 ∧ !old.testBit 15 then tell s 1 else s
  if temp > 110 ∧ !old.testBit 14 then
    let s : State := { tell s 2 with hot := die :: s.hot }
    let ks := (s.teams.filter fun p => decide (dieOfCore (s.crewOf p.2).core = die ∧ p.2.place = .resident)).map Prod.fst
    ks.foldl State.forceSave s
  else if old.testBit 14 && !stop then
    let s : State := { s with hot := s.hot.filter (· ≠ die) }
    (List.range 16).foldl (fun s i => s.send .free (.crewPlace (16 * die + i))) s
  else s

/-- THERMAL_SAMPLE (R36): the hottest reading of each die. -/
def execThermalSample (temps : List Int) (s : State) : Host.Outcome State Fault Refusal :=
  .next (((temps.take 4).mapIdx fun d t => (d, t)).foldl (fun s p => s.thermal p.1 p.2) s)

/-- The state after reset, with what outlasts it: the fuses (R269), and what is outside the device. -/
def State.restart (s : State) : State :=
  let r : State := { State.reset with leaf := s.leaf, otp := s.otp, tick := s.tick, inputs := s.inputs }
  { r with hostOut := s.hostOut, peerOut := s.peerOut }

/-- THERMAL_TRIP (R36): power is removed, and no state is kept but the fuses (R269). -/
def execThermalTrip (die : Nat) (s : State) : Host.Outcome State Fault Refusal :=
  let _ := die
  .next { s.restart with powered := false }

/-! ### Boot and attestation (R268, R269) -/

/-- The reason for which a stage fails its checks (R268); 0 where it passes them. `otp` is the fused digest that the key of
the first stage must have. The order of the checks is the model's (DESIGN CHOICE, log entry 52). -/
def bootCheck (otp : BitVec 256) (i : Nat) (x : BootStage) : Nat :=
  if x.bad then 4
  else if i = 0 ∧ sha256 x.key ≠ otp then 1
  else if !typesOk x.key then 3
  else if !lmsVerifies x.key x.sig x.image then 2
  else 0

/-- The boot chain: each stage that passes its checks is measured before it runs; the first that fails ends the boot. -/
def bootStages (otp : BitVec 256) : Nat → SMap (BitVec 256) → List BootStage → SMap (BitVec 256) × Option (Nat × Nat)
  | _, m, [] => (m, none)
  | i, m, x :: r =>
    if bootCheck otp i x ≠ 0 then (m, some (bootCheck otp i x, i))
    else
      let j := min i 7
      bootStages otp (i + 1) (SMap.set 0 m j (sha256 (digestBytes (SMap.get 0 m j) ++ digestBytes (sha256 x.image)))) r

/-- RESET (R268): every state but the fuses starts anew, and the boot runs over the images found. -/
def execReset (first : BootStage) (later : List BootStage) (s : State) : Host.Outcome State Fault Refusal :=
  let r := bootStages s.otp 0 [] (first :: later)
  let fresh : State := { s.restart with meas := r.1 }
  .next (match r.2 with
    | none => fresh
    | some (reason, stage) =>
      { fresh.setReg 0x20 (BitVec.ofNat 64 (2 ^ 63 + 256 * reason + stage % 256)) with bootFailed := true })

/-- The 336-byte body of an attestation report (R269). -/
def State.reportBody (s : State) : List Byte :=
  leBytes 8 (1 + s.leaf * 2 ^ 32) ++ ([0x16000, 0x16008, 0x16010, 0x16018].flatMap fun o => leBytes 8 (s.reg o).toNat) ++
    ((List.range 8).flatMap fun i => leBytes 32 (SMap.get 0 s.meas i).toNat) ++
    leBytes 32 (sha256 ([0x200, 0x208, 0x100, 0x10].flatMap fun o => leBytes 8 (s.reg o).toNat)).toNat ++
    leBytes 8 Config.serialNumber.toNat

/-- A bit of ATTSTAT is set. -/
def State.attStat (s : State) (bit : Nat) : State := s.setReg 0x16028 (s.reg 0x16028 ||| BitVec.ofNat 64 (2 ^ bit))

/-- The root of the identity key's tree (R34, R269), which its public key carries. -/
def identityRoot : BitVec 256 := lmsNode (leBytes 16 Config.identityId.toNat) Config.identitySecret 15 1

/-- The signature of a report's body with the next leaf of the identity key (R34, R269). -/
def State.signReport (s : State) : List Byte :=
  let id := leBytes 16 Config.identityId.toNat
  lmsSign id s.leaf (Config.identitySalt s.leaf) (Config.identitySecret s.leaf) (lmsPath id Config.identitySecret s.leaf) s.reportBody

/-- Write ATTGO (R268, R269): the report and its signature are written in context 0; each report consumes a leaf. -/
def State.writeAttgo (s : State) (v : BitVec 64) : State :=
  if s.bootFailed then s.attStat 2
  else
    let dest := bitsOf v.toNat 11 46 * 2048
    let s := s.setReg 0x16020 (BitVec.ofNat 64 dest)
    if !v.getLsbD 63 then s
    else if s.leaf ≥ 32768 then s.attStat 1
    else
      let s' := s.agentWrite 0 (canonOf dest) (s.reportBody ++ s.signReport)
      let s : State := { s with leaf := s.leaf + 1 }
      match s' with
      | .ok t => ({ t with leaf := s.leaf } : State).attStat 0
      | .error _ => s

/-- ATTGO (R269). -/
def execAttgo (value : BitVec 64) (s : State) : Host.Outcome State Fault Refusal := .next (s.writeAttgo value)

end Sys2Proof.Machine
end

