-- ==== Sys2Proof/Machine/System.lean ====
section
/-!
DEFINITION. The management registers as software writes them (10_host_peers R262 to R274, R257, R495, R500, R502, R506),
and the system instructions 0xF0 to 0xF3 (14_isa_matrix_engines R397 to R400, 23_exceptions_by_instruction R467).
-/
namespace Sys2Proof.Machine

/-! ### The register map (R257, R263, R495, R500, R502, R506) -/

/-- `n` bits from bit `lo`. -/
def field (lo n : Nat) : Nat := (2 ^ n - 1) * 2 ^ lo

/-- Units, counters of a unit, and highest source code of a counter class (R273); class 4 has fixed sources. -/
def classShape (cls : Nat) : Option (Nat × Nat × Nat) :=
  match cls with
  | 0 => some (256, 8, 9)
  | 1 => some (384, 4, 6)
  | 2 => some (28, 4, 6)
  | 3 => some (384, 2, 3)
  | 4 => some (4, 11, 0)
  | _ => none

/-- Is there a counter of this class, unit and number? -/
def counterExists (cls unit ctr : Nat) : Bool :=
  match classShape cls with
  | some (u, c, _) => decide (unit < u ∧ ctr < c)
  | none => false

/-- Class, unit and counter of an offset in a counter area. -/
def counterAt (off base : Nat) : Nat × Nat × Nat :=
  ((off - base) / 0x10000, (off - base) % 0x10000 / 0x80, (off - base) % 0x80 / 8)

/-- The bits of a register below 0x1000 that software writes and reads back. -/
def lowMask (off : Nat) : Nat :=
  match off with
  | 0x008 => field 0 16
  | 0x010 => 1
  | 0x018 => field 0 16
  | 0x030 => field 0 48
  | 0x100 => field 0 8
  | 0x108 => field 63 1 + field 8 49
  | 0x300 => field 22 30
  | 0x400 => field 20 37
  | 0x508 => field 62 2 + field 0 57
  | 0x510 => field 0 57
  | 0x618 | 0x620 => field 0 64
  | 0x630 => field 63 1 + field 21 31
  | 0x640 => field 12 40
  | 0x648 => field 0 17
  | 0x700 | 0x710 | 0x720 | 0x730 => field 9 48
  | 0x708 | 0x718 | 0x728 | 0x738 => field 63 1 + field 0 16
  | _ => 0

/-- The bits of a management register that a plain write stores (R5, R6, R262); registers whose write is an operation of
its own are in `State.mgmtWrite`. A counter source keeps any code in [7:0] and counts nothing under one that its class does not
list, and those of class 4 are kept without effect (DESIGN CHOICE, log entry 124). -/
def regMask (off : Nat) : Nat :=
  if off < 0x1000 then lowMask off
  else if off < 0x3000 then
    (match off % 32 with
     | 0 => field 63 1 + field 0 16
     | 8 => field 16 36
     | 16 => field 16 41
     | _ => field 16 48)
  else if 0x10000 ≤ off ∧ off < 0x15000 then (if off % 16 = 0 then field 8 49 else field 63 1 + field 0 16)
  else if off = 0x15000 then field 17 40
  else if 0x15008 ≤ off ∧ off < 0x15008 + 24 * 64 then
    (if (off - 0x15008) % 24 = 16 then field 61 3 + field 32 16 + field 0 16 else field 16 48)
  else if 0x16000 ≤ off ∧ off < 0x16020 then field 0 64
  else if 0x180000 ≤ off ∧ off < 0x1C0000 then
    (let c := counterAt off 0x180000
     if counterExists c.1 c.2.1 c.2.2 then field 0 8 else 0)
  else 0

/-- Store the writable bits of a plain register; the others keep their value. -/
def State.storeReg (s : State) (off : Nat) (v : BitVec 64) : State :=
  let m := BitVec.ofNat 64 (regMask off)
  s.setReg off ((s.reg off &&& ~~~m) ||| (v &&& m))

/-- What a write of a plain register sets off: a queue of the launch unit or of a Drover engine is looked at again (R509), and
so is the host event queue (R271), where a slot claimed in another ring stays there. -/
def State.afterReg (s : State) (off : Nat) (old : BitVec 64) : State :=
  if 0x10000 ≤ off ∧ off < 0x15000 then
    let n := (off - 0x10000) / 16
    { s with badQueues := s.badQueues.filter (· ≠ n),
             singles := s.singles.filter fun w => decide (64 * w.part + w.queue ≠ n) }
  else if off = 0x108 then
    ({ s with heqSlot := if bitsOf (s.reg off).toNat 8 49 = bitsOf old.toNat 8 49 then s.heqSlot else none } : State).poke .heqRetry
  else s

/-- Does a counter at `off` count what the model does not place one by one: stalls, clk or loop laps (R273 codes 6 and 8 of class 0;
LAPS of R274), or accesses among which are those that the Z4 makes on its own behalf (codes 1 and 2 of class 1, 1, 3 and 4 of class
2)? Log entry 40. -/
def State.countsTime (s : State) (off : Nat) : Bool :=
  let c := counterAt off 0x100000
  let code := (s.reg (off + 0x80000)).toNat % 256
  decide (0x100000 ≤ off) && counterExists c.1 c.2.1 c.2.2 &&
    (match c.1 with
     | 0 => decide (code = 6 ∨ code = 8)
     | 1 => decide (code = 1 ∨ code = 2)
     | 2 => decide (code = 1 ∨ code = 3 ∨ code = 4)
     | 4 => decide (c.2.2 = 6)
     | _ => false)

/-- Such a counter counts on by a free number (log entry 40), and wraps as every counter does (R273, R496). -/
def State.countTime (s : State) (off : Nat) : State :=
  let c := counterAt off 0x100000
  if s.countsTime off then
    s.bump off (2 ^ 20 * c.1 + 256 * c.2.1 + c.2.2) (if c.1 = 4 then c.2.1 else 0) ((Config.timeCount s.tick off).toNat % 2 ^ 48)
  else s

/-- The counters that count on by themselves: those with such a source, and LAPS of each partition. -/
def State.timeCounters (s : State) : List Nat :=
  (([0, 1, 2, 3] : List Nat).map fun p => counterOff 4 p 6) ++
    ((s.mgmt.map fun p => p.1 - 0x80000).filter fun off => decide ((counterAt off 0x100000).1 < 4) && s.countsTime off)

/-- Read a management register: a register holds only what it shows, and an offset without a register reads as zero (R262). -/
def State.mgmtRead (s : State) (off : Nat) : BitVec 64 := s.reg off

/-- Write a counter value (R263): the count is set, and OVF is cleared by a 1 in bit 63. -/
def State.writeCounter (s : State) (off : Nat) (v : BitVec 64) : State :=
  let c := counterAt off 0x100000
  if counterExists c.1 c.2.1 c.2.2 then
    let ovf := if v.getLsbD 63 then 0 else (s.reg off).toNat / 2 ^ 63
    s.setReg off (BitVec.ofNat 64 (v.toNat % 2 ^ 48 + ovf * 2 ^ 63))
  else s

/-- Is an offset one that the host reaches after a failed boot (R268)? -/
def bootReach (off : Nat) : Bool := decide (off ≤ 0x30) || decide (0x16000 ≤ off ∧ off ≤ 0x16028)

/-- The state after an operation that never stops. -/
def after (s : State) : Host.Outcome State Fault Refusal → State
  | .next t => t
  | _ => s

/-- Apply a reply written to PFRESP (R477). -/
def State.writePfresp (s : State) (v : BitVec 64) : State :=
  let tag := v.toNat % 2 ^ 32
  match v.getLsbD 63, bitsOf v.toNat 32 2 with
  | true, 0 => after s (execPfrespRetry tag s)
  | true, 1 => after s (execPfrespFail tag s)
  | true, 2 => after s (execPfrespTerminate tag s)
  | _, _ => s

/-- Apply a reply written to HARESP (R495, R496): an ACTION that the function does not list is ignored. -/
def State.writeHaresp (s : State) (v : BitVec 64) : State :=
  let tag := v.toNat % 2 ^ 32
  if !v.getLsbD 63 then s
  else
    match bitsOf v.toNat 56 3, bitsOf v.toNat 32 2 with
    | 1, 0 => after s (execDeadlkReexecute tag s)
    | 1, 1 => after s (execDeadlkDeliver tag s)
    | 1, 2 => after s (execDeadlkTerminate tag s)
    | 1, _ => after s (execDeadlkAdmit tag s)
    | 2, 0 => after s (execWftovfAdmitUntracked tag s)
    | 2, 1 => after s (execWftovfRetry tag s)
    | 2, 2 => after s (execWftovfTerminate tag s)
    | 3, 0 => after s (execPptRetry tag s)
    | 3, 2 => after s (execPptTerminate tag s)
    | 4, 0 => after s (execTopupRefill tag s)
    | 4, 1 => after s (execTopupLeaveParked tag s)
    | 4, 2 => after s (execTopupTerminate tag s)
    | 5, 0 => after s (execFencePlace tag s)
    | 5, 2 => after s (execFenceTerminate tag s)
    | 6, 0 => after s (execCollabtSendAbort tag s)
    | 6, 1 => after s (execCollabtSendNothing tag s)
    | _, _ => s

/-- WRITE A MANAGEMENT REGISTER (R262, R263), from the host or from PRIVW. -/
def State.mgmtWrite (s : State) (off : Nat) (v : BitVec 64) : State :=
  if s.bootFailed && !bootReach off then s
  else if off = 0x200 then s.writePartmap false v
  else if off = 0x208 then s.writePartmap true v
  else if off = 0x308 then s.writeTlbinv v
  else if off = 0x500 then s.writeRemap v
  else if off = 0x600 then s.writePfresp v
  else if off = 0x610 then s.writeHaresp v
  else if off = 0x660 then s.writeCtxkill v
  else if off = 0x668 then after s (execAbtclr v s)
  else if off = 0x16020 then s.writeAttgo v
  else if 0x100000 ≤ off ∧ off < 0x150000 then s.writeCounter off v
  else if regMask off = 0 then s
  else ((s.countTime (off - 0x80000)).storeReg off v).afterReg off (s.reg off)

/-- MANAGEMENT_WRITE (R262). -/
def execManagementWrite (off : Nat) (value : BitVec 64) (s : State) : Host.Outcome State Fault Refusal :=
  .next (if off % 8 = 0 ∧ off < 2 ^ 22 then s.mgmtWrite off value else s)

/-- A host access of BAR0 (R262): a register of 8 bytes is read or written; one of another size or place reads as zero, and
writes nothing (DESIGN CHOICE, log entry 102). -/
def State.hostRegister (s : State) (r : HostReq) (off : Nat) : State :=
  let whole := decide (off % 8 = 0 ∧ off < 2 ^ 22 ∧ hostSize r = 8)
  match r.write with
  | some bs =>
    let s := if whole then s.mgmtWrite off (BitVec.ofNat 64 (leNat (bs.map (BitVec.ofNat 8)))) else s
    { s with hostOut := s.hostOut ++ [(r.tag, [])] }
  | none =>
    let s := if whole then s.countTime off else s
    let v := if whole && (!s.bootFailed || bootReach off) then (s.mgmtRead off).toNat else 0
    { s with hostOut := s.hostOut ++ [(r.tag, (leBytes r.len v).map BitVec.toNat)] }

/-- HOST_ACCESS (R256, R258, R262, R268, R490): to a management register, or line by line to a home slice or a controller, as
each line lies in an aperture or outside (DESIGN CHOICE, log entry 102). -/
def execHostAccess (r : HostReq) (s : State) : Host.Outcome State Fault Refusal :=
  if !s.linkUp then .next s
  else
    match r.target with
    | .bar0 off => .next (s.hostRegister r off)
    | .memory _ _ =>
      if s.bootFailed || !hostInRange r then .next s
      else .next ((linePieces (hostPa r) (hostSize r)).foldl (fun s p => s.hostPiece (hostPieceOf r p)) s)

/-- COUNTER_VALUE_WRITE (R263, R274). -/
def execCounterValueWrite (off : Nat) (value : BitVec 64) (s : State) : Host.Outcome State Fault Refusal :=
  .next (if 0x100000 ≤ off ∧ off < 0x150000 then s.writeCounter off value else s)

/-! ### CTR and EVSEL (R398) -/

/-- Class, unit and counter that an index names; bits [31:24] must be zero (R273). -/
def indexParts (idx : Word) : Nat × Nat × Nat := (bitsOf idx.toNat 20 4, bitsOf idx.toNat 8 12, idx.toNat % 256)

/-- Does an index name a counter? -/
def indexOk (idx : Word) : Bool :=
  let c := indexParts idx
  decide (idx.toNat < 2 ^ 24) && counterExists c.1 c.2.1 c.2.2

/-- May a team without supervisor privilege ask for the counter, judged by class and unit alone (R398)? -/
def State.openIndex (s : State) (idx : Word) : Bool :=
  let c := indexParts idx
  let part := s.partOfCluster (clusterOfCore s.myCore)
  decide (idx.toNat < 2 ^ 24) &&
    ((decide (c.1 = 0 ∧ c.2.1 < 256) && decide (s.partOfCluster (clusterOfCore c.2.1) = part)) ||
     decide (c.1 = 4 ∧ c.2.1 = part))

/-- CTR's privilege and limit checks (R398, R451, R454, R467). -/
def ctrCheck (a : Reg) (s : State) : Option TrapRec :=
  let idx := s.me.rd a 0
  if !s.supervisor && !s.openIndex idx then some (preciseTrap 9 2 idx.toNat 0)
  else if indexOk idx then none else some (preciseTrap 8 0x60 idx.toNat 0 1)

/-- CTR (R398): the 48-bit value, zero-extended. -/
def execCtr (d a : Reg) (s : State) : Host.Outcome State Fault Refusal :=
  s.issueIf (.ctr d a) (ctrCheck a) fun s =>
    let c := indexParts (s.me.rd a 0)
    let s := s.countTime (counterOff c.1 c.2.1 c.2.2)
    let v := (s.mgmtRead (counterOff c.1 c.2.1 c.2.2)).toNat % 2 ^ 48
    (s.mapMe fun t => t.wr64 d 0 (BitVec.ofNat 64 v)).advance

/-- EVSEL's checks (R398, R451, R454, R467). -/
def evselCheck (a b : Reg) (s : State) : Option TrapRec :=
  let idx := s.me.rd a 0
  let code := (s.me.rd b 0).toNat
  if !s.supervisor then some (preciseTrap 9 3 idx.toNat 0)
  else if !indexOk idx then some (preciseTrap 8 0x60 idx.toNat 0 1)
  else
    match classShape (indexParts idx).1 with
    | some (_, _, top) =>
      if (indexParts idx).1 = 4 ∨ code > top then some (preciseTrap 8 0x61 idx.toNat 0 1) else none
    | none => some (preciseTrap 8 0x60 idx.toNat 0 1)

/-- EVSEL (R398): the source is set, and the count is unchanged. -/
def execEvsel (a b : Reg) (s : State) : Host.Outcome State Fault Refusal :=
  s.issueIf (.evsel a b) (evselCheck a b) fun s =>
    let c := indexParts (s.me.rd a 0)
    ((s.countTime (counterOff c.1 c.2.1 c.2.2)).setReg (counterOff c.1 c.2.1 c.2.2 + 0x80000) (BitVec.ofNat 64 ((s.me.rd b 0).toNat % 256))).advance

/-! ### SYSCALL (R399) -/

/-- SYSCALL: charged, PHASE at device scope, then the precise system-call trap. -/
def execSyscall (a : Reg) (s : State) : Host.Outcome State Fault Refusal :=
  s.issue (.syscall a) fun s =>
    let code := s.me.rd a 0
    (s.mapMe fun t => t.hold (phaseHold 4)).trap (preciseTrap 5 0 code.toNat 0)

/-! ### PRIVW (R400) -/

/-- Does a target word break R400? An RCT value with bits [63:32] counts only when it would be written. -/
def targetBad (tgt : Nat) (v : BitVec 64) : Bool :=
  let space := bitsOf tgt 30 2
  decide (space > 1 ∨ bitsOf tgt 22 7 ≠ 0) ||
  (if space = 0 then decide (tgt % 8 ≠ 0)
   else decide (bitsOf tgt 19 3 ≠ 0) || (!tgt.testBit 29 && decide (v.toNat ≥ 2 ^ 32)))

/-- PRIVW's checks (R451, R454, R467). -/
def privwCheck (a b : Reg) (s : State) : Option TrapRec :=
  let tgt := (s.me.rd a 0).toNat
  if !s.supervisor then some (preciseTrap 9 4 tgt 0)
  else if targetBad tgt (s.me.rd64 b 0) then some (preciseTrap 8 0x62 tgt 0 1) else none

/-- The register that a target word names, as PRIVW reads it. -/
def State.privRead (s : State) (tgt : Nat) : BitVec 64 :=
  if bitsOf tgt 30 2 = 0 then s.mgmtRead (tgt % 2 ^ 22)
  else (s.rctEntry (tgt % 65536) (bitsOf tgt 16 3)).setWidth 64

/-- A replacement-class entry is set (R132); reset value 0x0000FFFF. -/
def State.privWrite (s : State) (tgt : Nat) (v : BitVec 64) : State :=
  if bitsOf tgt 30 2 = 0 then s.mgmtWrite (tgt % 2 ^ 22) v
  else { s with rct := SMap.set 0xFFFF s.rct (8 * (tgt % 65536) + bitsOf tgt 16 3) ((v.setWidth 20).setWidth 32) }

/-- PRIVW (R400): the old value to the D pair, and with RD = 0 the B pair to the register, as one access; the release
before it has completed (readiness of the step). -/
def execPrivw (d a b : Reg) (s : State) : Host.Outcome State Fault Refusal :=
  s.issueIf (.privw d a b) (privwCheck a b) fun s =>
    let tgt := (s.me.rd a 0).toNat
    let v := s.me.rd64 b 0
    let s := if bitsOf tgt 30 2 = 0 then s.countTime (tgt % 2 ^ 22) else s
    let old := s.privRead tgt
    let s := (s.mapMe fun t => (t.hold (releaseHold 4)).wr64 d 0 old).advance
    if tgt.testBit 29 then s else s.privWrite tgt v

end Sys2Proof.Machine
end

