-- ==== Sys2Proof/Machine/Dispatch.lean ====
section
/-!
DEFINITION. One arm per constructor of Instr: the meaning of each instruction word and of each device event.
-/
namespace Sys2Proof.Machine

def exec (i : Instr) (s : State) : Host.Outcome State Fault Refusal :=
  match i with
  | .nop => Sys2Proof.Machine.execNop s
  | .setmode imm => Sys2Proof.Machine.execSetmode imm s
  | .br off => Sys2Proof.Machine.execBr off s
  | .bri a => Sys2Proof.Machine.execBri a s
  | .call off => Sys2Proof.Machine.execCall off s
  | .calli a => Sys2Proof.Machine.execCalli a s
  | .ret => Sys2Proof.Machine.execRet s
  | .split p => Sys2Proof.Machine.execSplit p s
  | .flip => Sys2Proof.Machine.execFlip s
  | .join => Sys2Proof.Machine.execJoin s
  | .lbegin => Sys2Proof.Machine.execLbegin s
  | .lbrk p => Sys2Proof.Machine.execLbrk p s
  | .lend off => Sys2Proof.Machine.execLend off s
  | .exit => Sys2Proof.Machine.execExit s
  | .trigger => Sys2Proof.Machine.execTrigger s
  | .yield => Sys2Proof.Machine.execYield s
  | .cont off => Sys2Proof.Machine.execCont off s
  | .ifence => Sys2Proof.Machine.execIfence s
  | .icinv d a => Sys2Proof.Machine.execIcinv d a s
  | .trap imm => Sys2Proof.Machine.execTrap imm s
  | .rett => Sys2Proof.Machine.execRett s
  | .sleep a => Sys2Proof.Machine.execSleep a s
  | .mov d a => Sys2Proof.Machine.execMov d a s
  | .movi d imm => Sys2Proof.Machine.execMovi d imm s
  | .movhi d imm => Sys2Proof.Machine.execMovhi d imm s
  | .add d a b => Sys2Proof.Machine.execAdd d a b s
  | .addi d imm => Sys2Proof.Machine.execAddi d imm s
  | .sub d a b => Sys2Proof.Machine.execSub d a b s
  | .mul d a b => Sys2Proof.Machine.execMul d a b s
  | .mulhi d a b => Sys2Proof.Machine.execMulhi d a b s
  | .mulhu d a b => Sys2Proof.Machine.execMulhu d a b s
  | .mad d a b => Sys2Proof.Machine.execMad d a b s
  | .min d a b => Sys2Proof.Machine.execMin d a b s
  | .max d a b => Sys2Proof.Machine.execMax d a b s
  | .minu d a b => Sys2Proof.Machine.execMinu d a b s
  | .maxu d a b => Sys2Proof.Machine.execMaxu d a b s
  | .abs d a => Sys2Proof.Machine.execAbs d a s
  | .neg d a => Sys2Proof.Machine.execNeg d a s
  | .and d a b => Sys2Proof.Machine.execAnd d a b s
  | .or d a b => Sys2Proof.Machine.execOr d a b s
  | .xor d a b => Sys2Proof.Machine.execXor d a b s
  | .andn d a b => Sys2Proof.Machine.execAndn d a b s
  | .not d a => Sys2Proof.Machine.execNot d a s
  | .shl d a b => Sys2Proof.Machine.execShl d a b s
  | .shr d a b => Sys2Proof.Machine.execShr d a b s
  | .sar d a b => Sys2Proof.Machine.execSar d a b s
  | .rol d a b => Sys2Proof.Machine.execRol d a b s
  | .popc d a => Sys2Proof.Machine.execPopc d a s
  | .clz d a => Sys2Proof.Machine.execClz d a s
  | .brev d a => Sys2Proof.Machine.execBrev d a s
  | .bfx d a b => Sys2Proof.Machine.execBfx d a b s
  | .bfi d a b => Sys2Proof.Machine.execBfi d a b s
  | .add64 d a b => Sys2Proof.Machine.execAdd64 d a b s
  | .sub64 d a b => Sys2Proof.Machine.execSub64 d a b s
  | .mad64 d a b => Sys2Proof.Machine.execMad64 d a b s
  | .lea d a b => Sys2Proof.Machine.execLea d a b s
  | .cmp cond comb pd a b => Sys2Proof.Machine.execCmp cond comb pd a b s
  | .cmpu cond comb pd a b => Sys2Proof.Machine.execCmpu cond comb pd a b s
  | .sel d a b => Sys2Proof.Machine.execSel d a b s
  | .pand d a b => Sys2Proof.Machine.execPand d a b s
  | .por d a b => Sys2Proof.Machine.execPor d a b s
  | .pxor d a b => Sys2Proof.Machine.execPxor d a b s
  | .pnot d a => Sys2Proof.Machine.execPnot d a s
  | .ptov d p => Sys2Proof.Machine.execPtov d p s
  | .vtop p a => Sys2Proof.Machine.execVtop p a s
  | .fadd d a b => Sys2Proof.Machine.execFadd d a b s
  | .fsub d a b => Sys2Proof.Machine.execFsub d a b s
  | .fmul d a b => Sys2Proof.Machine.execFmul d a b s
  | .ffma d a b => Sys2Proof.Machine.execFfma d a b s
  | .fmin d a b => Sys2Proof.Machine.execFmin d a b s
  | .fmax d a b => Sys2Proof.Machine.execFmax d a b s
  | .fabs d a => Sys2Proof.Machine.execFabs d a s
  | .fneg d a => Sys2Proof.Machine.execFneg d a s
  | .fcmp cond comb pd a b => Sys2Proof.Machine.execFcmp cond comb pd a b s
  | .frcp d a => Sys2Proof.Machine.execFrcp d a s
  | .frsq d a => Sys2Proof.Machine.execFrsq d a s
  | .fsqrt d a => Sys2Proof.Machine.execFsqrt d a s
  | .fexp2 d a => Sys2Proof.Machine.execFexp2 d a s
  | .flog2 d a => Sys2Proof.Machine.execFlog2 d a s
  | .ftanh d a => Sys2Proof.Machine.execFtanh d a s
  | .frnd d a => Sys2Proof.Machine.execFrnd d a s
  | .cvt d a tgt src => Sys2Proof.Machine.execCvt d a tgt src s
  | .pack d a b => Sys2Proof.Machine.execPack d a b s
  | .unpackl d a => Sys2Proof.Machine.execUnpackl d a s
  | .unpackh d a => Sys2Proof.Machine.execUnpackh d a s
  | .fclass d a => Sys2Proof.Machine.execFclass d a s
  | .shfl d a b => Sys2Proof.Machine.execShfl d a b s
  | .shflup d a b => Sys2Proof.Machine.execShflup d a b s
  | .shfldn d a b => Sys2Proof.Machine.execShfldn d a b s
  | .shflx d a b => Sys2Proof.Machine.execShflx d a b s
  | .bcast d a b => Sys2Proof.Machine.execBcast d a b s
  | .rdfl d a => Sys2Proof.Machine.execRdfl d a s
  | .rdlane d a b => Sys2Proof.Machine.execRdlane d a b s
  | .wrlane d a b => Sys2Proof.Machine.execWrlane d a b s
  | .vote d p pass op => Sys2Proof.Machine.execVote d p pass op s
  | .red d a op => Sys2Proof.Machine.execRed d a op s
  | .scan d a excl op => Sys2Proof.Machine.execScan d a excl op s
  | .movsr d sr => Sys2Proof.Machine.execMovsr d sr s
  | .movrs sr a => Sys2Proof.Machine.execMovrs sr a s
  | .ld8 d a b => Sys2Proof.Machine.execLd8 d a b s
  | .ld8s d a b => Sys2Proof.Machine.execLd8s d a b s
  | .ld16 d a b => Sys2Proof.Machine.execLd16 d a b s
  | .ld16s d a b => Sys2Proof.Machine.execLd16s d a b s
  | .ld32 d a b => Sys2Proof.Machine.execLd32 d a b s
  | .ld64 d a b => Sys2Proof.Machine.execLd64 d a b s
  | .ld128 d a b => Sys2Proof.Machine.execLd128 d a b s
  | .st4 d a b => Sys2Proof.Machine.execSt4 d a b s
  | .st8 d a b => Sys2Proof.Machine.execSt8 d a b s
  | .st16 d a b => Sys2Proof.Machine.execSt16 d a b s
  | .st32 d a b => Sys2Proof.Machine.execSt32 d a b s
  | .st64 d a b => Sys2Proof.Machine.execSt64 d a b s
  | .st128 d a b => Sys2Proof.Machine.execSt128 d a b s
  | .ldl32 d a b => Sys2Proof.Machine.execLdl32 d a b s
  | .ldl128 d a b => Sys2Proof.Machine.execLdl128 d a b s
  | .stl32 d a b => Sys2Proof.Machine.execStl32 d a b s
  | .stl128 d a b => Sys2Proof.Machine.execStl128 d a b s
  | .prefetch lvl a b => Sys2Proof.Machine.execPrefetch lvl a b s
  | .discard d a b => Sys2Proof.Machine.execDiscard d a b s
  | .sink h flagA cntm1 => Sys2Proof.Machine.execSink h flagA cntm1 s
  | .rowld d a b => Sys2Proof.Machine.execRowld d a b s
  | .rowst d a b => Sys2Proof.Machine.execRowst d a b s
  | .rowadd d a b => Sys2Proof.Machine.execRowadd d a b s
  | .aadd d a b => Sys2Proof.Machine.execAadd d a b s
  | .amin d a b => Sys2Proof.Machine.execAmin d a b s
  | .amax d a b => Sys2Proof.Machine.execAmax d a b s
  | .aminu d a b => Sys2Proof.Machine.execAminu d a b s
  | .amaxu d a b => Sys2Proof.Machine.execAmaxu d a b s
  | .aand d a b => Sys2Proof.Machine.execAand d a b s
  | .aor d a b => Sys2Proof.Machine.execAor d a b s
  | .axor d a b => Sys2Proof.Machine.execAxor d a b s
  | .axch d a b => Sys2Proof.Machine.execAxch d a b s
  | .acas d a b => Sys2Proof.Machine.execAcas d a b s
  | .afadd d a b => Sys2Proof.Machine.execAfadd d a b s
  | .phase => Sys2Proof.Machine.execPhase s
  | .pub => Sys2Proof.Machine.execPub s
  | .acq => Sys2Proof.Machine.execAcq s
  | .efence => Sys2Proof.Machine.execEfence s
  | .lock a => Sys2Proof.Machine.execLock a s
  | .unlock a => Sys2Proof.Machine.execUnlock a s
  | .wreg d a b => Sys2Proof.Machine.execWreg d a b s
  | .whold a => Sys2Proof.Machine.execWhold a s
  | .wdrop a => Sys2Proof.Machine.execWdrop a s
  | .bar lvl => Sys2Proof.Machine.execBar lvl s
  | .bararr d lvl => Sys2Proof.Machine.execBararr d lvl s
  | .barwait a lvl => Sys2Proof.Machine.execBarwait a lvl s
  | .tbinit a b => Sys2Proof.Machine.execTbinit a b s
  | .tbexp a b => Sys2Proof.Machine.execTbexp a b s
  | .tbarr a b => Sys2Proof.Machine.execTbarr a b s
  | .tbwait a b => Sys2Proof.Machine.execTbwait a b s
  | .tbtest d a => Sys2Proof.Machine.execTbtest d a s
  | .pin n a => Sys2Proof.Machine.execPin n a s
  | .unpin n => Sys2Proof.Machine.execUnpin n s
  | .reclaim d a b => Sys2Proof.Machine.execReclaim d a b s
  | .pinq d a => Sys2Proof.Machine.execPinq d a s
  | .topup a b => Sys2Proof.Machine.execTopup a b s
  | .bgrant d a b => Sys2Proof.Machine.execBgrant d a b s
  | .spawn a b => Sys2Proof.Machine.execSpawn a b s
  | .launch d a b => Sys2Proof.Machine.execLaunch d a b s
  | .gwait a => Sys2Proof.Machine.execGwait a s
  | .giveback n => Sys2Proof.Machine.execGiveback n s
  | .claim n => Sys2Proof.Machine.execClaim n s
  | .cpy d a b => Sys2Proof.Machine.execCpy d a b s
  | .cpys d a b => Sys2Proof.Machine.execCpys d a b s
  | .cpyt d a b => Sys2Proof.Machine.execCpyt d a b s
  | .cpyr d a b => Sys2Proof.Machine.execCpyr d a b s
  | .rgath d a b => Sys2Proof.Machine.execRgath d a b s
  | .qsub a => Sys2Proof.Machine.execQsub a s
  | .coll d a b => Sys2Proof.Machine.execColl d a b s
  | .bseal d => Sys2Proof.Machine.execBseal d s
  | .bwait n => Sys2Proof.Machine.execBwait n s
  | .bwaity n a => Sys2Proof.Machine.execBwaity n a s
  | .nmcmd a b => Sys2Proof.Machine.execNmcmd a b s
  | .nmblk a b => Sys2Proof.Machine.execNmblk a b s
  | .gang a => Sys2Proof.Machine.execGang a s
  | .accalloc d a => Sys2Proof.Machine.execAccalloc d a s
  | .accwin a b => Sys2Proof.Machine.execAccwin a b s
  | .accfree => Sys2Proof.Machine.execAccfree s
  | .mma d a b => Sys2Proof.Machine.execMma d a b s
  | .mdrain d a => Sys2Proof.Machine.execMdrain d a s
  | .accrd d a b => Sys2Proof.Machine.execAccrd d a b s
  | .accwr d a b => Sys2Proof.Machine.execAccwr d a b s
  | .acczero a b => Sys2Proof.Machine.execAcczero a b s
  | .scld d a b => Sys2Proof.Machine.execScld d a b s
  | .ctr d a => Sys2Proof.Machine.execCtr d a s
  | .evsel a b => Sys2Proof.Machine.execEvsel a b s
  | .syscall a => Sys2Proof.Machine.execSyscall a s
  | .privw d a b => Sys2Proof.Machine.execPrivw d a b s
  | .acceptLaunchPacket part => Sys2Proof.Machine.execAcceptLaunchPacket part s
  | .acceptLaunchRecord part => Sys2Proof.Machine.execAcceptLaunchRecord part s
  | .singleInstanceAccept part queue => Sys2Proof.Machine.execSingleInstanceAccept part queue s
  | .nodeStart inst node => Sys2Proof.Machine.execNodeStart inst node s
  | .instanceComplete inst => Sys2Proof.Machine.execInstanceComplete inst s
  | .gridRetire grid => Sys2Proof.Machine.execGridRetire grid s
  | .crewPlace cluster => Sys2Proof.Machine.execCrewPlace cluster s
  | .strike teams => Sys2Proof.Machine.execStrike teams s
  | .budgetYield team => Sys2Proof.Machine.execBudgetYield team s
  | .teamSave team => Sys2Proof.Machine.execTeamSave team s
  | .crewRestore crew core => Sys2Proof.Machine.execCrewRestore crew core s
  | .selectionOverdue team => Sys2Proof.Machine.execSelectionOverdue team s
  | .sleepEnd team => Sys2Proof.Machine.execSleepEnd team s
  | .claimGrant core => Sys2Proof.Machine.execClaimGrant core s
  | .bwaityReactivate team => Sys2Proof.Machine.execBwaityReactivate team s
  | .gatherWindowExpire cluster grid entry => Sys2Proof.Machine.execGatherWindowExpire cluster grid entry s
  | .stealRequest cluster => Sys2Proof.Machine.execStealRequest cluster s
  | .stealRequestReceive thief victim => Sys2Proof.Machine.execStealRequestReceive thief victim s
  | .stealReply thief work => Sys2Proof.Machine.execStealReply thief work s
  | .sageSearchDone search => Sys2Proof.Machine.execSageSearchDone search s
  | .freeQueueRetry append => Sys2Proof.Machine.execFreeQueueRetry append s
  | .deferredRescan bucket => Sys2Proof.Machine.execDeferredRescan bucket s
  | .pinSaveRetry team => Sys2Proof.Machine.execPinSaveRetry team s
  | .loadReply q vals fill unsettled bad => Sys2Proof.Machine.execLoadReply q vals fill unsettled bad s
  | .homeRequest q => Sys2Proof.Machine.execHomeRequest q s
  | .homeWrite q => Sys2Proof.Machine.execHomeWrite q s
  | .homeAtomic q => Sys2Proof.Machine.execHomeAtomic q s
  | .rowAtHome q => Sys2Proof.Machine.execRowAtHome q s
  | .homeFillComplete q r => Sys2Proof.Machine.execHomeFillComplete q r s
  | .sharerUpdate core wid ctx cells => Sys2Proof.Machine.execSharerUpdate core wid ctx cells s
  | .sharerInvalidate core wid ctx va => Sys2Proof.Machine.execSharerInvalidate core wid ctx va s
  | .writerAck q vals bad => Sys2Proof.Machine.execWriterAck q vals bad s
  | .settleNotice core wid => Sys2Proof.Machine.execSettleNotice core wid s
  | .translateRequest q => Sys2Proof.Machine.execTranslateRequest q s
  | .sinkPacketAtHome q => Sys2Proof.Machine.execSinkPacketAtHome q s
  | .sinkPacketAtSite q => Sys2Proof.Machine.execSinkPacketAtSite q s
  | .sinkResult q site lanes bad => Sys2Proof.Machine.execSinkResult q site lanes bad s
  | .partTrap team t pc => Sys2Proof.Machine.execPartTrap team t pc s
  | .haltArrive team t skid => Sys2Proof.Machine.execHaltArrive team t skid s
  | .heqRetry => Sys2Proof.Machine.execHeqRetry s
  | .droverAccept engine => Sys2Proof.Machine.execDroverAccept engine s
  | .copy pid => Sys2Proof.Machine.execCopy pid s
  | .reduceTile pid => Sys2Proof.Machine.execReduceTile pid s
  | .gatherRows pid => Sys2Proof.Machine.execGatherRows pid s
  | .fill pid => Sys2Proof.Machine.execFill pid s
  | .discardPacket pid => Sys2Proof.Machine.execDiscardPacket pid s
  | .collectiveStep pid => Sys2Proof.Machine.execCollectiveStep pid s
  | .nearmemBlock pid => Sys2Proof.Machine.execNearmemBlock pid s
  | .prefetchL2 pid => Sys2Proof.Machine.execPrefetchL2 pid s
  | .tbArrive pid => Sys2Proof.Machine.execTbArrive pid s
  | .packetComplete pid => Sys2Proof.Machine.execPacketComplete pid s
  | .inboundStep r => Sys2Proof.Machine.execInboundStep r s
  | .arrivalReport pid => Sys2Proof.Machine.execArrivalReport pid s
  | .refusalReport pid accepted => Sys2Proof.Machine.execRefusalReport pid accepted s
  | .abortMessage group => Sys2Proof.Machine.execAbortMessage group s
  | .tbInitOp q => Sys2Proof.Machine.execTbInitOp q s
  | .tbExpectOp q => Sys2Proof.Machine.execTbExpectOp q s
  | .tbArriveOp q => Sys2Proof.Machine.execTbArriveOp q s
  | .tbWaitOp q => Sys2Proof.Machine.execTbWaitOp q s
  | .tbTestOp q => Sys2Proof.Machine.execTbTestOp q s
  | .tbAbortOp q => Sys2Proof.Machine.execTbAbortOp q s
  | .lockAtHome q => Sys2Proof.Machine.execLockAtHome q s
  | .unlockAtHome q => Sys2Proof.Machine.execUnlockAtHome q s
  | .mmaFinish core => Sys2Proof.Machine.execMmaFinish core s
  | .submissionTake engine => Sys2Proof.Machine.execSubmissionTake engine s
  | .nmcmdAccept team => Sys2Proof.Machine.execNmcmdAccept team s
  | .nmBind engine => Sys2Proof.Machine.execNmBind engine s
  | .nmRun engine => Sys2Proof.Machine.execNmRun engine s
  | .nmScadd engine => Sys2Proof.Machine.execNmScadd engine s
  | .nmAccz engine => Sys2Proof.Machine.execNmAccz engine s
  | .nmAccst engine => Sys2Proof.Machine.execNmAccst engine s
  | .nmFence engine => Sys2Proof.Machine.execNmFence engine s
  | .nmEnd engine => Sys2Proof.Machine.execNmEnd engine s
  | .arbitrationWindow engine => Sys2Proof.Machine.execArbitrationWindow engine s
  | .engineResume engine => Sys2Proof.Machine.execEngineResume engine s
  | .hostAccess r => Sys2Proof.Machine.execHostAccess r s
  | .hostCompletionTimeout id => Sys2Proof.Machine.execHostCompletionTimeout id s
  | .linkDown => Sys2Proof.Machine.execLinkDown s
  | .peerPortDown port => Sys2Proof.Machine.execPeerPortDown port s
  | .correctableError controller => Sys2Proof.Machine.execCorrectableError controller s
  | .uncorrectableError place key => Sys2Proof.Machine.execUncorrectableError place key s
  | .coreFence core poisoned => Sys2Proof.Machine.execCoreFence core poisoned s
  | .unitSramError die kind unit => Sys2Proof.Machine.execUnitSramError die kind unit s
  | .thermalSample temps => Sys2Proof.Machine.execThermalSample temps s
  | .thermalTrip die => Sys2Proof.Machine.execThermalTrip die s
  | .reset first later => Sys2Proof.Machine.execReset first later s
  | .tlbinv value => Sys2Proof.Machine.execTlbinv value s
  | .remapRead value => Sys2Proof.Machine.execRemapRead value s
  | .remapWrite value => Sys2Proof.Machine.execRemapWrite value s
  | .remapWriteAll value => Sys2Proof.Machine.execRemapWriteAll value s
  | .attgo value => Sys2Proof.Machine.execAttgo value s
  | .pfrespRetry tag => Sys2Proof.Machine.execPfrespRetry tag s
  | .pfrespFail tag => Sys2Proof.Machine.execPfrespFail tag s
  | .pfrespTerminate tag => Sys2Proof.Machine.execPfrespTerminate tag s
  | .deadlkReexecute tag => Sys2Proof.Machine.execDeadlkReexecute tag s
  | .deadlkDeliver tag => Sys2Proof.Machine.execDeadlkDeliver tag s
  | .deadlkTerminate tag => Sys2Proof.Machine.execDeadlkTerminate tag s
  | .deadlkAdmit tag => Sys2Proof.Machine.execDeadlkAdmit tag s
  | .wftovfAdmitUntracked tag => Sys2Proof.Machine.execWftovfAdmitUntracked tag s
  | .wftovfRetry tag => Sys2Proof.Machine.execWftovfRetry tag s
  | .wftovfTerminate tag => Sys2Proof.Machine.execWftovfTerminate tag s
  | .pptRetry tag => Sys2Proof.Machine.execPptRetry tag s
  | .pptTerminate tag => Sys2Proof.Machine.execPptTerminate tag s
  | .topupRefill tag => Sys2Proof.Machine.execTopupRefill tag s
  | .topupLeaveParked tag => Sys2Proof.Machine.execTopupLeaveParked tag s
  | .topupTerminate tag => Sys2Proof.Machine.execTopupTerminate tag s
  | .fencePlace tag => Sys2Proof.Machine.execFencePlace tag s
  | .fenceTerminate tag => Sys2Proof.Machine.execFenceTerminate tag s
  | .collabtSendAbort tag => Sys2Proof.Machine.execCollabtSendAbort tag s
  | .collabtSendNothing tag => Sys2Proof.Machine.execCollabtSendNothing tag s
  | .ctxkill value => Sys2Proof.Machine.execCtxkill value s
  | .abtclr value => Sys2Proof.Machine.execAbtclr value s
  | .counterValueWrite off value => Sys2Proof.Machine.execCounterValueWrite off value s
  | .partmapWrite index value => Sys2Proof.Machine.execPartmapWrite index value s
  | .managementWrite off value => Sys2Proof.Machine.execManagementWrite off value s
  | .hostLinkUp => Sys2Proof.Machine.execHostLinkUp s
  | .peerPortUp port => Sys2Proof.Machine.execPeerPortUp port s
  | .hostSnoop half exclusive => Sys2Proof.Machine.execHostSnoop half exclusive s
  | .hostCompletion id status bytes => Sys2Proof.Machine.execHostCompletion id status bytes s
  | .inboundWrite r => Sys2Proof.Machine.execInboundWrite r s
  | .accumulatorOpDone core => Sys2Proof.Machine.execAccumulatorOpDone core s
  | .sharerAck core wid ctx va used evict => Sys2Proof.Machine.execSharerAck core wid ctx va used evict s
  | .waitReturn team out r => Sys2Proof.Machine.execWaitReturn team out r s

end Sys2Proof.Machine
end

