-- ==== Sys2Proof/Machine/Ready.lean ====
section
/-!
DEFINITION. When a team's next instruction may issue (08_scheduling R215, R216): its word, the interlocks on registers
(R148, R344), the orders that earlier releases and acquires impose (06_consistency R160 to R162, R177), lines whose
accesses wait (R148, R166, R438), releases that an instruction performs before its effect (R161), waits that are over, and
units that have stopped (24_memory_failures R494).
-/
namespace Sys2Proof.Machine

/-! ### What an instruction accesses (R161, R162) -/

/-- The kinds of access that the orders of R162 tell apart. -/
inductive AccessKind where
  | none | load | write | rowLoad | rowWrite | command
  deriving DecidableEq, Repr

/-- An asynchronous issue (R177, R249). -/
def isAsync : Instr → Bool
  | .cpy _ _ _ | .cpys _ _ _ | .cpyt _ _ _ | .cpyr _ _ _ | .rgath _ _ _ | .qsub _ | .coll _ _ _ | .nmblk _ _
  | .nmcmd _ _ | .mma _ _ _ => true
  | _ => false

/-- The access an instruction makes. PREFETCH makes none (R165). -/
def accessOf : Instr → AccessKind
  | .ld8 _ _ _ | .ld8s _ _ _ | .ld16 _ _ _ | .ld16s _ _ _ | .ld32 _ _ _ | .ld64 _ _ _ | .ld128 _ _ _ | .ldl32 _ _ _
  | .ldl128 _ _ _ | .tbtest _ _ | .accrd _ _ _ | .wreg _ _ _ | .tbwait _ _ => .load
  | .st4 _ _ _ | .st8 _ _ _ | .st16 _ _ _ | .st32 _ _ _ | .st64 _ _ _ | .st128 _ _ _ | .stl32 _ _ _ | .stl128 _ _ _
  | .discard _ _ _ | .sink _ _ _ | .aadd _ _ _ | .amin _ _ _ | .amax _ _ _ | .aminu _ _ _ | .amaxu _ _ _ | .aand _ _ _
  | .aor _ _ _ | .axor _ _ _ | .axch _ _ _ | .acas _ _ _ | .afadd _ _ _ | .lock _ | .unlock _ | .tbinit _ _
  | .tbexp _ _ | .tbarr _ _ | .accwr _ _ _ | .acczero _ _ | .accalloc _ _ | .scld _ _ _ | .mdrain _ _ => .write
  | .rowld _ _ _ => .rowLoad
  | .rowst _ _ _ | .rowadd _ _ _ => .rowWrite
  | .cpy _ _ _ | .cpys _ _ _ | .cpyt _ _ _ | .cpyr _ _ _ | .rgath _ _ _ | .qsub _ | .coll _ _ _ | .nmblk _ _
  | .nmcmd _ _ | .mma _ _ _ => .command
  | _ => .none

/-- Does the load-store unit check the instruction's addresses against the range-lock table (R179)? -/
def usesRanges (i : Instr) : Bool :=
  match i with
  | .ld8 _ _ _ | .ld8s _ _ _ | .ld16 _ _ _ | .ld16s _ _ _ | .ld32 _ _ _ | .ld64 _ _ _ | .ld128 _ _ _
  | .st4 _ _ _ | .st8 _ _ _ | .st16 _ _ _ | .st32 _ _ _ | .st64 _ _ _ | .st128 _ _ _ | .discard _ _ _ | .sink _ _ _
  | .rowld _ _ _ | .rowst _ _ _ | .rowadd _ _ _ | .aadd _ _ _ | .amin _ _ _ | .amax _ _ _ | .aminu _ _ _
  | .amaxu _ _ _ | .aand _ _ _ | .aor _ _ _ | .axor _ _ _ | .axch _ _ _ | .acas _ _ _ | .afadd _ _ _ | .qsub _
  | .scld _ _ _ | .mma _ _ _ => true
  | _ => false

/-- Does the instruction register a wait or a holding in the wait-for table (R218)? -/
def usesTable : Instr → Bool
  | .lock _ | .unlock _ | .wreg _ _ _ | .whold _ | .wdrop _ | .bar _ | .barwait _ _ | .tbwait _ _ | .gwait _ | .claim _
  | .gang _ => true
  | _ => false

/-- Global ranges an instruction touches at issue: address and bytes. -/
def State.touched (s : State) (i : Instr) (ws : List Word) (t : Team) : List (Nat × Nat) :=
  match i with
  | .sink _ _ _ => (anchorAccs ws t).map fun p => (p.2.1, p.2.2)
  | .qsub a => [(t.addr a 0, 64)]
  | .scld _ a b => [(t.addr a 0 + (if bitsOf (t.rd b 0).toNat 16 2 = 2 then 8192 else 0), 1024)]
  | _ => (memAccs i t).map fun p => p.2

/-- Do two ranges of one address space meet? -/
def meets (a m b n : Nat) : Bool := decide (a < b + n ∧ b < a + m)

/-! ### Orders (R160 to R162, R177) -/

/-- Is a write whose value was read still unsettled (R160)? -/
def State.writeOpen (s : State) : SeenWrite → Bool
  | .home w => s.writes.any (fun x => decide (x.wid = w)) || s.agenda.any fun p => match p.ev with
    | .settleNotice _ x => decide (x = w)
    | _ => false
  | .store k o => s.cores.any fun c => c.2.stores.any (fun p => decide (p.q.who = .team k o)) ||
      c.2.ops.any fun p => decide (p.team = k ∧ p.out = o)

/-- Has the matrix datapath operations of a team to perform other than MMAs (R387)? -/
def State.accOpsOpen (s : State) (k : Nat) (t : Team) : Bool :=
  (s.coreAt (s.crewOf t).core).jobs.any fun o => match o with
    | .mma _ => false
    | _ => o.teams.contains k

/-- Is an entry of a class that row scope orders (R156)? -/
def isRowClass (c : OutClass) : Bool := decide (c = .rowLoad ∨ c = .rowStore)

/-- Has an access that the entries `sel` name not completed for a release (R162)? -/
def State.releaseOpen (s : State) (k : Nat) (t : Team) (rows : Bool) (sel : Outstanding → Bool) : Bool :=
  t.outs.any (fun o => sel o && releaseWaits o && !t.waitsBehind o && (!rows || isRowClass o.cls)) ||
    (!rows && (s.cmdWaits k || s.accOpsOpen k t))

/-- Does an entry bring values that the team reads? -/
def readsValue (c : OutClass) : Bool :=
  match c with
  | .load | .atomic | .rowLoad | .sink => true
  | _ => false

/-- What a release part and an acquire part of an order still wait for (R162, R198). -/
def State.relPart (s : State) (k : Nat) (t : Team) (h : OrderHold) : Bool :=
  s.releaseOpen k t h.rowsOnly fun o => decide (o.id < h.id) || o.old
def State.acqPart (s : State) (t : Team) (h : OrderHold) : Bool :=
  t.outs.any (fun o => (decide (o.id < h.id) || o.old) && !isFetch o && !t.waitsBehind o && readsValue o.cls && 
      (!h.rowsOnly || isRowClass o.cls)) ||
    (h.settle && t.unsettled.any fun p => (!h.rowsOnly || p.2) && s.writeOpen p.1)

/-- Is an order still imposed? -/
def State.holdOpen (s : State) (k : Nat) (t : Team) (h : OrderHold) : Bool :=
  ((h.rel || h.asyncs) && s.relPart k t h) || (h.acq && s.acqPart t h)

/-- Does an order hold back an access of a kind (R162, R177)? One that a restored team's first instruction waits for holds
back everything (R227). -/
def State.holdsBack (s : State) (k : Nat) (t : Team) (a : AccessKind) (async : Bool) (h : OrderHold) : Bool :=
  let isRow := decide (a = .rowLoad ∨ a = .rowWrite)
  let isWrite := decide (a = .write ∨ a = .rowWrite ∨ a = .command)
  (!h.rowsOnly || isRow) &&
    (((h.rel && (isWrite || (h.phase && decide (a ≠ .none))) || h.asyncs && async) && s.relPart k t h) ||
     (h.acq && decide (a ≠ .none) && s.acqPart t h)) ||
  (h.all && s.holdOpen k t h)

/-- The scope of the release that an instruction performs before its effect, where it performs one (R161). -/
def releasesFirst (i : Instr) (t : Team) : Option Nat :=
  let ord := decide (t.ord = 2 ∨ t.ord = 3)
  match i with
  | .exit | .trigger | .launch _ _ _ | .spawn _ _ | .unlock _ | .reclaim _ _ _ | .privw _ _ _ | .syscall _ => some 4
  | .gang _ | .bar _ | .bararr _ _ => some 1
  | .tbarr _ _ => some t.scope
  | .rowst _ _ _ | .rowadd _ _ _ => if ord then some t.scope else none
  | .st4 _ _ _ | .st8 _ _ _ | .st16 _ _ _ | .st32 _ _ _ | .st64 _ _ _ | .st128 _ _ _ | .stl32 _ _ _ | .stl128 _ _ _
  | .aadd _ _ _ | .amin _ _ _ | .amax _ _ _ | .aminu _ _ _ | .amaxu _ _ _ | .aand _ _ _ | .aor _ _ _ | .axor _ _ _
  | .axch _ _ _ | .acas _ _ _ | .afadd _ _ _ | .sink _ _ _ => if ord then some t.plainScope else none
  | _ => none

/-- Do the orders of the team let an instruction issue? EXIT's acquire waits for what the team has read to settle (R160,
R301). One that RETT issues again is older than every order but those of
the handler (R441, R470). -/
def State.ordersAllow (s : State) (k : Nat) (t : Team) (i : Instr) : Bool :=
  let again := t.reissue.isSome
  let first := match releasesFirst i t with
    | some sc => again || t.arrived || !s.releaseOpen k t (decide (sc = 6)) fun _ => true
    | none => true
  first && !(t.holds.filter fun h => h.handler || !again).any (s.holdsBack k t (accessOf i) (isAsync i)) &&
    (match i with
     | .icinv _ _ => !t.holds.any fun h => h.rel && s.relPart k t h
     | .ifence => !s.cores.any fun p => p.2.icinvs.any fun v => decide (v.team = k)
     | .exit => !t.unsettled.any fun p => s.writeOpen p.1
     | .accfree => t.mma.isNone && decide (t.scaleFaults = []) && !(s.coreAt (s.crewOf t).core).jobs.any fun o => o.teams.contains k
     | _ => true) &&
    !(isAsync i && t.outs.any fun o => match o.instr with
        | .tbexp _ _ => true
        | _ => false)

/-! ### Lines whose accesses wait (R148, R166, R438) -/

/-- Does an outstanding entry hold back the team's later accesses to a line until its requests are answered? Sunk packets and
ST4 do (R148, R166). -/
def lineWaits (o : Outstanding) (lid : Nat) : Bool :=
  o.lines.contains lid && decide (o.pend > 0) && (decide (o.cls = .sink) || (match o.instr with
    | .st4 _ _ _ => true
    | _ => false))

/-- Would the core's L1 serve an access of the instruction to a line it holds (R134, R143, R170)? -/
def servedByL1 (i : Instr) (t : Team) (x : L1Line) : Bool :=
  match i with
  | .sink h a _ => !h && !a && x.rd
  | .ld8 _ _ _ | .ld8s _ _ _ | .ld16 _ _ _ | .ld16s _ _ _ | .ld32 _ _ _ | .ld64 _ _ _ | .ld128 _ _ _ | .rowld _ _ _ => x.rd
  | .aadd _ _ _ | .amin _ _ _ | .amax _ _ _ | .aminu _ _ _ | .amaxu _ _ _ | .aand _ _ _ | .aor _ _ _ | .axor _ _ _ =>
    decide (t.scope = 1) && x.rd && x.wr
  | _ => false

/-- Must an instruction itself wait before a line whose older accesses may have faulted (R438)? Where it sends a request,
only that waits, at the core; where L1 would serve or take it at issue, and for the accesses that are no requests of the
load-store unit, the instruction waits. -/
def waitsToIssue (i : Instr) (t : Team) (l1 : Option L1Line) : Bool :=
  match i, l1 with
  | .sink _ _ _, _ | .mma _ _ _, _ | .scld _ _ _, _ | .prefetch _ _ _, _ => true
  | _, none => false
  | .st8 _ _ _, some x | .st16 _ _ _, some x | .st32 _ _ _, some x | .st64 _ _ _, some x | .st128 _ _ _, some x => x.wr
  | _, some x => (match accessOf i with
      | .load | .rowLoad => x.rd
      | .write => decide (t.scope = 1) && x.rd && x.wr
      | _ => false)

/-- Does an instruction touch a line whose older accesses hold it back: a sunk packet or ST4; an access that L1 would serve, a
write on its way that home makes and the L1 copy does not hold (R158, R159); a line with a fault (R438)? -/
def State.lineHeld (s : State) (t : Team) (i : Instr) (core ctx : Nat) (l : List (Nat × Nat)) : Bool :=
  let meetsLine := fun (lid : Nat) => l.any fun p =>
    let w := s.locate core ctx p.1
    decide (w.1 = lineCtx lid) && meets (va57 w.2) p.2 (lineVa lid) 128
  t.outs.any (fun o => o.lines.any fun lid => lineWaits o lid && meetsLine lid) ||
    t.outs.any (fun o => decide (o.pend > 0) && o.atHome.any fun lid => meetsLine lid && (match s.l1Line core lid with
      | some x => servedByL1 i t x
      | none => false)) ||
    (!t.trap.inHandler && t.reissue.isNone &&
      (t.faultLines ++ t.outs.flatMap fun o => o.badLines ++ o.lines).any fun lid =>
        s.lineBlocked t t.nextOut lid && meetsLine lid && waitsToIssue i t (s.l1Line core lid))

/-! ### Registers (R148, R344, R386) -/

/-- Registers an instruction needs: those it reads and writes, the A rows of an MMA, the live-ins and results of a group. -/
def regsNeeded (i : Instr) (ws : List Word) (t : Team) : List Nat :=
  match i with
  | .sink _ _ _ => let g := groupRegs t ws; g.1 ++ g.2 ++ [256 + t.gp]
  | .mma d _ b => regsRead i t ++ (match t.fmtWords b with
    | f :: _ => (List.range (rowRegs f)).map fun j => d.code + j
    | [] => [])
  | _ => regsRead i t ++ regsWritten i

/-- Is a register it needs still to be written by an outstanding instruction? -/
def regsBusy (t : Team) (l : List Nat) : Bool := t.outs.any fun o => o.regs.any l.contains

/-! ### Stopped units (R494) -/

/-- Is a unit stopped by an error of its SRAM? -/
def State.unitDown (s : State) (kind unit : Nat) : Bool := s.stopped.contains (kind, unit)

/-- Does an instruction of a team on `core` need a stopped unit? -/
def State.needsStopped (s : State) (core : Nat) (i : Instr) : Bool :=
  let die := dieOfCore core
  (s.unitDown 1 die && usesTable i) || (s.unitDown 2 die && usesRanges i) ||
    (match i with
     | .reclaim _ _ _ | .pinq _ _ => (List.range 4).any (s.unitDown 3)
     | .spawn _ _ => s.unitDown 7 (clusterOfCore core)
     | _ => false)

/-- The word at a team's PC, as its core holds it (R275). -/
def State.wordAtPc (s : State) (t : Team) : Option (Except BadAccess Word) :=
  let c := s.crewOf t
  s.codeWord c.core c.ctx (codeVa (s.gridAt c.grid).launch.codebase t.pc)

/-- The instruction at which a team stands, where its core holds it. -/
def State.standsAt (s : State) (t : Team) : Option Instr :=
  match s.wordAtPc t with
  | some (.ok w) => (match decode w with
    | .ok i => some i
    | .error _ => none)
  | _ => none

/-! ### Waits (R215) -/

/-- Is the wait of a stalled team over, so that it may execute its instruction again? Waits for an answer of a home slice, a
pool, an engine or the host end with that answer. -/
def State.waitOver (s : State) (k : Nat) (t : Team) : WaitObj → Bool
  | .barrier b tok => phaseOver (s.barAt b).c tok
  | .heldPhase b => !({ s with cur := k } : State).barHeld b
  | .grid h => !s.handleRuns h.toNat
  | .giveback n => !t.writesComing n
  | .sage => decide (s.searches.length < 16)
  | .partner rank => (match ({ s with cur := k } : State).partner rank with
    | some (_, c) => !c.taken || c.exited
    | none => false)
  | .spawn => decide (s.poolTasks (clusterOfCore (s.crewOf t).core) + max 1 t.actives.length ≤ 8192)
  | .batches n => decide (t.unfinished ≤ n)
  | .seal => decide (t.batchCount t.batchNext = 0 ∨ t.unfinished < 32)
  | .port => t.packet.isSome && !s.portFull (clusterOfCore (s.crewOf t).core) ||
      (t.packet.isNone && !s.portFull (clusterOfCore (s.crewOf t).core) && !t.outs.any fun o => match o.instr with
        | .qsub _ => true
        | _ => false)
  | .nmcmd => !s.cmdWaits k
  | .latch => !({ s with cur := k } : State).inLatch
  | .exitBatches => decide (t.batches = [])
  | .pinBucket _ | .lock _ | .tb _ | .wreg _ | .pool _ | .gang _ | .batchesYield _ _ | .budget _ | .host _ _ | .sleep _
  | .gangYield => false
  | .stopped n => decide (n ≠ 0) && (match s.standsAt t with
    | some i => !s.needsStopped (s.crewOf t).core i
    | none => true)

/-- A stall at an instruction, before which a strike makes the team yield (R225); the other waits follow a yield or belong
to a fault on its way. -/
def stallsAt : WaitObj → Bool
  | .stopped n => decide (n ≠ 0)
  | .budget _ | .gangYield | .batchesYield _ _ | .pinBucket _ => false
  | _ => true

/-! ### Events that must wait (R180, R494) -/

/-- The request that a message brings to its home slice. -/
def arrivesAt : Instr → Option HomeReq
  | .homeRequest q | .homeWrite q | .homeAtomic q | .rowAtHome q | .sinkPacketAtHome q | .tbInitOp q | .tbExpectOp q
  | .tbArriveOp q | .tbWaitOp q | .tbTestOp q | .tbAbortOp q | .lockAtHome q | .unlockAtHome q => some q
  | _ => none

/-- Must a request wait before its home slice for a row that an accepted NMCMD writes through home (R180)? -/
def State.rowHeldAtHome (s : State) (q : HomeReq) : Bool :=
  !s.chans.isEmpty && (reqLines q).any fun lid => match s.translate (lineCtx lid) (lineVa lid) with
    | .ok l => s.rowHeld q.who false l.pa
    | .error _ => false

/-- Does a message or action in flight need a stopped unit, or wait for a row (R180, R494)? -/
def State.eventHeld (s : State) (e : Instr) : Bool :=
  let dieOf := fun (k : Nat) => dieOfCore (s.crewOf (SMap.get default s.teams k)).core
  match e with
  | .sageSearchDone _ | .deferredRescan _ | .freeQueueRetry _ => (List.range 4).any (s.unitDown 3)
  | .teamSave k | .pinSaveRetry k => s.unitDown 4 (dieOf k) && decide ((SMap.get default s.teams k).pins ≠ [])
  | .crewRestore _ core => s.unitDown 4 (dieOfCore core)
  | .translateRequest q => s.unitDown 8 (1 + controllerOf q.va) || s.unitDown 8 0 && (match s.translate q.ctx q.va with
    | .ok l => l.host
    | .error _ => false)
  | .submissionTake e => s.unitDown 8 (29 + e)
  | .acceptLaunchPacket p | .acceptLaunchRecord p | .singleInstanceAccept p _ => s.unitDown 5 p
  | .nodeStart i _ | .instanceComplete i => (match SMap.look s.insts i with
    | some x => s.unitDown 5 x.part
    | none => false)
  | .gridRetire h => s.unitDown 5 (s.gridAt h).part
  | .gatherWindowExpire c _ _ | .stealRequest c | .stealReply c _ => s.unitDown 7 c
  | .stealRequestReceive _ v => s.unitDown 7 v
  | _ => (match arrivesAt e with
    | some q => s.unitDown 0 (sliceOf q.va) || s.rowHeldAtHome q
    | none => false)

/-! ### The next instruction of a team (R216) -/

/-- Does a core issue? A fenced core and a die that has stopped for heat do not (R36, R445). -/
def State.coreRuns (s : State) (core : Nat) : Bool := !s.isFenced core && !s.hot.contains (dieOfCore core)

/-- May the team execute now, its next instruction apart: resident, not stopped, parked or due to yield? -/
def State.mayRun (s : State) (k : Nat) (t : Team) : Bool :=
  decide (t.place = .resident) && !t.halted && t.escals.isEmpty && t.pending.isEmpty &&
    (t.heldStop.isNone || t.trap.inHandler || t.reissue.isSome) &&
    (t.reissue.isSome || (decide (0 < t.ibud ∧ 0 < t.mbud) && !t.mustYield && !t.struck && !t.evict)) &&
    (match t.wait with
     | some o => s.waitOver k t o
     | none => true) &&
    s.coreRuns (s.crewOf t).core

/-- The words of the group that follows a SINK at a team's PC (R289, R473). -/
def State.sinkWords (s : State) (t : Team) (i : Instr) : List (Option (Except BadAccess Word)) :=
  match i with
  | .sink _ _ n => let c := s.crewOf t
    s.groupWords c.core c.ctx (s.gridAt c.grid).launch.codebase t.pc (n.val + 1)
  | _ => []

/-! ### The request pool (R24) -/

/-- Keys of the passes and lines of located accesses. -/
def State.passLines (s : State) (core ctx : Nat) (l : List (Nat × Nat × Nat)) : List Nat :=
  dedupNat (l.map fun p => let w := s.locate core ctx p.2.1; p.1 / 32 * 2 ^ 96 + lineId w.1 w.2)

/-- At most how many entries of the pool an instruction takes. -/
def poolBound (i : Instr) (ws : List Word) (t : Team) : Nat :=
  match i with
  | .prefetch _ _ _ => (t.actLanes i).length
  | .sink _ _ _ => (1 + ((groupInstrs ws).filter isGroupStore).length) * t.actives.length
  | .st8 _ _ _ | .st16 _ _ _ | .st32 _ _ _ | .st64 _ _ _ | .st128 _ _ _ => (memAccs i t).length
  | .scld _ _ _ => 64
  | .qsub _ => 1
  | .mma _ _ _ => 0
  | i => if usesPool i then (memAccs i t).length else 0

/-- How many entries an instruction takes: one for each request, to a line of a pass or for a row group, and for a sunk packet; lanes
that L1 serves take none, but for the stores of a group that runs at the core. -/
def State.poolNeed (s : State) (k : Nat) (i : Instr) (ws : List Word) (t : Team) (core ctx : Nat) : Nat :=
  let served := fun (va : Nat) =>
    let w := s.locate core ctx va
    match s.l1Line core (lineId w.1 w.2) with
    | some x => servedByL1 i t x
    | none => false
  match i with
  | .prefetch lvl a b => (({ s with cur := k } : State).prefetchReqs lvl a b).length
  | .sink _ _ _ =>
    let accs := anchorAccs ws t
    (s.passLines core ctx (accs.filter fun p => !served p.2.1)).length +
      ((groupInstrs ws).filter isGroupStore).length * (s.passLines core ctx (accs.filter fun p => served p.2.1)).length
  | .rowld _ _ _ => ((memAccs i t).filter fun p => (linesOfRange p.2.1 p.2.2).any fun va => !served va).length
  | .scld _ a b =>
    ((scaleChunks (bitsOf (t.rd b 0).toNat 16 2)).filter fun c => !(match s.l1Line core (lineId (s.locate core ctx (t.addr a 0 + c.2.1)).1
        (s.locate core ctx (t.addr a 0 + c.2.1)).2) with
      | some x => x.rd
      | none => false)).length
  | .qsub _ => 1
  | _ => (s.passLines core ctx ((memAccs i t).filter fun p => !served p.2.1)).length

/-- Has the core's pool the entries that an instruction needs (R24)? -/
def State.poolAllows (s : State) (k : Nat) (i : Instr) (ws : List Word) (t : Team) (core ctx : Nat) : Bool :=
  let most := poolBound i ws t
  decide (most = 0) || s.poolRoom core most || s.poolRoom core (s.poolNeed k i ws t core ctx)

/-- May a decoded instruction issue? A word of its group that faults stops it at issue. -/
def State.instrReady (s : State) (k : Nat) (t : Team) (i : Instr) : Bool :=
  let c := s.crewOf t
  let g := s.sinkWords t i
  let ws := (goodWords g).getD []
  g.all Option.isSome &&
    ((badWord g).isSome ||
      (!regsBusy t (regsNeeded i ws t) && s.ordersAllow k t i && !s.lineHeld t i c.core c.ctx (s.touched i ws t) &&
        !s.needsStopped c.core i && s.poolAllows k i ws t c.core c.ctx &&
        (match i with
         | .qsub _ => t.charged || !t.outs.any fun o => match o.instr with
           | .qsub _ => true
           | _ => false
         | .rowld _ _ b => !(decide (t.ord = 1 ∨ t.ord = 3) && (s.touched i ws t).any fun p =>
             (linesOfRange p.1 (t.rd b 0).toNat).any fun l =>
               let w := s.locate c.core c.ctx l
               s.updateWaits c.core (lineId w.1 w.2))
         | _ => true)))

/-- The word that a team may issue now; a fault of its fetch and a word that does not decode issue as traps. -/
def State.readyWord (s : State) (k : Nat) (t : Team) : Option (Except BadAccess Word) :=
  if !s.mayRun k t then none
  else match s.wordAtPc t with
    | none => none
    | some (.error b) => some (.error b)
    | some (.ok w) => (match decode w with
      | .error _ => some (.ok w)
      | .ok i => if s.instrReady k t i then some (.ok w) else none)

/-- The address of the first word that a team needs and its core does not hold. -/
def State.missingWord (s : State) (k : Nat) (t : Team) : Option Nat :=
  let c := s.crewOf t
  let base := (s.gridAt c.grid).launch.codebase
  if !s.mayRun k t then none
  else match s.wordAtPc t with
    | none => some (codeVa base t.pc)
    | some (.error _) => none
    | some (.ok w) => (match decode w with
      | .error _ => none
      | .ok i =>
        let g := s.sinkWords t i
        let n := (g.takeWhile Option.isSome).length
        if n < g.length then some (codeVa base (t.pc + BitVec.ofNat 32 (4 + 4 * n))) else none)

end Sys2Proof.Machine
end

