-- ==== Sys2Proof/Machine/Sched.lean ====
section
/-!
DEFINITION. What may happen next: the selection of teams for issue (08_scheduling R215 to R217), the boundaries at which a
team yields, stops or takes a trap (02_execution R61, 08_scheduling R225, 22_failure_model R437, R439), messages in flight
(05_memory R138 to R140), outside events, and the units that take up work of their own accord.
-/
namespace Sys2Proof.Machine

/-! ### Issue partitions and the active set (R215, R217) -/

/-- The issue partition of a team: four to a core, 32 slots each. -/
def State.issuePart (s : State) (t : Team) : Nat := 4 * (s.crewOf t).core + t.slot / 32

/-- Order of selection, smaller first (R217): overdue teams, the longest overdue first; then effective priority; then the
longest time since the team last issued. -/
def State.selectKey (s : State) (k : Nat) (t : Team) : Nat × Nat × Nat :=
  if t.overdue then (0, (t.readySince.getD 0), 0) else (1, 15 - s.effPrio k, t.lastIssue)

def keyLess (a b : Nat × Nat × Nat) : Bool :=
  decide (a.1 < b.1) || (decide (a.1 = b.1) && (decide (a.2.1 < b.2.1) || (decide (a.2.1 = b.2.1) && decide (a.2.2 < b.2.2))))

/-- The team of a list that comes first under R217, lowest key among equals. -/
def State.firstReady (s : State) : List Nat → Option Nat
  | [] => none
  | [k] => some k
  | k :: r => match s.firstReady r with
    | none => some k
    | some j => if keyLess (s.selectKey j (SMap.get default s.teams j)) (s.selectKey k (SMap.get default s.teams k)) then some j
        else some k

/-- The non-overdue active team that comes last under R217. -/
def State.lastActive (s : State) : List Nat → Option Nat
  | [] => none
  | k :: r =>
    if (SMap.get default s.teams k).overdue then s.lastActive r
    else match s.lastActive r with
      | none => some k
      | some j => if keyLess (s.selectKey j (SMap.get default s.teams j)) (s.selectKey k (SMap.get default s.teams k)) then some k
          else some j

/-- The waits of the closed list of R215: those expected to take longer than 64 clk. -/
def longWait : WaitObj → Bool
  | .sleep _ | .stopped _ | .pinBucket _ => false
  | _ => true

/-- A load that missed L1, or a sunk group. -/
def missedLoad (o : Outstanding) : Bool :=
  decide (o.cls = .sink) || (match o.instr with
    | .ld8 _ _ _ | .ld8s _ _ _ | .ld16 _ _ _ | .ld16s _ _ _ | .ld32 _ _ _ | .ld64 _ _ _ | .ld128 _ _ _ => true
    | _ => false)

/-- Does a team stand at the result of an L1-missing load or of a sunk group, or is it parked for a host's reply? -/
def State.atDependence (s : State) (t : Team) : Bool :=
  !t.escals.isEmpty || t.outs.any missedLoad && (match s.wordAtPc t with
    | some (.ok w) => (match decode w with
      | .ok i => regsBusy { t with outs := t.outs.filter missedLoad }
          (regsNeeded i ((goodWords (s.sinkWords t i)).getD []) t)
      | .error _ => false)
    | _ => false)

/-- Does a team of the active set meet a dependence of the list of R215? A wait that is over is none. -/
def State.leavesActive (s : State) (k : Nat) (t : Team) : Bool :=
  (match t.wait with
   | some o => longWait o && !s.waitOver k t o
   | none => false) || decide (t.place ≠ .resident) || s.atDependence t

/-- Fill the vacant places of one partition: `act` are its active teams, `rest` the ready pending ones. -/
def State.fillActive (s : State) : Nat → List Nat → List Nat → List Nat
  | 0, act, _ => act
  | n + 1, act, rest =>
    match s.firstReady rest with
    | none => act
    | some k =>
      if act.length < 8 then s.fillActive n (act ++ [k]) (rest.filter (· ≠ k))
      else if (SMap.get default s.teams k).overdue then
        match s.lastActive act with
        | some j => s.fillActive n (act.filter (· ≠ j) ++ [k]) (rest.filter (· ≠ k))
        | none => act
      else act

/-- Teams ready to issue. -/
def State.readyTeams (s : State) : List Nat :=
  (s.teams.filter fun p => (s.readyWord p.1 p.2).isSome).map Prod.fst

/-- Partitions that hold a team. -/
def State.partsInUse (s : State) : List Nat := dedupNat (s.teams.map fun p => s.issuePart p.2)

/-- The active set after the swaps of R215, given the teams that are ready. -/
def State.activeSet (s : State) (ready : List Nat) : List Nat :=
  s.partsInUse.flatMap fun p =>
    let here := s.teams.filter fun x => decide (s.issuePart x.2 = p)
    let stay := (here.filter fun x => x.2.active && !s.leavesActive x.1 x.2).map Prod.fst
    let rest := (here.filter fun x => ready.contains x.1 && !stay.contains x.1).map Prod.fst
    s.fillActive 32 stay rest

/-- SWAP: the active sets take their new members, each swap to the pending set is counted (R215, R273), and a team that has
become ready notes when; which teams stand at a dependence is noted for a halt (R437). -/
def State.swapTeams (s : State) : State :=
  let ready := s.readyTeams
  let act := s.activeSet ready
  let out := s.teams.filter fun p => p.2.active && !act.contains p.1
  let upd := fun (p : Nat × Team) =>
    (p.1, { p.2 with active := act.contains p.1, stalled := s.atDependence p.2,
                     readySince := if ready.contains p.1 then some (p.2.readySince.getD s.clk) else none,
                     overdue := p.2.overdue && ready.contains p.1 })
  let s := out.foldl (fun s p => s.countUnit 0 (s.crewOf p.2).core 8 7 1) s
  { s with teams := s.teams.map upd }

/-! ### The start of a step -/

/-- Is a wait over that a strike left standing (R218, R225)? Waits on memory end with their answer. -/
def State.standingOver (s : State) (k : Nat) (t : Team) : WaitObj → Bool
  | .barrier b tok => phaseOver (s.barAt b).c tok
  | .grid h => !s.handleRuns h.toNat
  | .gang m => !(s.crewOf t).rendezvous.contains (m, k)
  | .latch => !({ s with cur := k } : State).inLatch
  | _ => false

/-- Orders that are met end, waits that are over leave the table, settled values are forgotten, and a faulted fetch whose word did not issue is dropped (R160,
R162, R218, R473, R504). Orders stand until a faulted access has been issued again (R470), be its
trap held behind a sibling's handler (R439). -/
def State.tidyTeam (s : State) (k : Nat) (t : Team) : Team :=
  { t with
    standing := if t.charged then t.standing else t.standing.filter fun o => !s.standingOver k t o,
    waitUntracked := t.waitUntracked && t.waitsOn.isSome,
    untracked := t.waitUntracked && t.waitsOn.isSome || t.holdings.any (fun h => !h.tracked) ||
      decide (t.noHolder = []) && (match t.wait with
        | some (.pinBucket _) => true
        | _ => false),
    holds := if t.trap.inHandler || t.againDue then t.holds else t.holds.filter (s.holdOpen k t),
    unsettled := t.unsettled.filter fun p => s.writeOpen p.1,
    outs := t.outs.filter fun o => !(isFetch o && decide (o.pend = 0 ∧ o.pc ≠ t.pc)) }

/-- A step begins: its number, the clock, the swaps, and the peaks of the wait-for table (R274). -/
def State.begin (s : State) : State :=
  let s : State := { s with tick := s.tick + 1, clk := s.clk + Config.elapsed s.tick }
  let s : State := { s with teams := s.teams.map fun p => (p.1, s.tidyTeam p.1 p.2) }
  s.swapTeams.notePeaks

/-! ### Choices -/

/-- One thing that may happen next. -/
inductive Choice where
  /-- The first outside event that waits. -/
  | outside (e : Instr)
  /-- A message or action in flight. -/
  | flight (p : Pending)
  /-- A team issues a word. -/
  | issue (k : Nat) (w : Word)
  /-- A team's core asks for the line of a word. -/
  | fetch (k va : Nat)
  /-- A faulted fetch is reported at the team's word. -/
  | fetchFault (k : Nat) (b : BadAccess)
  /-- A halted sibling stops. -/
  | stop (k : Nat)
  /-- A held fault, or a held stop of a sink group, is delivered. -/
  | deliver (k : Nat)
  | heldStop (k : Nat)
  /-- A team yields, or one that is parked is saved. -/
  | yield (k : Nat)
  | save (k : Nat)
  /-- A pin slot is cleared behind earlier accesses. -/
  | forward (k : Nat)
  | unpin (k out n : Nat)
  /-- A team goes on after BWAITY, or becomes overdue. -/
  | reactivate (k : Nat)
  | overdue (k : Nat)
  /-- A Drover engine, a launch unit or a matrix datapath takes its next work. -/
  | accept (engine : Nat)
  | launch (part : Nat)
  | matrix (core : Nat)
  /-- An invalidation of ICINV completes. -/
  | invalidate (core : Nat)
  /-- A core pool grants its first claim; a cluster takes up work that it can place. -/
  | claims (core : Nat)
  | place (cluster : Nat)
  /-- A team waits for a stopped unit; a counter of time counts on. -/
  | down (k : Nat)
  | count (off : Nat)
  deriving DecidableEq

/-- Outside events: host and peer requests, completions, errors, temperatures, link changes, and writes of management
registers. -/
def isOutside : Instr → Bool
  | .strike _ | .linkDown | .hostLinkUp | .hostAccess _ | .hostCompletionTimeout _ | .hostCompletion _ _ _ | .hostSnoop _ _
  | .peerPortDown _ | .peerPortUp _ | .correctableError _ | .uncorrectableError _ _ | .coreFence _ _ | .unitSramError _ _ _
  | .thermalSample _ | .thermalTrip _ | .reset _ _ | .tlbinv _ | .remapRead _ | .remapWrite _ | .remapWriteAll _ | .attgo _
  | .pfrespRetry _ | .pfrespFail _ | .pfrespTerminate _ | .deadlkReexecute _ | .deadlkDeliver _ | .deadlkTerminate _
  | .deadlkAdmit _ | .wftovfAdmitUntracked _ | .wftovfRetry _ | .wftovfTerminate _ | .pptRetry _ | .pptTerminate _
  | .topupRefill _ | .topupLeaveParked _ | .topupTerminate _ | .fencePlace _ | .fenceTerminate _ | .collabtSendAbort _
  | .collabtSendNothing _ | .ctxkill _ | .abtclr _ | .counterValueWrite _ _ | .partmapWrite _ _ | .managementWrite _ _
  | .inboundWrite _ | .inboundStep _ | .arrivalReport _ | .refusalReport _ _ | .abortMessage _ => true
  | .tbAbortOp q => decide (q.who = .nobody)
  | _ => false

/-- Events that a device whose boot failed still takes (R268). -/
def bootTakes : Instr → Bool
  | .linkDown | .hostLinkUp | .thermalSample _ | .thermalTrip _ | .reset _ _ | .attgo _ | .managementWrite _ _
  | .hostAccess _ => true
  | _ => false

/-- Does the device take an outside event now? Without power it takes only a reset (R36). -/
def State.takes (s : State) (e : Instr) : Bool :=
  isOutside e && (if !s.powered then (match e with
      | .reset _ _ => true
      | _ => false)
    else !s.bootFailed || bootTakes e)

/-- Must an outside event wait: a snoop for a request of the bridge that conflicts with it and reached the host first (R141), a
host access for a row that an accepted NMCMD writes (R180)? -/
def State.inputHeld (s : State) (e : Instr) : Bool :=
  match e with
  | .hostSnoop h _ => s.halfAsked h && decide (Config.pick (s.tick + 1) % 2 = 0)
  | .hostAccess r => s.hostHeld r
  | _ => false

/-- Messages and actions that may happen: due, first on their channel, and needing no stopped unit. -/
def State.eligible (s : State) : List Pending → List Chan → List Pending
  | [], _ => []
  | p :: r, seen =>
    let free := decide (p.chan = .free)
    let rest := s.eligible r (if free then seen else p.chan :: seen)
    if (free || !seen.contains p.chan) && (decide (p.due = 0) || decide (p.due ≤ s.clk)) && !s.eventHeld p.ev then p :: rest
    else rest

/-- The team that an issue partition selects (R216, R217): the first under R217 of its ready active teams whose operands
and unit are available. -/
def State.selected (s : State) (ready : List Nat) (part : Nat) : Option Nat :=
  let here := ready.filter fun k =>
    let t := SMap.get default s.teams k
    t.active && decide (s.issuePart t = part)
  match here with
  | [] => none
  | [k] => some k
  | _ =>
    let now := here.filter fun k => !Config.unitBusy s.tick k
    s.firstReady (if now = [] then here else now)

/-- Must a team yield at the boundary where it stands (R61, R225)? -/
def mustYieldNow (t : Team) : Bool :=
  decide (t.place = .resident) && t.reissue.isNone && t.heldStop.isNone && t.halt.isNone &&
    (t.struck || t.evict || ((decide (t.ibud ≤ 0 ∨ t.mbud ≤ 0) || t.mustYield) && !t.halted && t.pending.isEmpty && t.escals.isEmpty &&
      (match t.wait with
       | some (.sleep _) => false
       | _ => true))) &&
    (match t.wait with
     | some o => stallsAt o
     | none => true)

/-- Is a team that is chosen for eviction parked, having yielded before? -/
def parkedForSave (t : Team) : Bool :=
  decide (t.place = .resident) && t.evict && (match t.wait with
    | some (.budget _) | some .gangYield | some (.batchesYield _ _) => true
    | _ => false)

/-- May a held stop of a sink group be raised now (R460)? The group has returned whole, and its fault goes first. -/
def State.stopDue (s : State) (k : Nat) (t : Team) : Bool :=
  match t.heldStop with
  | none => false
  | some (_, pc) => decide (t.place = .resident) && t.reissue.isNone && !t.trap.inHandler && !t.halted &&
      !t.outs.any (fun o => decide (o.pc = pc) && !isFetch o) && !t.pending.any (fun p => decide (p.2 = pc)) &&
      decide ((s.crewOf t).handler = none ∨ (s.crewOf t).handler = some k)

/-- Is the team the one that takes the next held fault of its crew (R439)? -/
def State.faultDue (s : State) (k : Nat) (t : Team) : Bool :=
  decide (t.pending ≠ [] ∧ t.place = .resident ∧ (s.crewOf t).handler = none) &&
    ((s.teamsOfCrew t.crew).find? (fun j => decide ((SMap.get default s.teams j).pending ≠ []))) == some k

/-- The pin slots that may be cleared behind a team's earlier accesses (R366). -/
def State.unpinsDue (s : State) (k : Nat) (t : Team) : List (Nat × Nat) :=
  t.outs.filterMap fun o => match o.instr with
    | .unpin n => if s.accessOpen k t o.id then none else some (o.id, n.val)
    | _ => none

/-- The fault of the word at a team's PC, when its fetch has brought one (R473). -/
def fetchBad (t : Team) (lid : Nat) : Option BadAccess :=
  (t.outs.find? fun o => isFetch o && decide (o.pend = 0 ∧ o.pc = t.pc) && o.lines.contains lid).bind Outstanding.bad

/-- What a team may do, its selection for issue apart. -/
def State.teamChoices (s : State) (k : Nat) (t : Team) (ready : Bool) : List Choice :=
  (if t.halt.isSome && !ready then [.stop k] else []) ++
  (if s.faultDue k t then [.deliver k] else []) ++
  (if s.stopDue k t then [.heldStop k] else []) ++
  (if mustYieldNow t then [.yield k] else []) ++
  (if parkedForSave t then [.save k] else []) ++
  (if (s.nextBehind t).isSome then [.forward k] else []) ++
  (s.unpinsDue k t).map (fun p => .unpin k p.1 p.2) ++
  (match t.wait with
   | some (.batchesYield n _) => if decide (t.place = .resident ∧ t.unfinished ≤ n) then [.reactivate k] else []
   | _ => []) ++
  (match s.missingWord k t with
   | some va =>
     let lid := lineId (s.ctxOf t) va
     if t.outs.any fun o => isFetch o && decide (o.pend > 0) && o.lines.contains lid then []
     else (match fetchBad t lid with
       | some b => [.fetchFault k b]
       | none => [.fetch k va])
   | none => [])

/-- Ready teams that become overdue: 160 rounds without issuing beside other teams of their partition (R217). -/
def State.overdueNow (s : State) (ready : List Nat) (k : Nat) (t : Team) : Bool :=
  !t.overdue && ready.contains k && s.teams.any (fun p => decide (p.1 ≠ k ∧ s.issuePart p.2 = s.issuePart t)) &&
    decide (t.readySince.getD s.clk + 160 ≤ s.clk)

/-- Cores on which a claim is registered (R88). -/
def State.claimCores (s : State) : List Nat :=
  dedupNat ((s.teams.filter fun p => p.2.claims.isSome).map fun p => (s.crewOf p.2).core)

/-- Does a team stand at an instruction that needs a stopped unit, for which it does not wait yet (R494)? -/
def State.meetsStopped (s : State) (k : Nat) (t : Team) : Bool :=
  t.wait.isNone && s.mayRun k t && (match s.standsAt t with
    | some i => s.needsStopped (s.crewOf t).core i
    | none => false)

/-- The team waits for the stopped unit, with an entry of the wait-for table that has no holder (R494). -/
def State.waitStopped (s : State) (k : Nat) : State :=
  (s.addNoHolder k).mapTeam k fun t => { t with wait := some (.stopped 1), waitSince := s.tick }

/-- EVERYTHING THAT MAY HAPPEN NEXT. A team whose 160 rounds are over becomes overdue before anything else (R217). -/
def State.choices (s : State) : List Choice :=
  let outside := match s.inputs.find? fun e => !s.inputHeld e with
    | some e => [Choice.outside e]
    | none => []
  if !s.powered || s.bootFailed then outside
  else
    let ready := s.readyTeams
    let late := (s.teams.filter (fun p => s.overdueNow ready p.1 p.2)).map (fun p => Choice.overdue p.1)
    if late ≠ [] then late
    else outside ++ (s.eligible s.agenda []).map .flight ++
    (s.partsInUse.filterMap (s.selected ready)).filterMap (fun k =>
      match s.readyWord k (SMap.get default s.teams k) with
      | some (.ok w) => some (.issue k w)
      | some (.error b) => some (.fetchFault k b)
      | none => none) ++
    s.teams.flatMap (fun p => s.teamChoices p.1 p.2 (ready.contains p.1)) ++
    (s.droverEngines.filter (fun e => !s.unitDown 2 (dieOfEngine e) && s.droverReady e)).map .accept ++
    ((List.range 4).filter (fun p => !s.unitDown 5 p && s.launchReady p)).map .launch ++
    (s.cores.filter (fun p => p.2.jobs ≠ [] && (s.nextJob p.1).isSome)).map (fun p => .matrix p.1) ++
    (s.cores.filter (fun p => p.2.icinvs ≠ [])).map (fun p => .invalidate p.1) ++
    (s.claimCores.filter s.claimDue).map .claims ++ (s.workClusters.filter s.placeReady).map .place ++
    (if s.stopped = [] then [] else (s.teams.filter fun p => s.meetsStopped p.1 p.2).map fun p => .down p.1) ++
    (if (s.reg 0x100).getLsbD 7 && (s.reg 0x108).getLsbD 63 then s.timeCounters.map .count else [])

/-- The choice taken: the only one, or one of several (R165, R216). -/
def State.choose (s : State) : Option Choice :=
  match s.choices with
  | [] => none
  | [c] => some c
  | cs => cs[Config.pick s.tick % cs.length]?

/-! ### What a choice does -/

/-- A wait for a stopped unit is no registration that an instruction completes. -/
def stands : WaitObj → Bool
  | .stopped _ => false
  | _ => true

/-- The state in which a team issues: it runs, an over wait is taken up again, and the issue is counted (R216, R273). -/
def State.issuing (s : State) (k : Nat) : State :=
  let s : State := { s with cur := k }
  let s := s.mapMe fun t => { t.unregistered with
    standing := (if t.wait.isSome then t.waitsOn else t.standing).filter stands,
    standSince := if t.wait.isSome && t.standing.isNone then t.waitSince else t.standSince, wait := none,
    lastIssue := s.tick, readySince := none, overdue := false }
  (s.countUnit 0 s.myCore 8 1 1).countUnit 0 s.myCore 8 2 (max 1 s.me.passCount)

/-- Has an issued instruction completed, that is, not stalled, trapped or faulted at once? `t` is the team before it, `u` after it. -/
def issuedWhole (t u : Team) : Bool :=
  decide (u.pending.length = t.pending.length) && (match u.wait with
    | none => true
    | some o => decide (u.pc ≠ t.pc) || (!stallsAt o && (match o with
        | .stopped _ => false
        | _ => true)))

/-- After an issue: a sibling that a halt has reached counts it if it completed, and stops with its skid or where it waits (R437). `t`
is the team before it. -/
def State.afterIssue (s : State) (k : Nat) (t : Team) : State :=
  s.mapTeam k fun u => match u.halt with
    | none => u
    | some h =>
      let n := if issuedWhole t u then h.count + 1 else h.count
      if h.left ≤ 1 ∨ u.wait.isSome ∨ u.pending ≠ [] then u.stopHalted { h with count := n }
      else { u with halt := some { h with left := h.left - 1, count := n } }

/-- Apply a function to a next state. -/
def mapNext (f : State → State) : Host.Outcome State Fault Refusal → Host.Outcome State Fault Refusal
  | .next s => .next (f s)
  | .fault e => .fault e
  | .refused r => .refused r

/-- The trap of a word that does not decode (R275, R450). -/
def decodeTrap (e : DecodeErr) (w : Word) : TrapRec := preciseTrap 1 e.sub w.toNat 0

/-- The request of a core for the line at `va`, which the team's word at `pc` needs (R134, R473). -/
def State.requestLine (s : State) (k : Nat) (t : Team) (pc : Word) (va : Nat) : State :=
  let c := s.crewOf t
  let o := { newOut t .nop .load [] [lineId c.ctx va] with pend := 1, pc := pc }
  let kept := t.outs.filter fun x => !(isFetch x && decide (x.pend = 0))
  (s.setTeam k { t with outs := kept ++ [o], nextOut := t.nextOut + 1 }).request
    ⟨.team k o.id, c.core, c.ctx, va, .fetch, [⟨0, va, 0, 0⟩]⟩

/-- A core asks for the line that holds a word which a team needs and the core lacks. -/
def State.sendFetch (s : State) (k va : Nat) : State :=
  match SMap.look s.teams k with
  | none => s
  | some t => s.requestLine k t t.pc va

/-- Is an issued word a control transfer (R33)? `t` is the team before it, `u` after it; `none` is a word that does not decode. A
branch or LEND that traps transfers nothing. -/
def transfers (i : Option Instr) (t u : Team) : Bool :=
  let taken := fun (target : Word) => t.guardAny && decide (target.toNat % 4 = 0)
  match i with
  | some .rett | some .exit | some (.trap _) | some (.syscall _) => true
  | some (.br _) | some (.call _) => t.guardAny
  | some (.bri a) | some (.calli a) => taken (t.rd a 0)
  | some .ret => taken (t.readS 61)
  | some (.lend _) => decide (t.mask ≠ 0) && (match t.stack with
    | e :: _ => e.loop
    | [] => false)
  | some (.bwaity _ _) => (match u.wait with
    | some (.batchesYield _ _) => true
    | _ => false)
  | some .yield => t.contpc.getLsbD 0
  | _ => false

/-- The last word that an instruction at `pc` takes: that of its group for SINK, else its own. -/
def lastPc (i : Option Instr) (pc : Word) : Word :=
  match i with
  | some (.sink _ _ n) => pc + BitVec.ofNat 32 (4 * (n.val + 1))
  | _ => pc

/-- The only fetch ahead (R33): when the last word of a line has issued and is no control transfer, the next sequential line
is requested, unless the core holds it or the team has asked for it. `t` is the team before the issue. -/
def State.sequentialFetch (s : State) (k : Nat) (i : Option Instr) (t : Team) : State :=
  match SMap.look s.teams k with
  | none => s
  | some u =>
    let c := s.crewOf u
    let base := (s.gridAt c.grid).launch.codebase
    let last := lastPc i t.pc
    let va := codeVa base (last + 4)
    if codeVa base last % 128 < 124 || transfers i t u || (s.codeWord c.core c.ctx va).isSome ||
        u.outs.any (fun o => isFetch o && decide (o.pend > 0) && o.lines.contains (lineId c.ctx va)) then s
    else s.requestLine k u (last + 4) va

/-- What follows the issue of a word by team `k`, which stood as `t` before it: the fetch of the next line, and a halt's count
(R33, R437). -/
def State.ranWord (s : State) (k : Nat) (i : Option Instr) (t : Team) : State := (s.sequentialFetch k i t).afterIssue k t

/-- A fetch fault is reported at the word (R473). -/
def State.fetchTrapNow (s : State) (k : Nat) (b : BadAccess) : State :=
  match SMap.look s.teams k with
  | none => s
  | some t =>
    let s := s.setTeam k { t.unregistered with
                                  outs := t.outs.filter fun x => !(isFetch x && decide (x.pend = 0)), wait := none,
                                  standing := if t.wait.isSome then t.waitsOn else t.standing }
    s.takeTrap k (fetchTrap t b) t.pc t.pc

/-- A held fault is delivered (R439). -/
def State.deliverHeld (s : State) (k : Nat) : State :=
  match SMap.look s.teams k with
  | none => s
  | some t => match t.pending with
    | (r, pc) :: rest => (s.setTeam k { t with pending := rest }).takeTrap k r pc (resumePc r pc)
    | [] => s

/-- A held stop of a sink group is raised (R460). -/
def State.raiseStop (s : State) (k : Nat) : State :=
  match SMap.look s.teams k with
  | none => s
  | some t => match t.heldStop with
    | some (r, pc) =>
      (s.setTeam k { t with heldStop := t.laterStops.head?, laterStops := t.laterStops.tail }).takeTrap k r pc pc
    | none => s

/-- A parked team that is chosen for eviction is saved (R226). -/
def State.saveParked (s : State) (k : Nat) : State :=
  (s.mapTeam k fun t => { t with place := .saving }).send .free (.teamSave k)

/-- The slot of an UNPIN that waited is cleared (R366). -/
def State.clearLate (s : State) (k out n : Nat) : State :=
  (s.mapTeam k fun t => { t with outs := t.outs.filter fun o => decide (o.id ≠ out) }).unpinSlot k n

end Sys2Proof.Machine
end

