-- ==== Sys2Proof/Machine/Step.lean ====
section
/-!
DEFINITION. The step of the device: one thing that may happen next happens (06_consistency R165, 08_scheduling R216). Nothing
is defined here that a test could show wrong: the choices, and what they do besides executing an instruction, stand in
Machine/Sched.lean.
-/
namespace Sys2Proof.Machine

/-- A team issues a word: the decoded instruction executes, or the word traps (R275). -/
def runWord (k : Nat) (w : Word) (s : State) : Host.Outcome State Fault Refusal :=
  let s := s.issuing k
  match decode w with
  | .ok i => mapNext (fun u => u.ranWord k (some i) s.me) (exec i s)
  | .error e => .next ((s.trap (decodeTrap e w)).ranWord k none s.me)

/-- One choice happens. -/
def runChoice (s : State) : Choice → Host.Outcome State Fault Refusal
  | .outside e =>
    let s' : State := { s with inputs := s.inputs.erase e }
    if s.takes e then exec e s' else .next s'
  | .flight p => exec p.ev { s with agenda := s.agenda.erase p }
  | .issue k w => runWord k w s
  | .fetch k va => .next (s.sendFetch k va)
  | .fetchFault k b => .next (s.fetchTrapNow k b)
  | .stop k => .next (s.mapTeam k fun t => match t.halt with
    | some h => t.stopHalted h
    | none => t)
  | .deliver k => .next (s.deliverHeld k)
  | .heldStop k => .next (s.raiseStop k)
  | .yield k => exec (.budgetYield k) s
  | .save k => .next (s.saveParked k)
  | .forward k => .next (s.forward k)
  | .unpin k out n => .next (s.clearLate k out n)
  | .reactivate k => exec (.bwaityReactivate k) s
  | .overdue k => exec (.selectionOverdue k) s
  | .accept e => exec (.droverAccept e) s
  | .launch p => exec (.acceptLaunchPacket p) s
  | .matrix c => (match s.nextJob c with
    | some (.mma _) => exec (.mmaFinish c) s
    | _ => exec (.accumulatorOpDone c) s)
  | .invalidate c => .next (s.invalidateNext c)
  | .claims c => exec (.claimGrant c) s
  | .place c => exec (.crewPlace c) s
  | .down k => .next (s.waitStopped k)
  | .count off => .next (s.countTime off)

/-- THE STEP. With nothing that may happen, time passes. -/
def step (s : State) : Host.Outcome State Fault Refusal :=
  let s := s.begin
  match s.choose with
  | none => .next s
  | some c => runChoice s c

/-- A state in which the next step issues the word `w`: a grid of one crew of one team of one lane stands on core 0, and the
instruction cache holds the word at its PC (log entry 4). -/
def State.withFetchWord (s : State) (nbits w : Nat) : State :=
  let word : Word := BitVec.ofNat 32 (w % 2 ^ nbits)
  let r : LaunchRec := { vregs := 192, ibudInit := 1048576, mbudInit := 1048576, iquant := 1048576, mquant := 1048576 }
  let t : Team := { crew := 1, mask := 1, window := 192, ibud := 1048576, mbud := 1048576, active := true }
  let c : Crew := { grid := 1, ctx := 0, core := 0, teams := 1 }
  let g : Grid := { launch := r, dealt := 1 }
  let core : CoreState := { icache := [(0, { data := word.zeroExtend 1024, ex := true })] }
  { s with inputs := [], agenda := [], teams := [(16, t)], crews := [(1, c)], grids := [(1, g)], cores := [(0, core)],
           nextHandle := max 2 s.nextHandle, nextId := max 2 s.nextId, powered := true, bootFailed := false,
           hot := [], packets := [], launches := [], chans := [] }

end Sys2Proof.Machine
end

