-- ==== Sys2Proof/Safety.lean ====
section
/-!
DEFINITION. What a safe run is, in the terms that statements use: a step that goes on, and the forms that the data of a
state keep: memories in their canonical form, and the hard-wired registers s63 and p7 with nothing of their own (R67, R71).
-/
namespace Sys2Proof.Machine

/-- The step goes on to a next state. -/
def GoesOn (s : State) : Prop := ∃ t, step s = .next t

/-- Device memory and the local memory of every crew have the canonical form. -/
def State.memOk (s : State) : Bool := Memory.wf s.dram && s.crews.all fun p => Memory.wf p.2.mem

/-- A team holds nothing under the numbers of s63 and of p7 (R67, R71). -/
def Team.hardWired (t : Team) : Bool :=
  (SMap.look t.sregs 63).isNone && (SMap.look t.preds 7).isNone

/-- Every team of the device. -/
def State.hardWired (s : State) : Bool := s.teams.all fun p => p.2.hardWired

end Sys2Proof.Machine
end

