-- ==== Sys2Proof/Certificates/Slice0/Obligations.lean ====
section
/-!
DEFINITION. The statements of this model: what each instruction and each event of the device does, where it traps, what it
leaves alone, and the rules of the whole machine. A statement that rests on a choice of the model says so and names the log
entry.
-/
namespace Sys2Proof.Claims

open Sys2Proof.Machine

/-! ### The words the statements are made of -/

/-- The running team issues `i`: no rule of R450 refuses the word, it has not been charged before, and it is no re-issue. -/
def Issues (i : Instr) (s : State) : Prop :=
  decodeCheck i s.me = none ∧ s.me.stood = none ∧ s.me.reissue = none

/-- The lanes of a destination: the active lanes of a vector register, one for a scalar register (R69). -/
def destLanes (t : Team) : Reg → List Nat
  | .v _ => t.actives
  | .s _ => [0]

/-- `u` holds `f l` in every written lane of `d`, and what `t` holds everywhere else; a write to s63 is discarded (R67, R69). -/
def Wrote (t u : Team) (d : Reg) (f : Nat → Word) : Prop :=
  (d ≠ .s 63 → ∀ l ∈ destLanes t d, u.rd d l = f l) ∧
  (∀ r l, l < 1024 → ¬ (r = d ∧ d ≠ .s 63 ∧ l ∈ destLanes t d) → ¬ (r = d ∧ isVec d = false) → u.rd r l = t.rd r l) ∧
  (d = .s 63 → u.sregs = t.sregs)

/-- As `Wrote`, for the pair that starts at an even register (R68). -/
def Wrote64 (t u : Team) (d : Reg) (f : Nat → BitVec 64) : Prop :=
  (∀ l ∈ destLanes t d, u.rd d l = (f l).setWidth 32 ∧
    u.rd (regAt d 1) l = if regAt d 1 = .s 63 then 0 else (f l).extractLsb' 32 32) ∧
  (∀ r l, l < 1024 → r ≠ d → r ≠ regAt d 1 → u.rd r l = t.rd r l) ∧
  (isVec d = true → ∀ r l, l < 1024 → l ∉ t.actives → u.rd r l = t.rd r l)

/-- THE FRAME of an instruction that writes registers only: the team goes on at the next word, `i` is charged to IBUD, and
every other field of the team, every other team and all the rest of the device stay as they were. -/
def RegsOnly (s : State) (i : Instr) (post : Team → Prop) : Prop :=
  ∃ u, exec i s = .next (s.setMe u) ∧
    u = { s.me with pc := s.me.pc + 4, ibud := chargeTo s.me.ibud (issueCharge i s.me), stood := none, admission := 0, vregs := u.vregs, sregs := u.sregs, preds := u.preds } ∧ post u

/-- `i` writes `f` to the register `d`, and nothing else. -/
def Gives (s : State) (i : Instr) (d : Reg) (f : Nat → Word) : Prop :=
  Issues i s → RegsOnly s i fun u => u.preds = s.me.preds ∧ Wrote s.me u d f

/-- `i` writes `f` to the pair `d`, and nothing else. -/
def Gives64 (s : State) (i : Instr) (d : Reg) (f : Nat → BitVec 64) : Prop :=
  Issues i s → RegsOnly s i fun u => u.preds = s.me.preds ∧ Wrote64 s.me u d f

/-- `i` writes the predicate `p` in the active lanes, and nothing else; a write to p7 is discarded (R69, R71). -/
def GivesPred (s : State) (i : Instr) (p : Nat) (f : Nat → Bool) : Prop :=
  Issues i s → RegsOnly s i fun u => u.vregs = s.me.vregs ∧ u.sregs = s.me.sregs ∧
    (∀ q, q ≠ p ∨ p = 7 → u.predMask q = s.me.predMask q) ∧
    (p ≠ 7 → ∀ l, (l ∈ s.me.actives → u.pred p l = f l) ∧ (s.me.live.getLsbD l = false → u.pred p l = s.me.pred p l))


/-! ### Integer words (R310 to R321) -/

/-- A register as lane `l` of the running team reads it. -/
def rdl (s : State) (r : Reg) (l : Nat) : Word := s.me.rd r l

/-- The high and the low half of a word. -/
def hiHalf (x : Word) : BitVec 16 := x.extractLsb' 16 16
def loHalf (x : Word) : BitVec 16 := x.extractLsb' 0 16

/-- A whole number clamped to the signed range of `w` bits (R95). -/
def clampTo (w : Nat) (x : Int) : BitVec w :=
  BitVec.ofInt w (if x < -(2 ^ (w - 1) : Nat) then -(2 ^ (w - 1) : Nat)
    else if (2 ^ (w - 1) : Nat) ≤ x then (2 ^ (w - 1) : Nat) - 1 else x)

end Sys2Proof.Claims

open Sys2Proof Sys2Proof.Machine Sys2Proof.Claims

/-- R311: the three moves, in every form of destination and source. -/
def Sys2Proof.Claims.MovesGiveTheirSource : Prop :=
  ∀ (s : State) (d a : Reg) (imm : BitVec 16),
    Gives s (.mov d a) d (fun l => rdl s a l) ∧
    Gives s (.movi d imm) d (fun _ => imm.signExtend 32) ∧
    Gives s (.movhi d imm) d (fun l => imm ++ loHalf (rdl s d l))

/-- R312 without SAT, on one 32-bit element: the results wrap modulo 2³². -/
def Sys2Proof.Claims.WordArithmeticWraps : Prop :=
  ∀ (s : State) (d a b : Reg) (imm : BitVec 16), s.me.etype ≠ 4 → s.me.sat = false →
    Gives s (.add d a b) d (fun l => rdl s a l + rdl s b l) ∧
    Gives s (.addi d imm) d (fun l => rdl s d l + imm.signExtend 32) ∧
    Gives s (.sub d a b) d (fun l => rdl s a l - rdl s b l) ∧
    Gives s (.mul d a b) d (fun l => rdl s a l * rdl s b l) ∧
    Gives s (.mad d a b) d (fun l => rdl s a l * rdl s b l + rdl s d l)

/-- R312 with SAT, on one 32-bit element: the exact result is clamped once to the signed range. -/
def Sys2Proof.Claims.WordArithmeticSaturates : Prop :=
  ∀ (s : State) (d a b : Reg) (imm : BitVec 16), s.me.etype ≠ 4 → s.me.sat = true →
    Gives s (.add d a b) d (fun l => clampTo 32 ((rdl s a l).toInt + (rdl s b l).toInt)) ∧
    Gives s (.addi d imm) d (fun l => clampTo 32 ((rdl s d l).toInt + imm.toInt)) ∧
    Gives s (.sub d a b) d (fun l => clampTo 32 ((rdl s a l).toInt - (rdl s b l).toInt)) ∧
    Gives s (.mul d a b) d (fun l => clampTo 32 ((rdl s a l).toInt * (rdl s b l).toInt)) ∧
    Gives s (.mad d a b) d (fun l => clampTo 32 ((rdl s a l).toInt * (rdl s b l).toInt + (rdl s d l).toInt))

/-- R312 under ETYPE 4: each 16-bit element on its own, wrapping without SAT and clamped with it. -/
def Sys2Proof.Claims.PackedArithmeticPerElement : Prop :=
  ∀ (s : State) (d a b : Reg) (imm : BitVec 16), s.me.etype = 4 →
    let each := fun (f : BitVec 16 → BitVec 16 → BitVec 16 → BitVec 16) (x y z : Word) =>
      f (hiHalf x) (hiHalf y) (hiHalf z) ++ f (loHalf x) (loHalf y) (loHalf z)
    let clamped := fun (f : Int → Int → Int → Int) (x y z : Word) =>
      clampTo 16 (f (hiHalf x).toInt (hiHalf y).toInt (hiHalf z).toInt) ++
      clampTo 16 (f (loHalf x).toInt (loHalf y).toInt (loHalf z).toInt)
    (s.me.sat = false →
      Gives s (.add d a b) d (fun l => each (fun x y _ => x + y) (rdl s a l) (rdl s b l) 0) ∧
      Gives s (.addi d imm) d (fun l => each (fun x _ _ => x + imm) (rdl s d l) 0 0) ∧
      Gives s (.sub d a b) d (fun l => each (fun x y _ => x - y) (rdl s a l) (rdl s b l) 0) ∧
      Gives s (.mul d a b) d (fun l => each (fun x y _ => x * y) (rdl s a l) (rdl s b l) 0) ∧
      Gives s (.mad d a b) d (fun l => each (fun x y z => x * y + z) (rdl s a l) (rdl s b l) (rdl s d l))) ∧
    (s.me.sat = true →
      Gives s (.add d a b) d (fun l => clamped (fun x y _ => x + y) (rdl s a l) (rdl s b l) 0) ∧
      Gives s (.addi d imm) d (fun l => clamped (fun x _ _ => x + imm.toInt) (rdl s d l) 0 0) ∧
      Gives s (.sub d a b) d (fun l => clamped (fun x y _ => x - y) (rdl s a l) (rdl s b l) 0) ∧
      Gives s (.mul d a b) d (fun l => clamped (fun x y _ => x * y) (rdl s a l) (rdl s b l) 0) ∧
      Gives s (.mad d a b) d (fun l => clamped (fun x y z => x * y + z) (rdl s a l) (rdl s b l) (rdl s d l))) ∧
    Gives s (.min d a b) d (fun l => each (fun x y _ => if y.slt x then y else x) (rdl s a l) (rdl s b l) 0) ∧
    Gives s (.max d a b) d (fun l => each (fun x y _ => if x.slt y then y else x) (rdl s a l) (rdl s b l) 0) ∧
    Gives s (.minu d a b) d (fun l => each (fun x y _ => if y.ult x then y else x) (rdl s a l) (rdl s b l) 0) ∧
    Gives s (.maxu d a b) d (fun l => each (fun x y _ => if x.ult y then y else x) (rdl s a l) (rdl s b l) 0) ∧
    Gives s (.abs d a) d (fun l => each (fun x _ _ => if x.msb then -x else x) (rdl s a l) 0 0) ∧
    Gives s (.neg d a) d (fun l => each (fun x _ _ => -x) (rdl s a l) 0 0)

/-- R313 and R314 on one 32-bit element: high products, minimum and maximum, and the wrapping ABS and NEG, SAT or not. -/
def Sys2Proof.Claims.ExtremesAndHighProducts : Prop :=
  ∀ (s : State) (d a b : Reg), 
    (Gives s (.mulhi d a b) d (fun l => (((rdl s a l).signExtend 64 * (rdl s b l).signExtend 64).extractLsb' 32 32)) ∧
     Gives s (.mulhu d a b) d (fun l => (((rdl s a l).zeroExtend 64 * (rdl s b l).zeroExtend 64).extractLsb' 32 32))) ∧
    (s.me.etype ≠ 4 →
      Gives s (.min d a b) d (fun l => if (rdl s b l).slt (rdl s a l) then rdl s b l else rdl s a l) ∧
      Gives s (.max d a b) d (fun l => if (rdl s a l).slt (rdl s b l) then rdl s b l else rdl s a l) ∧
      Gives s (.minu d a b) d (fun l => if (rdl s b l).ult (rdl s a l) then rdl s b l else rdl s a l) ∧
      Gives s (.maxu d a b) d (fun l => if (rdl s a l).ult (rdl s b l) then rdl s b l else rdl s a l) ∧
      Gives s (.abs d a) d (fun l => if (rdl s a l).msb then -(rdl s a l) else rdl s a l) ∧
      Gives s (.neg d a) d (fun l => -(rdl s a l)))

/-- R315: the logic and bit-counting words, whatever MODE holds. -/
def Sys2Proof.Claims.LogicAndBitCounts : Prop :=
  ∀ (s : State) (d a b : Reg),
    Gives s (.and d a b) d (fun l => rdl s a l &&& rdl s b l) ∧
    Gives s (.or d a b) d (fun l => rdl s a l ||| rdl s b l) ∧
    Gives s (.xor d a b) d (fun l => rdl s a l ^^^ rdl s b l) ∧
    Gives s (.andn d a b) d (fun l => rdl s a l &&& ~~~(rdl s b l)) ∧
    Gives s (.not d a) d (fun l => ~~~(rdl s a l)) ∧
    Gives s (.popc d a) d (fun l => BitVec.ofNat 32 ((List.range 32).countP fun i => (rdl s a l).getLsbD i)) ∧
    Gives s (.clz d a) d (fun l => BitVec.ofNat 32 (((List.range 32).takeWhile fun i => !(rdl s a l).getMsbD i).length)) ∧
    Gives s (.brev d a) d (fun l => (rdl s a l).reverse)

/-- R316: the shifts, with every amount of 32 and more. -/
def Sys2Proof.Claims.ShiftsByAnyAmount : Prop :=
  ∀ (s : State) (d a b : Reg),
    Gives s (.shl d a b) d (fun l => if (rdl s b l).toNat < 32 then rdl s a l <<< (rdl s b l).toNat else 0) ∧
    Gives s (.shr d a b) d (fun l => if (rdl s b l).toNat < 32 then rdl s a l >>> (rdl s b l).toNat else 0) ∧
    Gives s (.sar d a b) d (fun l => if (rdl s b l).toNat < 32 then (rdl s a l).sshiftRight (rdl s b l).toNat
      else if (rdl s a l).msb then 0xFFFFFFFF else 0) ∧
    Gives s (.rol d a b) d (fun l => (rdl s a l).rotateLeft ((rdl s b l).toNat % 32))

/-- R317: BFX and BFI, bit by bit. -/
def Sys2Proof.Claims.BitFieldsBitByBit : Prop :=
  ∀ (s : State) (d a b : Reg),
    (∃ f : Nat → Word, Gives s (.bfx d a b) d f ∧ ∀ l, ∀ i < 32,
      let pos := (rdl s b l).toNat % 32
      let w := min ((rdl s b l).toNat / 256 % 64) 32
      (f l).getLsbD i = (decide (i < w) && (rdl s a l).getLsbD (pos + i))) ∧
    (∃ f : Nat → Word, Gives s (.bfi d a b) d f ∧ ∀ l, ∀ i < 32,
      let pos := (rdl s b l).toNat % 32
      let w := min ((rdl s b l).toNat / 256 % 64) 32
      (f l).getLsbD i = if pos ≤ i ∧ i < pos + w then (rdl s a l).getLsbD (i - pos) else (rdl s d l).getLsbD i)

/-- R318: the 64-bit words on pairs, wrapping modulo 2⁶⁴; a pair that starts at an odd register makes the word undefined
(R68, R275). -/
def Sys2Proof.Claims.PairArithmetic : Prop :=
  ∀ (s : State) (d a b : Reg),
    Gives64 s (.add64 d a b) d (fun l => s.me.rd64 a l + s.me.rd64 b l) ∧
    Gives64 s (.sub64 d a b) d (fun l => s.me.rd64 a l - s.me.rd64 b l) ∧
    Gives64 s (.mad64 d a b) d (fun l => s.me.rd64 a l * s.me.rd64 b l + s.me.rd64 d l) ∧
    Gives64 s (.lea d a b) d (fun l => s.me.rd64 a l + (rdl s b l).signExtend 64) ∧
    (d.code % 2 = 1 ∨ a.code % 2 = 1 → ∀ i ∈ [Instr.add64 d a b, .sub64 d a b, .mad64 d a b, .lea d a b],
      ∃ r, decodeCheck i s.me = some r ∧ r.cause = 0x01 ∧ exec i s = .next (s.trap r)) ∧
    (b.code % 2 = 1 → ∀ i ∈ [Instr.add64 d a b, .sub64 d a b, .mad64 d a b],
      ∃ r, decodeCheck i s.me = some r ∧ r.cause = 0x01 ∧ exec i s = .next (s.trap r))

/-- R319 and R280: the condition on one 32-bit element, or on both 16-bit elements, and how it enters its destination. -/
def Sys2Proof.Claims.ComparesIntoPredicates : Prop :=
  ∀ (s : State) (cond : Fin 8) (comb : Fin 4) (pd : Fin 8) (a b : Reg),
    let enter := fun (l : Nat) (c : Bool) =>
      if comb = 0 then c else if comb = 1 then s.me.pred pd l && c else s.me.pred pd l || c
    let test := fun (w : Nat) (lt : BitVec w → BitVec w → Bool) (x y : BitVec w) =>
      if cond = 0 then x == y else if cond = 1 then x != y else if cond = 2 then lt x y
      else if cond = 3 then !lt y x else if cond = 4 then lt y x else !lt x y
    let both := fun (lt : BitVec 16 → BitVec 16 → Bool) (x y : Word) =>
      test 16 lt (hiHalf x) (hiHalf y) && test 16 lt (loHalf x) (loHalf y)
    (s.me.etype ≠ 4 →
      GivesPred s (.cmp cond comb pd a b) pd (fun l => enter l (test 32 BitVec.slt (rdl s a l) (rdl s b l))) ∧
      GivesPred s (.cmpu cond comb pd a b) pd (fun l => enter l (test 32 BitVec.ult (rdl s a l) (rdl s b l)))) ∧
    (s.me.etype = 4 →
      GivesPred s (.cmp cond comb pd a b) pd (fun l => enter l (both BitVec.slt (rdl s a l) (rdl s b l))) ∧
      GivesPred s (.cmpu cond comb pd a b) pd (fun l => enter l (both BitVec.ult (rdl s a l) (rdl s b l))))

/-- R320 and R321: selection and the predicate words. -/
def Sys2Proof.Claims.SelectionAndPredicates : Prop :=
  ∀ (s : State) (d a b : Reg) (p q r : Fin 8),
    (namesVector (.sel d a b) = true →
      Gives s (.sel d a b) d (fun l => if s.me.guard l then rdl s a l else rdl s b l)) ∧
    (namesVector (.sel d a b) = false →
      Gives s (.sel d a b) d (fun _ => if s.me.guardAny then rdl s a 0 else rdl s b 0)) ∧
    GivesPred s (.pand p q r) p (fun l => s.me.pred q l && s.me.pred r l) ∧
    GivesPred s (.por p q r) p (fun l => s.me.pred q l || s.me.pred r l) ∧
    GivesPred s (.pxor p q r) p (fun l => s.me.pred q l != s.me.pred r l) ∧
    GivesPred s (.pnot p q) p (fun l => !s.me.pred q l) ∧
    Gives s (.ptov d p) d (fun l => if s.me.pred p l then 1 else 0) ∧
    GivesPred s (.vtop p a) p (fun l => rdl s a l != 0) ∧
    (isVec d = false → ∃ r, decodeCheck (.ptov d p) s.me = some r ∧ r.cause = 0x01 ∧ exec (.ptov d p) s = .next (s.trap r))

/-! ### Floating point (R96 to R106, R322 to R331) -/

namespace Sys2Proof.Claims

/-- The rational value of a finite number. -/
def ratOf : FloatVal → Option ℚ
  | .num n m e => some ((if n then -1 else 1) * (m : ℚ) * (2 : ℚ) ^ e)
  | _ => none

/-- The largest finite value of a format. -/
def largest (f : FloatFmt) : ℚ := (ratOf (f.decode f.maxFinite)).getD 0

/-- `r` is the number of the format that the direction of R101 picks for `x`: RNE the nearest, a tie to the even one; RZ the
nearest that is no larger in magnitude; RU the least that is not below; RD the greatest that is not above. -/
def RoundsTo (f : FloatFmt) (rnd : Nat) (x : ℚ) (r : Nat) : Prop :=
  ∃ y, ratOf (f.decode r) = some y ∧ ∀ b z, ratOf (f.decode b) = some z →
    (rnd = 0 → |y - x| ≤ |z - x| ∧ (z ≠ y → |y - x| = |z - x| → r % 2 = 0)) ∧
    (rnd = 1 → |y| ≤ |x| ∧ 0 ≤ x * y ∧ (|z| ≤ |x| → 0 ≤ x * z → |z| ≤ |y|)) ∧
    (rnd = 2 → x ≤ y ∧ (x ≤ z → y ≤ z)) ∧
    (rnd = 3 → y ≤ x ∧ (z ≤ x → z ≤ y))

/-- `r` is the number of the format that the direction of R101 picks for the positive square root of `x`, told by squares: the
middle of `r` and another number lies on the other number's side of the root. -/
def RootRoundsTo (f : FloatFmt) (rnd : Nat) (x : ℚ) (r : Nat) : Prop :=
  ∃ y, ratOf (f.decode r) = some y ∧ 0 ≤ y ∧ ∀ b z, ratOf (f.decode b) = some z → 0 ≤ z →
    (rnd = 0 → (y < z → x ≤ ((y + z) / 2) ^ 2) ∧ (z < y → ((y + z) / 2) ^ 2 ≤ x) ∧ (z ≠ y → ((y + z) / 2) ^ 2 = x → r % 2 = 0)) ∧
    (rnd = 1 ∨ rnd = 3 → y ^ 2 ≤ x ∧ (z ^ 2 ≤ x → z ≤ y)) ∧
    (rnd = 2 → x ≤ y ^ 2 ∧ (x ≤ z ^ 2 → y ≤ z))

/-- `n` is the integer that the direction of R101 picks for `x`. -/
def IntegerPicked (rnd : Nat) (x : ℚ) (n : Int) : Prop :=
  (rnd = 0 → |(n : ℚ) - x| ≤ 1 / 2 ∧ (|(n : ℚ) - x| = 1 / 2 → n % 2 = 0)) ∧
  (rnd = 1 → |(n : ℚ)| ≤ |x| ∧ |x| < |(n : ℚ)| + 1 ∧ 0 ≤ x * n) ∧
  (rnd = 2 → x ≤ n ∧ (n : ℚ) < x + 1) ∧
  (rnd = 3 → (n : ℚ) ≤ x ∧ x < n + 1)

/-- The integer a register holds in an integer format of CVT, and the register image of an integer (R328). -/
def intRead (c : Nat) (a : Word) : Int :=
  if c = 0 then a.toInt else if c = 1 then a.toNat else if c = 2 then (a.setWidth 16).toInt
  else if c = 3 then (a.setWidth 8).toInt else (a.setWidth 8).toNat
def intWrite (c : Nat) (x : Int) : Word :=
  if c ≤ 1 then BitVec.ofInt 32 x else if c = 2 then (BitVec.ofInt 16 x).signExtend 32
  else if c = 3 then (BitVec.ofInt 8 x).signExtend 32 else (BitVec.ofInt 8 x).zeroExtend 32
/-- The least and the largest value of an integer format of CVT (R328). -/
def intLo (c : Nat) : Int := if c = 0 then -2147483648 else if c = 2 then -32768 else if c = 3 then -128 else 0
def intHi (c : Nat) : Int :=
  if c = 0 then 2147483647 else if c = 1 then 4294967295 else if c = 2 then 32767 else if c = 3 then 127 else 255

end Sys2Proof.Claims

/-- R323 to R327 and R283: every arithmetic float word works per element in the format ETYPE selects, under RND and FTZ. -/
def Obligations.FloatWordsWorkPerElement : Prop :=
  ∀ (s : State) (d a b : Reg),
    let e := s.me.etype
    let r := s.me.rnd
    let z := s.me.ftz
    Gives s (.fadd d a b) d (fun l => perFlt e (fun f x y _ => faddE f r z x y) (rdl s a l) (rdl s b l) 0) ∧
    Gives s (.fsub d a b) d (fun l => perFlt e (fun f x y _ => fsubE f r z x y) (rdl s a l) (rdl s b l) 0) ∧
    Gives s (.fmul d a b) d (fun l => perFlt e (fun f x y _ => fmulE f r z x y) (rdl s a l) (rdl s b l) 0) ∧
    Gives s (.ffma d a b) d (fun l => perFlt e (fun f x y w => ffmaE f r z x y w) (rdl s a l) (rdl s b l) (rdl s d l)) ∧
    Gives s (.fmin d a b) d (fun l => perFlt e (fun f x y _ => fminE f z x y) (rdl s a l) (rdl s b l) 0) ∧
    Gives s (.fmax d a b) d (fun l => perFlt e (fun f x y _ => fmaxE f z x y) (rdl s a l) (rdl s b l) 0) ∧
    Gives s (.frcp d a) d (fun l => perFlt e (fun f x _ _ => frcpE f r z x) (rdl s a l) 0 0) ∧
    Gives s (.frsq d a) d (fun l => perFlt e (fun f x _ _ => frsqE f r z x) (rdl s a l) 0 0) ∧
    Gives s (.fsqrt d a) d (fun l => perFlt e (fun f x _ _ => fsqrtE f r z x) (rdl s a l) 0 0) ∧
    Gives s (.fexp2 d a) d (fun l => perFlt e (fun f x _ _ => fexp2E f r z x) (rdl s a l) 0 0) ∧
    Gives s (.flog2 d a) d (fun l => perFlt e (fun f x _ _ => flog2E f r z x) (rdl s a l) 0 0) ∧
    Gives s (.ftanh d a) d (fun l => perFlt e (fun f x _ _ => ftanhE f r z x) (rdl s a l) 0 0) ∧
    Gives s (.frnd d a) d (fun l => perFlt e (fun f x _ _ => frndE f r z x) (rdl s a l) 0 0)

/-- R101 and R323: FADD, FSUB, FMUL and FFMA of finite numbers form the exact result and round it once, in every direction
and in each of the three formats (no flush, no overflow). -/
def Obligations.FloatResultsAreRoundedOnce : Prop :=
  ∀ f ∈ [fmtF32, fmtF16, fmtBF16], ∀ rnd < 4, ∀ (a b d : Nat) (x y z : ℚ),
    ratOf (f.decode a) = some x → ratOf (f.decode b) = some y → ratOf (f.decode d) = some z →
    (|x + y| ≤ largest f → RoundsTo f rnd (x + y) (faddE f rnd false a b)) ∧
    (|x - y| ≤ largest f → RoundsTo f rnd (x - y) (fsubE f rnd false a b)) ∧
    (|x * y| ≤ largest f → RoundsTo f rnd (x * y) (fmulE f rnd false a b)) ∧
    (|x * y + z| ≤ largest f → RoundsTo f rnd (x * y + z) (ffmaE f rnd false a b d))

/-- R101, R102, R326 and R327 on finite operands: FRCP, FSQRT and FRSQ give the exact reciprocal, root or reciprocal root rounded
once; FRND gives the integer that the direction picks; FEXP2 of an integer and FLOG2 of a power of two are exact powers and
exponents, rounded once; FTANH keeps its operand's sign and does not pass 1. That the other results of FEXP2, FLOG2 and FTANH are
correctly rounded is not stated (log entry 97). -/
def Sys2Proof.Claims.FunctionsRoundTheirValues : Prop :=
  ∀ f ∈ [fmtF32, fmtF16, fmtBF16], ∀ rnd < 4, ∀ (a : Nat) (x : ℚ), ratOf (f.decode a) = some x →
    (x ≠ 0 → |1 / x| ≤ largest f → RoundsTo f rnd (1 / x) (frcpE f rnd false a)) ∧
    (0 < x → RootRoundsTo f rnd x (fsqrtE f rnd false a) ∧ RootRoundsTo f rnd (1 / x) (frsqE f rnd false a)) ∧
    (x < 0 → fsqrtE f rnd false a = f.canonNan ∧ frsqE f rnd false a = f.canonNan ∧ flog2E f rnd false a = f.canonNan) ∧
    (∃ n : Int, ratOf (f.decode (frndE f rnd false a)) = some n ∧ IntegerPicked rnd x n) ∧
    (∀ n : Int, x = n → -1024 ≤ n → (2 : ℚ) ^ n ≤ largest f → RoundsTo f rnd ((2 : ℚ) ^ n) (fexp2E f rnd false a)) ∧
    (∀ n : Int, x = (2 : ℚ) ^ n → RoundsTo f rnd n (flog2E f rnd false a)) ∧
    ∃ y, ratOf (f.decode (ftanhE f rnd false a)) = some y ∧ |y| ≤ 1 ∧ 0 ≤ x * y

/-- R98 and R326: NaN operands and the special operands of FRCP, FRSQ, FSQRT, FEXP2, FLOG2 and FTANH. -/
def Sys2Proof.Claims.FloatSpecialOperands : Prop :=
  ∀ f ∈ [fmtF32, fmtF16, fmtBF16], ∀ rnd < 4, ∀ (z : Bool),
    let one := f.bias * 2 ^ f.frac
    let minus := f.signBit
    (∀ a, f.decode a = .nan → frcpE f rnd z a = f.canonNan ∧ frsqE f rnd z a = f.canonNan ∧ fsqrtE f rnd z a = f.canonNan ∧
      fexp2E f rnd z a = f.canonNan ∧ flog2E f rnd z a = f.canonNan ∧ ftanhE f rnd z a = f.canonNan) ∧
    (∀ a b, f.decode a = .nan ∨ f.decode b = .nan → faddE f rnd z a b = f.canonNan ∧ fsubE f rnd z a b = f.canonNan ∧
      fmulE f rnd z a b = f.canonNan ∧ ∀ d, ffmaE f rnd z a b d = f.canonNan) ∧
    (frcpE f rnd z 0 = f.infBits false ∧ frcpE f rnd z minus = f.infBits true ∧ frcpE f rnd z (f.infBits false) = 0 ∧
      frcpE f rnd z (f.infBits true) = minus) ∧
    (frsqE f rnd z 0 = f.infBits false ∧ frsqE f rnd z minus = f.infBits true ∧ frsqE f rnd z (f.infBits false) = 0 ∧
      frsqE f rnd z (f.infBits true) = f.canonNan) ∧
    (fsqrtE f rnd z 0 = 0 ∧ fsqrtE f rnd z minus = minus ∧ fsqrtE f rnd z (f.infBits false) = f.infBits false ∧
      fsqrtE f rnd z (f.infBits true) = f.canonNan) ∧
    (fexp2E f rnd z 0 = one ∧ fexp2E f rnd z minus = one ∧ fexp2E f rnd z (f.infBits false) = f.infBits false ∧
      fexp2E f rnd z (f.infBits true) = 0) ∧
    (flog2E f rnd z 0 = f.infBits true ∧ flog2E f rnd z minus = f.infBits true ∧ flog2E f rnd z one = 0 ∧
      flog2E f rnd z (f.infBits false) = f.infBits false ∧ flog2E f rnd z (f.infBits true) = f.canonNan) ∧
    (ftanhE f rnd z 0 = 0 ∧ ftanhE f rnd z minus = minus ∧ ftanhE f rnd z (f.infBits false) = one ∧
      ftanhE f rnd z (f.infBits true) = one + minus)

/-- R324 and R331: FABS and FNEG touch the sign bits only, and FCLASS of an F32 element reads the bits as they stand. -/
def Sys2Proof.Claims.FloatSignsAndClasses : Prop :=
  ∀ (s : State) (d a : Reg),
    let packed := s.me.etype = 2 ∨ s.me.etype = 3
    Gives s (.fabs d a) d (fun l => rdl s a l &&& (if packed then 0x7FFF7FFF else 0x7FFFFFFF)) ∧
    Gives s (.fneg d a) d (fun l => rdl s a l ^^^ (if packed then 0x80008000 else 0x80000000)) ∧
    (¬ packed → Gives s (.fclass d a) d (fun l =>
      let n := (rdl s a l).getLsbD 31
      let ex := (rdl s a l).extractLsb' 23 8
      let fr := (rdl s a l).extractLsb' 0 23
      if ex = 255 then (if fr ≠ 0 then 0x100 else if n then 0x001 else 0x080)
      else if ex = 0 then (if fr = 0 then (if n then 0x008 else 0x010) else if n then 0x004 else 0x020)
      else if n then 0x002 else 0x040)) ∧
    (packed → Gives s (.fclass d a) d (fun l =>
      BitVec.ofNat 16 (fclassE (fltFmt s.me.etype) (hiHalf (rdl s a l)).toNat) ++
      BitVec.ofNat 16 (fclassE (fltFmt s.me.etype) (loHalf (rdl s a l)).toNat)))

/-- R99 and R325 on finite elements and NaNs without FTZ: the smaller and the larger number, −0 below +0 for FMIN and FMAX and
equal to it for FCMP. -/
def Sys2Proof.Claims.FloatOrder : Prop :=
  ∀ f ∈ [fmtF32, fmtF16, fmtBF16], ∀ a < 2 ^ f.width, ∀ b < 2 ^ f.width,
    (f.decode a = .nan → fminE f false a b = (if f.decode b = .nan then f.canonNan else b) ∧
      fmaxE f false a b = (if f.decode b = .nan then f.canonNan else b) ∧
      (∀ c < 6, fcmpE f false c a b = decide (c = 1)) ∧ fcmpE f false 6 a b = true ∧ fcmpE f false 7 a b = false) ∧
    (f.decode b = .nan → f.decode a ≠ .nan → fminE f false a b = a ∧ fmaxE f false a b = a ∧
      (∀ c < 6, fcmpE f false c a b = decide (c = 1)) ∧ fcmpE f false 6 a b = true ∧ fcmpE f false 7 a b = false) ∧
    (∀ x y, ratOf (f.decode a) = some x → ratOf (f.decode b) = some y →
      (x < y → fminE f false a b = a ∧ fmaxE f false a b = b) ∧
      (y < x → fminE f false a b = b ∧ fmaxE f false a b = a) ∧
      (fcmpE f false 0 a b = decide (x = y) ∧ fcmpE f false 1 a b = decide (x ≠ y) ∧ fcmpE f false 2 a b = decide (x < y) ∧
       fcmpE f false 3 a b = decide (x ≤ y) ∧ fcmpE f false 4 a b = decide (x > y) ∧ fcmpE f false 5 a b = decide (x ≥ y) ∧
       fcmpE f false 6 a b = false ∧ fcmpE f false 7 a b = true)) ∧
    (fminE f false f.signBit 0 = f.signBit ∧ fminE f false 0 f.signBit = f.signBit ∧ fmaxE f false f.signBit 0 = 0 ∧
      fmaxE f false 0 f.signBit = 0)

/-- R325 and R280: FCMP enters its condition, which a packed format must meet in both elements. -/
def Sys2Proof.Claims.FloatComparesIntoPredicates : Prop :=
  ∀ (s : State) (cond : Fin 8) (comb : Fin 4) (pd : Fin 8) (a b : Reg),
    let enter := fun (l : Nat) (c : Bool) =>
      if comb = 0 then c else if comb = 1 then s.me.pred pd l && c else s.me.pred pd l || c
    let f := if s.me.etype = 2 then fmtF16 else if s.me.etype = 3 then fmtBF16 else fmtF32
    (s.me.etype ≠ 2 → s.me.etype ≠ 3 → GivesPred s (.fcmp cond comb pd a b) pd (fun l =>
      enter l (fcmpE f s.me.ftz cond (rdl s a l).toNat (rdl s b l).toNat))) ∧
    (s.me.etype = 2 ∨ s.me.etype = 3 → GivesPred s (.fcmp cond comb pd a b) pd (fun l =>
      enter l (fcmpE f s.me.ftz cond (loHalf (rdl s a l)).toNat (loHalf (rdl s b l)).toNat &&
        fcmpE f s.me.ftz cond (hiHalf (rdl s a l)).toNat (hiHalf (rdl s b l)).toNat)))

/-- R328 to R330: integer conversions, the exact BF16 to F32 widening, packing and unpacking. -/
def Sys2Proof.Claims.Conversions : Prop :=
  ∀ (s : State) (d a b : Reg) (tgt src : Fin 16),
    (tgt.val < 5 → src.val < 5 → Gives s (.cvt d a tgt src) d (fun l =>
      let x := intRead src (rdl s a l)
      intWrite tgt (if s.me.sat then max (intLo tgt) (min (intHi tgt) x) else x))) ∧
    (s.me.ftz = false → Gives s (.cvt d a 5 7) d (fun l =>
      if fmtBF16.decode (loHalf (rdl s a l)).toNat = .nan then 0x7FC00000 else loHalf (rdl s a l) ++ 0#16)) ∧
    (tgt.val < 5 → Gives s (.cvt d a tgt 5) d (fun l =>
      intWrite tgt (fltToInt (cvtInt tgt).1 (cvtInt tgt).2 s.me.sat (fmtF32.operand s.me.ftz (rdl s a l).toNat)))) ∧
    Gives s (.cvt d a tgt src) d (fun l => cvtOp s.me.sat s.me.ftz tgt src (rdl s a l)) ∧
    (s.me.etype = 4 →
      Gives s (.pack d a b) d (fun l =>
        if s.me.sat then clampTo 16 (rdl s b l).toInt ++ clampTo 16 (rdl s a l).toInt
        else loHalf (rdl s b l) ++ loHalf (rdl s a l)) ∧
      Gives s (.unpackl d a) d (fun l => (loHalf (rdl s a l)).signExtend 32) ∧
      Gives s (.unpackh d a) d (fun l => (hiHalf (rdl s a l)).signExtend 32)) ∧
    (s.me.etype = 2 ∨ s.me.etype = 3 →
      Gives s (.pack d a b) d (fun l => packOp s.me.etype s.me.sat s.me.ftz (rdl s a l) (rdl s b l)) ∧
      Gives s (.unpackl d a) d (fun l => unpackOp s.me.etype s.me.ftz 0 (rdl s a l)) ∧
      Gives s (.unpackh d a) d (fun l => unpackOp s.me.etype s.me.ftz 1 (rdl s a l)))

/-- R106: F32 to integer rounds to the nearest integer, ties to even, and an integer of the target's range is kept. -/
def Sys2Proof.Claims.FloatToIntegerRoundsToNearest : Prop :=
  ∀ (w : Nat) (signed sat : Bool) (v : FloatVal) (x : ℚ), 0 < w → ratOf v = some x →
    let lo : Int := if signed then -(2 ^ (w - 1) : Nat) else 0
    let hi : Int := if signed then (2 ^ (w - 1) : Nat) - 1 else (2 ^ w : Nat) - 1
    ∃ n : Int, |(n : ℚ) - x| ≤ 1 / 2 ∧ (|(n : ℚ) - x| = 1 / 2 → n % 2 = 0) ∧
      (lo ≤ n → n ≤ hi → fltToInt w signed sat v = n) ∧
      (¬ (lo ≤ n ∧ n ≤ hi) → fltToInt w signed sat v = if sat then (if n < lo then lo else hi) else lo)

/-! ### Lanes and special registers (R332 to R339, R74 to R85, R433 to R435) -/

namespace Sys2Proof.Claims

/-- The running team after `i` is charged and it stands at the next word. -/
def issued (i : Instr) (t : Team) : Team :=
  { t with pc := t.pc + 4, ibud := chargeTo t.ibud (issueCharge i t), stood := none, admission := 0 }

/-- `i` changes the running team to `f` of itself, issued, and nothing else in the device. -/
def Becomes (s : State) (i : Instr) (f : Team → Team) : Prop :=
  Issues i s → exec i s = .next (s.setMe (f (issued i s.me)))

/-- `i` takes the trap `r` at its own PC and is not charged (R449). -/
def Traps (s : State) (i : Instr) (r : TrapRec) : Prop :=
  Issues i s → exec i s = .next (s.trap r)

/-- The operations 0 to 7 of RED and SCAN on 32-bit elements, and their identities (R337). -/
def redFn (op : Nat) (x y : Word) : Word :=
  if op = 0 then x + y else if op = 1 then (if x.slt y then x else y) else if op = 2 then (if x.slt y then y else x)
  else if op = 3 then (if x.ult y then x else y) else if op = 4 then (if x.ult y then y else x)
  else if op = 5 then x &&& y else if op = 6 then x ||| y else x ^^^ y
def redId (op : Nat) : Word :=
  if op = 1 then 0x7FFFFFFF else if op = 2 then 0x80000000 else if op = 3 ∨ op = 5 then 0xFFFFFFFF else 0

/-- May the running team name this special register (R434)? -/
def mayName (s : State) (sr : Nat) (write : Bool) : Prop :=
  sr < 0x20 ∨ s.me.trap.inHandler = true ∨ s.myCtx < 4 ∨ sr = 0x26 ∨ (sr = 0x28 ∧ write = false)

end Sys2Proof.Claims

/-- R333: the shuffles read lane j whether it is active or not, and the lane itself where j is no lane of the team. -/
def Sys2Proof.Claims.ShufflesReadTheirSourceLane : Prop :=
  ∀ (s : State) (d a b : Reg),
    let take := fun (l j : Nat) => if j < s.me.lanes then rdl s a j else rdl s a l
    Gives s (.shfl d a b) d (fun l => take l (rdl s b l).toNat) ∧
    Gives s (.shflup d a b) d (fun l => if (rdl s b l).toNat ≤ l then take l (l - (rdl s b l).toNat) else rdl s a l) ∧
    Gives s (.shfldn d a b) d (fun l => take l (l + (rdl s b l).toNat)) ∧
    Gives s (.shflx d a b) d (fun l => take l (l ^^^ (rdl s b l).toNat)) ∧
    Gives s (.bcast d a b) d (fun l => take l (rdl s b 0).toNat)

/-- R334 and R335: the lowest active lane, a lane by number, and the write of one lane. -/
def Sys2Proof.Claims.SingleLaneMoves : Prop :=
  ∀ (s : State) (d a b : Reg),
    Gives s (.rdfl d a) d (fun _ => if isVec a then (match s.me.actives.head? with
      | none => 0
      | some f => rdl s a f) else rdl s a 0) ∧
    Gives s (.rdlane d a b) d (fun _ => if (rdl s b 0).toNat < s.me.lanes then rdl s a (rdl s b 0).toNat else 0) ∧
    (Issues (.wrlane d a b) s → RegsOnly s (.wrlane d a b) fun u =>
      u.sregs = s.me.sregs ∧ u.preds = s.me.preds ∧ ∀ r l, l < 1024 → u.rd r l =
        if r = d ∧ l = (rdl s b 0).toNat ∧ l < s.me.lanes ∧ (s.me.trap.inHandler = true ∨ s.me.live.getLsbD l = true)
        then rdl s a 0 else s.me.rd r l)

/-- R336: VOTE over the active lanes. -/
def Sys2Proof.Claims.VoteCountsActiveLanes : Prop :=
  ∀ (s : State) (d : Reg) (p : Fin 8) (pass : Fin 32),
    Gives s (.vote d p pass 0) d (fun _ => if ∃ l ∈ s.me.actives, s.me.pred p l = true then 1 else 0) ∧
    Gives s (.vote d p pass 1) d (fun _ => if ∀ l ∈ s.me.actives, s.me.pred p l = true then 1 else 0) ∧
    ∃ f : Nat → Word, Gives s (.vote d p pass 2) d f ∧ ∀ l < 1024, ∀ i < 32,
      let k := if isVec d then l / 32 else pass.val
      (f l).getLsbD i = decide (32 * k + i ∈ s.me.actives ∧ s.me.pred p (32 * k + i) = true)

/-- R117, R118, R337 and R338: the reductions and prefixes of 32-bit integers are the folds over the active lanes in lane
order; for every operation and format the order is that of the tree. -/
def Sys2Proof.Claims.ReductionsAndPrefixes : Prop :=
  ∀ (s : State) (d a : Reg) (op : Fin 16),
    let fold := fun (ls : List Nat) => ls.foldl (fun acc l => redFn op acc (rdl s a l)) (redId op)
    (s.me.etype ≠ 4 → op.val < 8 → (op.val = 0 → s.me.sat = false) → s.me.lanes ≤ 1024 →
      Gives s (.red d a op) d (fun _ => fold s.me.actives) ∧
      Gives s (.scan d a false op) d (fun l => fold (s.me.actives.filter (· ≤ l))) ∧
      Gives s (.scan d a true op) d (fun l => fold (s.me.actives.filter (· < l)))) ∧
    Gives s (.red d a op) d (fun _ =>
      (passesValue (redOp s.me op.val) (redLeaf s.me a) s.me.passes).getD (redIdentity s.me op.val)) ∧
    Gives s (.scan d a false op) d (fun l =>
      if s.me.actives.getLast? = some l then
        (passesValue (redOp s.me op.val) (redLeaf s.me a) s.me.passes).getD (redIdentity s.me op.val)
      else (scanValue (redOp s.me op.val) (redLeaf s.me a) l).getD (redIdentity s.me op.val))

/-- R74 to R76, R78 and R434: MOVSR reads a special register, and CLOCK latches the high half of the clock. -/
def Sys2Proof.Claims.SpecialRegistersAreRead : Prop :=
  ∀ (s : State) (d : Reg) (sr : BitVec 8), mayName s sr.toNat false →
    (sr ≠ 0x14 → Gives s (.movsr d sr) d (fun l => s.special sr.toNat l)) ∧
    (sr = 0x14 → Issues (.movsr d sr) s → ∃ u, exec (.movsr d sr) s = .next (s.setMe u) ∧
      u = { issued (.movsr d sr) s.me with vregs := u.vregs, sregs := u.sregs, clockh := BitVec.ofNat 32 (s.clk / 2 ^ 32) } ∧
      Wrote s.me u d (fun _ => BitVec.ofNat 32 s.clk)) ∧
    (s.special 0x00 7 = 7 ∧ s.special 0x01 0 = BitVec.ofNat 32 s.me.idx ∧ s.special 0x04 0 = BitVec.ofNat 32 s.me.lanes ∧
      s.special 0x09 0 = s.me.mode.setWidth 32 ∧ s.special 0x0A 0 = BitVec.ofInt 32 s.me.ibud ∧
      s.special 0x0C 0 = s.me.contpc ∧ s.special 0x12 0 = BitVec.ofNat 32 s.myCore ∧ s.special 0x15 0 = s.me.clockh ∧
      s.special 0x20 0 = s.me.trap.tcause ∧ s.special 0x21 0 = s.me.trap.tpc ∧ s.special 0x22 0 = s.me.trap.tnpc ∧
      (∀ k < 32, (s.special 0x11 0).getLsbD k = decide (maskWord s.me.mask k ≠ 0)))

/-- R73, R75, R80, R433 and R435: MOVRS writes the RW registers, and the registers marked RO or HW keep their value. -/
def Sys2Proof.Claims.SpecialRegistersAreWritten : Prop :=
  ∀ (s : State) (sr : BitVec 8) (a : Reg), mayName s sr.toNat true →
    let w := rdl s a 0
    let put := fun (f : TrapRegs → TrapRegs) => Becomes s (.movrs sr a) fun t => { t with trap := f t.trap }
    (sr = 0x09 → w.extractLsb' 5 3 ≤ 4#3 → w.extractLsb' 11 3 ≠ 7#3 →
      Becomes s (.movrs sr a) fun t => { t with mode := w.setWidth 16 }) ∧
    (sr = 0x0C → Becomes s (.movrs sr a) fun t => { t with contpc := w &&& 0xFFFFFFFD }) ∧
    (sr = 0x22 → put fun r => { r with tnpc := w }) ∧
    (sr = 0x26 → put fun r => { r with tvbase := w &&& 0xFFFFFFFD }) ∧
    (sr = 0x27 → put fun r => { r with mrow := w &&& 0x800003FF }) ∧
    (sr = 0x2B → ∃ m : LaneMask, (put fun r => { r with restart := m }) ∧ ∀ l < 1024,
      m.getLsbD l = (s.me.trap.restart.getLsbD l && (decide (l / 32 ≠ s.me.trap.tlsel.toNat) || w.getLsbD (l % 32)))) ∧
    (sr = 0x29 → put fun r => { r with tmode := w.setWidth 16 }) ∧
    (sr = 0x2A → put fun r => { r with tlsel := w.setWidth 5 }) ∧
    (sr = 0x2C → put fun r => { r with tscr0 := w }) ∧ (sr = 0x2D → put fun r => { r with tscr1 := w }) ∧
    (sr = 0x2E → put fun r => { r with tscr2 := w }) ∧ (sr = 0x2F → put fun r => { r with tscr3 := w }) ∧
    (sr.toNat < 0x30 → sr.toNat ∉ [0x09, 0x0C, 0x22, 0x26, 0x27, 0x29, 0x2A, 0x2B, 0x2C, 0x2D, 0x2E, 0x2F] →
      Becomes s (.movrs sr a) id)

/-- R73, R434 and R451: a reserved MODE value, and a trap register named without the right to, raise their traps. -/
def Sys2Proof.Claims.SpecialRegisterTraps : Prop :=
  ∀ (s : State) (sr : BitVec 8) (d a : Reg),
    (sr.toNat < 0x30 → ¬ mayName s sr.toNat false → Traps s (.movsr d sr) (preciseTrap 9 0 sr.toNat 0)) ∧
    (sr.toNat < 0x30 → ¬ mayName s sr.toNat true → Traps s (.movrs sr a) (preciseTrap 9 0 sr.toNat 0)) ∧
    (4#3 < (rdl s a 0).extractLsb' 5 3 ∨ (rdl s a 0).extractLsb' 11 3 = 7#3 →
      Traps s (.movrs 0x09 a) (preciseTrap 1 2 (wordOf (.movrs 0x09 a)) 0))

/-! ### Control (R295 to R309) -/

namespace Sys2Proof.Claims

/-- A spill and a refill of one mask entry charge 3 MBUD each (R223). -/
def spilling (t : Team) : Team := { t with spilled := t.spilled + 1, mbud := chargeTo t.mbud 3 }
def refilled (t : Team) : Team := { t with spilled := t.spilled - 1, mbud := chargeTo t.mbud 3 }

/-- The device once the oldest mask entry of a team that issues `i` has gone to the spill region. -/
def spiltOut (i : Instr) (s : State) : State :=
  (s.setMe (spilling { s.me with ibud := chargeTo s.me.ibud (issueCharge i s.me) })).spillWrite s.myCtx 0 136

/-- TCAUSE of a record (R434). -/
def causeWord (r : TrapRec) : Word :=
  BitVec.ofNat 32 (r.cause + 256 * r.sub + (if r.prec then 2 ^ 16 else 0) + (if r.part then 2 ^ 17 else 0))

end Sys2Proof.Claims

/-- R277, R296 and R297: branches and calls, taken and not. -/
def Sys2Proof.Claims.ControlTransfers : Prop :=
  ∀ (s : State) (off : BitVec 24) (a : Reg),
    let taken := s.me.guardAny = true
    let goal := s.me.pc + 4 * off.signExtend 32
    let goto := fun (i : Instr) (p : Word) (link : Bool) =>
      (taken → Becomes s i fun t =>
        { (if link then t.writeS 61 (s.me.pc + 4) else t) with pc := p }) ∧
      (¬ taken → Becomes s i id)
    goto (.br off) goal false ∧ goto (.call off) goal true ∧
    ((rdl s a 0).toNat % 4 = 0 ∨ ¬ taken → goto (.bri a) (rdl s a 0) false ∧ goto (.calli a) (rdl s a 0) true) ∧
    ((s.me.readS 61).toNat % 4 = 0 ∨ ¬ taken → goto .ret (s.me.readS 61) false) ∧
    (taken → (rdl s a 0).toNat % 4 ≠ 0 → Traps s (.bri a) (preciseTrap 2 0 (rdl s a 0).toNat 0) ∧
      Traps s (.calli a) (preciseTrap 2 0 (rdl s a 0).toNat 0)) ∧
    (taken → (s.me.readS 61).toNat % 4 ≠ 0 → Traps s .ret (preciseTrap 2 0 (s.me.readS 61).toNat 0))

/-- R282: outside a handler the scalar guard holds when it holds in an active lane. -/
def Sys2Proof.Claims.GuardOfTheScalarDatapath : Prop :=
  ∀ (t : Team), t.trap.inHandler = false → t.lanes ≤ 1024 →
    (t.guardAny = true ↔ ∃ l < t.lanes, t.live.getLsbD l = true ∧
      (t.pred (t.mode.toNat % 8) l != t.mode.getLsbD 3) = true)

/-- R298 and R299: the structured mask, with the stack within its hardware entries. -/
def Sys2Proof.Claims.MaskStack : Prop :=
  ∀ (s : State) (p : Fin 8) (off : BitVec 24) (top : MaskEntry) (rest : List MaskEntry),
    let m := s.me.mask
    let q := s.me.predMask p
    (s.me.stack.length < 32 + s.me.spilled →
      Becomes s (.split p) (fun t => { t with mask := m &&& q, stack := ⟨false, m⟩ :: t.stack }) ∧
      Becomes s .lbegin (fun t => { t with stack := ⟨true, m⟩ :: t.stack })) ∧
    (s.me.stack = top :: rest → top.loop = false →
      Becomes s .flip (fun t => { t with mask := top.mask &&& ~~~m }) ∧
      (s.me.spilled = 0 → Becomes s .join (fun t => { t with mask := top.mask, stack := rest })) ∧
      Traps s (.lend off) (preciseTrap 3 1 0 0)) ∧
    (s.me.stack = top :: rest → top.loop = true →
      (m ≠ 0 → Becomes s (.lend off) (fun t => { t with pc := s.me.pc + 4 * off.signExtend 32 })) ∧
      (m = 0 → s.me.spilled = 0 → Becomes s (.lend off) (fun t => { t with mask := top.mask, stack := rest })) ∧
      Traps s .flip (preciseTrap 3 0 0 0) ∧ Traps s .join (preciseTrap 3 0 0 0)) ∧
    (s.me.stack = [] → Traps s .flip (preciseTrap 3 0 0 0) ∧ Traps s .join (preciseTrap 3 0 0 0) ∧
      Traps s (.lend off) (preciseTrap 3 1 0 0))

/-- R91, R223, R298 to R300: LBRK, and the pushes and pops that spill and refill the mask stack. -/
def Sys2Proof.Claims.MaskStackBreaksAndSpills : Prop :=
  ∀ (s : State) (p : Fin 8) (off : BitVec 24),
    let b := s.me.mask &&& s.me.predMask p
    let spill := stackBytes (s.me.spilled + 1) - stackBytes s.me.spilled
    ((∀ e ∈ s.me.stack, e.loop = false) → Traps s (.lbrk p) (preciseTrap 3 2 0 0)) ∧
    (∀ splits loop rest, s.me.stack = splits ++ loop :: rest → (∀ e ∈ splits, e.loop = false) → loop.loop = true →
      s.me.spilled ≤ rest.length → -(2 ^ 31) ≤ s.me.mbud →
      Becomes s (.lbrk p) fun t => { t with
        mask := s.me.mask &&& ~~~b,
        stack := splits.map (fun e => { e with mask := e.mask &&& ~~~b }) ++ loop :: rest }) ∧
    (32 + s.me.spilled ≤ s.me.stack.length → s.spillFree s.myCtx spill = true →
      (Issues (.split p) s → exec (.split p) s = .next ((spiltOut (.split p) s).setMe
        { spilling (issued (.split p) s.me) with mask := s.me.mask &&& s.me.predMask p, stack := ⟨false, s.me.mask⟩ :: s.me.stack,
                                                 unsettled := (spiltOut (.split p) s).me.unsettled })) ∧
      (Issues .lbegin s → exec .lbegin s = .next ((spiltOut .lbegin s).setMe
        { spilling (issued .lbegin s.me) with stack := ⟨true, s.me.mask⟩ :: s.me.stack,
                                              unsettled := (spiltOut .lbegin s).me.unsettled }))) ∧
    (32 + s.me.spilled ≤ s.me.stack.length → s.spillFree s.myCtx spill = false →
      Traps s (.split p) (preciseTrap 3 3 0 0) ∧ Traps s .lbegin (preciseTrap 3 3 0 0)) ∧
    (∀ top rest, s.me.stack = top :: rest → 0 < s.me.spilled → rest.length ≤ s.me.spilled →
      (top.loop = false → Becomes s .join (fun t => { refilled t with mask := top.mask, stack := rest })) ∧
      (top.loop = true → s.me.mask = 0 →
        Becomes s (.lend off) (fun t => { refilled t with mask := top.mask, stack := rest })))

/-- R72, R73, R80, R301 to R308: the words that change the team itself. -/
def Sys2Proof.Claims.TeamControlWords : Prop :=
  ∀ (s : State) (imm : BitVec 16) (off : BitVec 24) (a : Reg),
    Becomes s .nop id ∧ Becomes s .ifence (fun t => { t with outs := s.me.outs.filter fun o => !isFetch o }) ∧
    Becomes s (.setmode imm) (fun t => { t with mode := imm }) ∧
    Becomes s (.cont off) (fun t => { t with contpc := (s.me.pc + 4 * off.signExtend 32) &&& 0xFFFFFFFC ||| 1 }) ∧
    ((rdl s a 0) = 0 → Becomes s (.sleep a) id) ∧
    ((rdl s a 0) ≠ 0 → Issues (.sleep a) s →
      let due := s.clk + min (rdl s a 0).toNat 65535
      ∃ t, exec (.sleep a) s = .next t ∧ t.me = { issued (.sleep a) s.me with wait := some (.sleep due) } ∧
        t = { s.setMe t.me with agenda := s.agenda ++ [⟨.free, due, .sleepEnd s.cur⟩] }) ∧
    (s.me.batches ≠ [] → Issues .exit s → ∃ t, exec .exit s = .next t ∧ t.me.wait = some .exitBatches ∧
      t.me.pc = s.me.pc ∧ t.dram = s.dram)

/-- R301: EXIT with no batch outstanding ends the team; the registers of every other team stay as they were. -/
def Sys2Proof.Claims.ExitEndsTheTeam : Prop :=
  ∀ (s : State), Issues .exit s → s.me.batches = [] → s.me.trap.inHandler = false → (SMap.look s.teams s.cur).isSome = true →
    ∃ t, exec .exit s = .next t ∧ SMap.look t.teams s.cur = none ∧ t.dram = s.dram ∧
      ∀ k u, k ≠ s.cur → SMap.look s.teams k = some u → ∃ v, SMap.look t.teams k = some v ∧
        v.vregs = u.vregs ∧ v.sregs = u.sregs ∧ v.preds = u.preds ∧ v.mask = u.mask ∧ v.mode = u.mode ∧ v.stack = u.stack ∧
        v.ibud = u.ibud ∧ v.mbud = u.mbud ∧ v.trap.tcause = u.trap.tcause ∧ v.pins = u.pins

/-- R302 and R303, R61 and R62: TRIGGER marks the team; YIELD takes the continuation, keeps the registers and is topped up
when the pools can bring both budgets to 1, and otherwise parks. -/
def Sys2Proof.Claims.TriggerAndYield : Prop :=
  ∀ (s : State),
    (Issues .trigger s → ∃ t, exec .trigger s = .next t ∧ t.dram = s.dram ∧
      t.teams = (s.setMe { (issued .trigger s.me).hold (releaseHold 4) with triggered := true }).teams) ∧
    (Issues .yield s → s.me.gang = 0 → s.me.evict = false →
      exec .yield s = .next ((s.setMe (issued .yield s.me)).yieldTeam s.cur) ∧
      let v := chargeTo s.me.ibud 1
      let m := s.me.mbud
      let r := s.myGrid.launch
      let pool := s.gridAt (s.poolGrid s.myCrew.grid)
      let gi := grantOf r.iquant v pool.ipool
      let gm := grantOf r.mquant m pool.mpool
      ∃ t, exec .yield s = .next t ∧
        t.me.pc = (if s.me.contpc.getLsbD 0 then s.me.contpc &&& 0xFFFFFFFC else s.me.pc + 4) ∧ t.me.contpc = 0 ∧
        t.me.vregs = s.me.vregs ∧ t.me.sregs = s.me.sregs ∧ t.me.preds = s.me.preds ∧ t.me.mode = s.me.mode ∧
        t.me.mask = s.me.mask ∧ t.me.stack = s.me.stack ∧ t.me.pins = s.me.pins ∧ t.dram = s.dram ∧
        (if 1 ≤ v + gi ∧ 1 ≤ m + gm then t.me.ibud = v + gi ∧ t.me.mbud = m + gm ∧ t.me.wait = none
         else t.me.ibud = v ∧ t.me.mbud = m ∧ t.me.wait = some (.budget false)))

/-- R306: ICINV begins an invalidation on its own core and goes on; its completion takes away exactly the lines of its context
that hold a byte of the range, from that core's cache. -/
def Sys2Proof.Claims.IcinvInvalidatesItsRange : Prop :=
  ∀ (s : State) (d a : Reg) (v : IcInv),
    v = ⟨s.cur, s.myCtx, s.myGrid.launch.codebase, (rdl s d 0).toNat, (rdl s a 0).toNat⟩ →
    let hit := fun (lid : Nat) => lineCtx lid = v.ctx ∧ (65536 ≤ v.len ∨
      ∃ i < v.len, va57 (v.base + (v.start + i) % 2 ^ 32) / 128 * 128 = lineVa lid)
    (Issues (.icinv d a) s → ∃ t, exec (.icinv d a) s = .next t ∧ t.me = issued (.icinv d a) s.me ∧ t.dram = s.dram ∧
      t.coreAt s.myCore = { s.coreAt s.myCore with icinvs := (s.coreAt s.myCore).icinvs ++ [v] } ∧
      ∀ c ≠ s.myCore, t.coreAt c = s.coreAt c) ∧
    (∀ core rest, (s.coreAt core).icinvs = v :: rest →
      ((s.invalidateNext core).coreAt core).icinvs = rest ∧ (s.invalidateNext core).dram = s.dram ∧
      (∀ p, p ∈ ((s.invalidateNext core).coreAt core).icache ↔ p ∈ (s.coreAt core).icache ∧ ¬ hit p.1) ∧
      ∀ c ≠ core, (s.invalidateNext core).coreAt c = s.coreAt c)

/-- R309, R436, R439 and R440: TRAP is charged and then takes the precise software trap in the handler its team installed;
the siblings are told to halt. -/
def Sys2Proof.Claims.TrapEntersTheHandler : Prop :=
  ∀ (s : State) (imm : BitVec 16), Issues (.trap imm) s → SMap.look s.teams s.cur = some s.me →
    s.me.trap.tvbase.getLsbD 0 = true → s.me.trap.inHandler = false → s.myCrew.handler = none →
    (SMap.look s.crews s.me.crew).isSome = true →
    ∃ t, exec (.trap imm) s = .next t ∧ t.dram = s.dram ∧
      t.me = { s.me with
        pc := s.me.trap.tvbase &&& 0xFFFFFFFC, mode := 7, ibud := chargeTo s.me.ibud 8, reissue := none, wait := none,
        halt := none, halted := false,
        trap := { s.me.trap with tcause := 0x00010004, tpc := s.me.pc, tnpc := s.me.pc + 4, tinfo0 := imm.setWidth 32,
                                 tinfo1 := 0, tskid := 0, restart := 0, tmode := s.me.mode, inHandler := true } } ∧
      (t.crewAt s.me.crew).handler = some s.cur ∧
      (∀ k ≠ s.cur, SMap.look t.teams k = SMap.look s.teams k) ∧
      (∀ k ∈ s.teamsOfCrew s.me.crew, k ≠ s.cur → (SMap.get default s.teams k).halted = false →
        ∃ n ≤ 4, ⟨.free, 0, .haltArrive k (preciseTrap 4 0 imm.toNat 0) n⟩ ∈ t.agenda)

/-- R441: RETT without a restart set restores MODE, leaves handler mode and goes on at TNPC, the crew released; with one, the
instruction at TPC is issued again in the active lanes of the set. Outside a handler it is an undefined instruction. -/
def Sys2Proof.Claims.RettReturns : Prop :=
  ∀ (s : State),
    let lanes := s.me.trap.restart &&& s.me.mask
    (Issues .rett s → (s.me.trap.tcause.getLsbD 17 = true ∧ lanes ≠ 0) → Becomes s .rett fun t =>
      { s.me with ibud := t.ibud, mode := s.me.trap.tmode, pc := s.me.trap.tpc, reissue := some lanes, stood := none,
                  trap := { s.me.trap with inHandler := false } }) ∧
    (Issues .rett s → ¬ (s.me.trap.tcause.getLsbD 17 = true ∧ lanes ≠ 0) → s.me.heldStop = none →
      (∀ k ∈ s.teamsOfCrew s.me.crew, (SMap.get default s.teams k).pending = []) → (SMap.look s.teams s.cur).isSome = true →
      s.me.halted = false → SMap.sortedFrom 0 s.teams = true →
      ∃ t, exec .rett s = .next t ∧ t.dram = s.dram ∧ t.me.mode = s.me.trap.tmode ∧ t.me.pc = s.me.trap.tnpc ∧
        t.me.trap = { s.me.trap with inHandler := false } ∧ t.me.reissue = none ∧ t.me.vregs = s.me.vregs ∧
        t.me.sregs = s.me.sregs ∧ (t.crewAt s.me.crew).handler = none ∧
        ∀ k ∈ s.teamsOfCrew s.me.crew, k ≠ s.cur → ∀ u, SMap.look s.teams k = some u → SMap.look t.teams k =
          some (if u.halted then { u with halted := false, pc := u.trap.tnpc } else { u with halt := none })) ∧
    (s.me.trap.inHandler = false →
      exec .rett s = .next (s.trap (preciseTrap 1 9 0x14000000 0)))

/-- R443: a trap of a team with no handler (REASON 0), or of one in its handler (REASON 1), terminates its crew: every team of it
ends, and the host gets its record, with the cause, the PC, the detail words and the core. -/
def Sys2Proof.Claims.TrapWithoutHandlerTerminatesTheCrew : Prop :=
  ∀ (s : State) (r : TrapRec), SMap.look s.teams s.cur = some s.me → SMap.sortedFrom 0 s.teams = true →
    ∀ reason, (reason = 0 ∧ s.me.trap.inHandler = false ∧ s.me.trap.tvbase.getLsbD 0 = false ∧ s.myCrew.handler = none) ∨
      (reason = 1 ∧ s.me.trap.inHandler = true ∧ s.myCrew.handler = some s.cur) →
    (s.trap r).teamsOfCrew s.me.crew = [] ∧ (s.trap r).dram = s.dram ∧
    (s.heq.length < 256 → (s.trap r).heq = s.heq ++ [packFields [(0x08, 0x10), (0x09, s.myGrid.part), (0x0A, s.myCrew.ctx),
      (0x0C, s.myCrew.grid), (0x10, s.myCrew.num), (0x14, s.me.idx), (0x15, reason), (0x18, (causeWord r).toNat),
      (0x1C, s.me.pc.toNat), (0x20, r.info0), (0x24, r.info1), (0x28, s.myCore)]]) ∧
    ∀ k u, SMap.look s.teams k = some u → u.crew ≠ s.me.crew → (SMap.look (s.trap r).teams k) = some u

/-! ### Loads, stores, rows and atomics as they leave the core (R340 to R356, R138, R223) -/

namespace Sys2Proof.Claims

/-- What an instruction that goes to memory leaves as it was: device memory, the home slices, the crews and grids, every other
team, and of its own team everything but registers, budgets, pc and what is outstanding. -/
def Kept (s t : State) : Prop :=
  t.cur = s.cur ∧ t.dram = s.dram ∧ t.l2 = s.l2 ∧ t.crews = s.crews ∧ t.grids = s.grids ∧
  (∀ k ≠ s.cur, SMap.look t.teams k = SMap.look s.teams k) ∧
  t.me.preds = s.me.preds ∧ t.me.mask = s.me.mask ∧ t.me.stack = s.me.stack ∧ t.me.mode = s.me.mode ∧
  t.me.contpc = s.me.contpc ∧ t.me.trap = s.me.trap ∧ t.me.pins = s.me.pins ∧ t.me.gang = s.me.gang ∧
  t.me.sinkSite = s.me.sinkSite ∧ t.me.accBase = s.me.accBase ∧ t.me.accLim = s.me.accLim

/-- The team has no instruction outstanding, and no request waits behind a fault. -/
def Quiet (s : State) : Prop := s.me.outs = [] ∧ s.me.behind = [] ∧ s.me.faultLines = []

/-- `i` has left the core as the requests `reqs`: the team stands at the next word with its registers as they were, one entry
waits for the answers, and every request is on the path to its home slice (R138, R148). -/
def Travels (s : State) (i : Instr) (t : State) (cls : OutClass) (reqs : List HomeReq) (mem : Nat) : Prop :=
  Kept s t ∧ t.me.vregs = s.me.vregs ∧ t.me.sregs = s.me.sregs ∧ t.me.pc = s.me.pc + 4 ∧
  t.me.ibud = chargeTo s.me.ibud (issueCharge i s.me) ∧ t.me.mbud = chargeTo s.me.mbud mem ∧
  ∃ o, t.me.outs = [o] ∧ o.instr = i ∧ o.pc = s.me.pc ∧ o.cls = cls ∧ o.pend = reqs.length ∧ o.bad = none ∧
    ∀ q ∈ reqs, ⟨.path s.myCore (sliceOf q.va), 0, arrivalEvent { q with who := .team s.cur o.id }⟩ ∈ t.agenda

/-- Every access of `i` is aligned and meets no fault at issue (R459, R474, R475). -/
def CleanAccs (s : State) (i : Instr) (write : Bool) : Prop :=
  ∀ p ∈ memAccs i s.me, p.2.1 % p.2.2 = 0 ∧ s.laneFault p.2.1 p.2.2 write = none

/-- The accesses of `i` where the remap filter sends them (R130), each with its data. -/
def located (s : State) (i : Instr) (data : Nat → Nat × Nat) : List (Nat × LaneAcc) :=
  (memAccs i s.me).map fun p =>
    ((s.locate s.myCore s.myCtx p.2.1).1, ⟨p.1, (s.locate s.myCore s.myCtx p.2.1).2, (data p.1).1, (data p.1).2⟩)

/-- The half-lines of the located accesses. -/
def locatedHalves (s : State) (i : Instr) : Nat :=
  halfLines ((memAccs i s.me).map fun p => (p.1, s.locate s.myCore s.myCtx p.2.1))

/-- The bytes of a line from the offset of an address, as a number. -/
def lineBits (x : Line) (va n : Nat) : Nat := (x.extractLsb' (8 * (va % 128)) (8 * n)).toNat

/-- A group of registers that starts at `d` takes `f` word by word in the written lanes (R344); s63 keeps reading zero. -/
def WroteGroup (t u : Team) (d : Reg) (n : Nat) (f : Nat → Nat → Word) : Prop :=
  (∀ l ∈ destLanes t d, ∀ j < n, u.rd (regAt d j) l = if regAt d j = .s 63 then 0 else f l j) ∧
  (∀ r l, l < 1024 → (∀ j < n, r ≠ regAt d j) → u.rd r l = t.rd r l) ∧
  (isVec d = true → ∀ r l, l < 1024 → l ∉ t.actives → u.rd r l = t.rd r l)

/-- R123, R348, R459: a local address of an access of `n` bytes breaks the limits: bits 31 to 29, the rank of a partner, the rank
where X = 0, or the end of the memory. -/
def BreaksLocal (s : State) (n la : Nat) : Prop :=
  2 ^ 29 ≤ la ∨ (la.testBit 28 = true ∧ (groupSize s.myGrid.launch s.myCrew.group ≤ la / 2 ^ 19 % 512 ∨
    ∃ k c, s.partner (la / 2 ^ 19 % 512) = some (k, c) ∧ c.exited = true)) ∨
  (la.testBit 28 = false ∧ la / 2 ^ 19 % 512 ≠ 0) ∨ s.myGrid.launch.localBytes < la % 2 ^ 19 + n

end Sys2Proof.Claims

/-- R340, R344 and R134: loads whose lines all stand in the core's L1 with RD deliver their values at once. -/
def Sys2Proof.Claims.LoadsHitInL1 : Prop :=
  ∀ (s : State) (d a b : Reg),
    let loads := fun (i : Instr) (n : Nat) (f : Nat → Nat → Word) =>
      Issues i s →
      (∀ p ∈ memAccs i s.me, p.2.1 % p.2.2 = 0 ∧ s.laneFault p.2.1 p.2.2 false = none ∧
        ∃ x, s.l1Line s.myCore (lineId s.myCtx p.2.1) = some x ∧ x.rd = true) →
      ∃ t, exec i s = .next t ∧ Kept s t ∧ t.me.pc = s.me.pc + 4 ∧ t.me.mbud = s.me.mbud ∧ t.me.outs = s.me.outs ∧
        WroteGroup s.me t.me d (max n 1) f
    let at' := fun (l n : Nat) => match s.l1Line s.myCore (lineId s.myCtx (s.me.ea a b l)) with
      | some x => lineBits x.data (s.me.ea a b l) n
      | none => 0
    loads (.ld8 d a b) 0 (fun l _ => BitVec.ofNat 32 (at' l 1)) ∧
    loads (.ld8s d a b) 0 (fun l _ => (BitVec.ofNat 8 (at' l 1)).signExtend 32) ∧
    loads (.ld16 d a b) 0 (fun l _ => BitVec.ofNat 32 (at' l 2)) ∧
    loads (.ld16s d a b) 0 (fun l _ => (BitVec.ofNat 16 (at' l 2)).signExtend 32) ∧
    loads (.ld32 d a b) 1 (fun l _ => BitVec.ofNat 32 (at' l 4)) ∧
    loads (.ld64 d a b) 2 (fun l j => (BitVec.ofNat 64 (at' l 8)).extractLsb' (32 * j) 32) ∧
    loads (.ld128 d a b) 4 (fun l j => (BitVec.ofNat 128 (at' l 16)).extractLsb' (32 * j) 32)

/-- R223, R344 and R523: loads that miss leave as one request for each line of each pass, at 2 MBUD unless they merge. -/
def Sys2Proof.Claims.LoadsThatMissTravel : Prop :=
  ∀ (s : State) (d a b : Reg),
    ∀ i ∈ [Instr.ld8 d a b, .ld8s d a b, .ld16 d a b, .ld16s d a b, .ld32 d a b, .ld64 d a b, .ld128 d a b],
      Issues i s → Quiet s → CleanAccs s i false → memAccs i s.me ≠ [] →
      (∀ p ∈ memAccs i s.me, s.l1Line s.myCore
        (lineId (s.locate s.myCore s.myCtx p.2.1).1 (s.locate s.myCore s.myCtx p.2.1).2) = none) →
      let reqs := lineReqs s.myCore (.load (Machine.sizeOf i)) (located s i fun _ => (0, 0))
      ∃ t, exec i s = .next t ∧ Travels s i t .load reqs (s.missCharge s.myCore reqs)

/-- R138, R223, R344, R345: stores leave for their homes with each lane's value, charge one MBUD for each half-line, and a
store whose guard holds in no lane does nothing. -/
def Sys2Proof.Claims.StoresTravelHome : Prop :=
  ∀ (s : State) (d a b : Reg),
    (∀ i ∈ [Instr.st8 d a b, .st16 d a b, .st32 d a b, .st64 d a b, .st128 d a b],
      Issues i s → Quiet s → CleanAccs s i true →
      let reqs := lineReqs s.myCore (.store (Machine.sizeOf i)) ((located s i fun l => (s.me.rdBytes d (Machine.sizeOf i) l, 0)).map
        fun p => (p.1, { p.2 with data2 := if (s.l1Line s.myCore (lineId p.1 p.2.va)).any (fun x => !x.wr) then 1 else 0 }))
      (memAccs i s.me ≠ [] → ∃ t, exec i s = .next t ∧ Travels s i t .store reqs (locatedHalves s i) ∧
        (∀ p lid x, memAccs i s.me = [p] → lid = lineId (s.locate s.myCore s.myCtx p.2.1).1 (s.locate s.myCore s.myCtx p.2.1).2 →
          s.l1Line s.myCore lid = some x → x.wr = true →
          let cells := cellsOf (s.locate s.myCore s.myCtx p.2.1).2 (Machine.sizeOf i) (s.me.rdBytes d (Machine.sizeOf i) p.1)
          ∃ y, t.l1Line s.myCore lid = some y ∧ y.data = setLineCells x.data cells ∧ y.rd = x.rd ∧ y.wr = true)) ∧
      (memAccs i s.me = [] → exec i s = .next (s.setMe (issued i s.me)))) ∧
    (Issues (.st4 d a b) s → Quiet s → CleanAccs s (.st4 d a b) true → memAccs (.st4 d a b) s.me ≠ [] →
      ∃ t, exec (.st4 d a b) s = .next t ∧
        Travels s (.st4 d a b) t .store (lineReqs s.myCore .store4
          (located s (.st4 d a b) fun l => ((s.me.rd d l).toNat % 16, (s.me.nibble a b l).2))) (locatedHalves s (.st4 d a b)))

/-- R436, R454, R459: an access that is not aligned to its size traps with the record of the lowest such lane, and the set
shows every one; nothing is sent and nothing is charged. -/
def Sys2Proof.Claims.MisalignedAccessesTrap : Prop :=
  ∀ (s : State) (d a b : Reg),
    ∀ i ∈ [Instr.ld8 d a b, .ld8s d a b, .ld16 d a b, .ld16s d a b, .ld32 d a b, .ld64 d a b, .ld128 d a b, .st8 d a b,
      .st16 d a b, .st32 d a b, .st64 d a b, .st128 d a b, .aadd d a b, .amin d a b, .amax d a b, .aminu d a b, .amaxu d a b,
      .aand d a b, .aor d a b, .axor d a b, .axch d a b, .acas d a b, .afadd d a b],
      ∀ p rest, (memAccs i s.me).filter (fun p => decide (p.2.1 % p.2.2 ≠ 0)) = p :: rest → ∃ m : LaneMask,
        Traps s i (preciseTrap 8 0 (p.2.1 % 2 ^ 32) (p.2.1 / 2 ^ 32) m) ∧
        ∀ l < 1024, m.getLsbD l = ((memAccs i s.me).any fun q => decide (q.1 = l ∧ q.2.1 % q.2.2 ≠ 0))

/-- R438, R469, R470, R474: a load or a store all of whose lanes name non-canonical addresses sends nothing; its PART trap,
cause 0x0B with site 0 and kind 5, is on its way with the first lane's address. -/
def Sys2Proof.Claims.NonCanonicalAccessesFault : Prop :=
  ∀ (s : State) (d a b : Reg),
    ∀ i ∈ [Instr.ld8 d a b, .ld16 d a b, .ld32 d a b, .ld64 d a b, .ld128 d a b, .st8 d a b, .st16 d a b, .st32 d a b,
      .st64 d a b, .st128 d a b],
      ∀ p rest, memAccs i s.me = p :: rest → Issues i s →
        (∀ q ∈ memAccs i s.me, q.2.1 % q.2.2 = 0 ∧ canonical q.2.1 = false) →
        ∃ t r, exec i s = .next t ∧ Kept s t ∧ t.me.vregs = s.me.vregs ∧ t.me.sregs = s.me.sregs ∧
          t.me.mbud = s.me.mbud ∧ ⟨.free, 0, .partTrap s.cur r s.me.pc.toNat⟩ ∈ t.agenda ∧
          r.cause = 0x0B ∧ r.sub = 5 ∧ r.part = true ∧ r.prec = false ∧
          r.info0 = p.2.1 % 2 ^ 32 ∧ r.info1 = p.2.1 / 2 ^ 32

/-- R347, R348, R123, R459: a local access at an address that is not a multiple of its size traps, and so does one that breaks the
limits of local addresses, each with the lowest such lane's address and the set of all such lanes. An access with X = 1 reaches the
memory of the partner of that rank, and waits while that crew has no place. -/
def Sys2Proof.Claims.LocalMemoryLimits : Prop :=
  ∀ (s : State) (d a b : Reg),
    ∀ x ∈ [(Instr.ldl32 d a b, 4), (.ldl128 d a b, 16), (.stl32 d a b, 4), (.stl128 d a b, 16)],
      let i := x.1
      let n := x.2
      let lanes := if i = .ldl32 d a b ∨ i = .ldl128 d a b then s.me.actLanes i else s.me.guardedLanes i
      let shows := fun (sub : Nat) (bad : Nat → Prop) => ∀ l, l ∈ lanes → bad l → (∀ j ∈ lanes, bad j → l ≤ j) →
        ∃ m : LaneMask, Traps s i (preciseTrap 8 sub (s.me.la a b l % 2 ^ 32) (s.me.la a b l / 2 ^ 32) m) ∧
          ∀ j < 1024, m.getLsbD j = true ↔ j ∈ lanes ∧ bad j
      let ok := ∀ l ∈ lanes, s.me.la a b l % n = 0
      let far := fun (r : Nat) => ok ∧ lanes ≠ [] ∧ ∀ l ∈ lanes, ¬ BreaksLocal s n (s.me.la a b l) ∧
        (s.me.la a b l).testBit 28 = true ∧ s.me.la a b l / 2 ^ 19 % 512 = r
      shows 0 (fun l => s.me.la a b l % n ≠ 0) ∧
      (ok → shows 1 fun l => BreaksLocal s n (s.me.la a b l)) ∧
      (∀ r k c, Issues i s → far r → s.partner r = some (k, c) → s.crewAt k = c → c.taken = false → c.memPoison = [] →
        (i = .ldl32 d a b ∨ i = .ldl128 d a b → ∃ t, exec i s = .next t ∧ Kept s t ∧ t.me.pc = s.me.pc + 4 ∧
          t.me.mbud = chargeTo s.me.mbud (dedupNat (lanes.map (· / 32))).length ∧
          WroteGroup s.me t.me d (n / 4) fun l j => BitVec.ofNat 32 (leNat (c.mem.bytes (s.me.la a b l % 2 ^ 19 + 4 * j) 4))) ∧
        (i = .stl32 d a b ∨ i = .stl128 d a b → SMap.look s.crews k = some c → ∃ t, exec i s = .next t ∧
          t.me.pc = s.me.pc + 4 ∧ (∀ j ≠ k, SMap.look t.crews j = SMap.look s.crews j) ∧
          (t.crewAt k).mem = lanes.foldl (fun m l =>
            Mem.setBytes m (s.me.la a b l % 2 ^ 19) (leBytes n (s.me.rdBytes d n l))) c.mem)) ∧
      (∀ r, Issues i s → far r → s.partner r = none → ∃ t, exec i s = .next t ∧ t.me.wait = some (.partner r) ∧
        t.me.pc = s.me.pc ∧ t.me.vregs = s.me.vregs ∧ t.me.sregs = s.me.sregs ∧ t.crews = s.crews)

/-- R347, R348 and R123: local loads and stores of the team's own crew, inside its local memory. -/
def Sys2Proof.Claims.LocalMemory : Prop :=
  ∀ (s : State) (d a b : Reg),
    let c := s.myCrew
    let ok := fun (ls : List Nat) (n : Nat) => ∀ l ∈ ls, s.me.la a b l % n = 0 ∧ s.me.la a b l < 2 ^ 19 ∧
      s.me.la a b l + n ≤ s.myGrid.launch.localBytes
    let loads := fun (i : Instr) (n : Nat) => Issues i s → ok (s.me.actLanes i) n → ∃ t, exec i s = .next t ∧ Kept s t ∧
      t.me.pc = s.me.pc + 4 ∧ t.me.mbud = s.me.mbud ∧ WroteGroup s.me t.me d (n / 4) fun l j =>
        BitVec.ofNat 32 (leNat (c.mem.bytes (s.me.la a b l + 4 * j) 4))
    let stores := fun (i : Instr) (n : Nat) => Issues i s → (SMap.look s.crews s.me.crew).isSome = true →
      ok (s.me.guardedLanes i) n → ∃ t, exec i s = .next t ∧ t.me = issued i s.me ∧ t.dram = s.dram ∧
        (∀ k ≠ s.cur, SMap.look t.teams k = SMap.look s.teams k) ∧
        (∀ k ≠ s.me.crew, t.crewAt k = s.crewAt k) ∧
        (t.crewAt s.me.crew).mem = (s.me.guardedLanes i).foldl (fun m l =>
          Mem.setBytes m (s.me.la a b l) (leBytes n (s.me.rdBytes d n l))) c.mem ∧
        (∀ o, (∀ l ∈ s.me.guardedLanes i, ¬ (s.me.la a b l ≤ o ∧ o < s.me.la a b l + n)) →
          (t.crewAt s.me.crew).mem.byte o = c.mem.byte o)
    loads (.ldl32 d a b) 4 ∧ loads (.ldl128 d a b) 16 ∧ stores (.stl32 d a b) 4 ∧ stores (.stl128 d a b) 16

/-- R119, R170, R172, R223, R355: atomics at any scope but the crew's leave for their homes, one request for each address
(ACAS: for each lane), at 1 MBUD each. -/
def Sys2Proof.Claims.AtomicsTravelHome : Prop :=
  ∀ (s : State) (d a b : Reg), s.me.scope ≠ 1 → Quiet s →
    let go := fun (i : Instr) (op : AtomOp) =>
      Issues i s → CleanAccs s i true → memAccs i s.me ≠ [] →
      let cas := decide (op = .cas)
      let reqs := atomReqs s.myCore (.atom op false) cas (located s i fun l =>
        ((s.me.rd b l).toNat, if cas then (s.me.rd d l).toNat else 0))
      ∃ t, exec i s = .next t ∧ Travels s i t .atomic reqs reqs.length
    go (.aadd d a b) .add ∧ go (.amin d a b) .min ∧ go (.amax d a b) .max ∧ go (.aminu d a b) .minu ∧
    go (.amaxu d a b) .maxu ∧ go (.aand d a b) .and ∧ go (.aor d a b) .or ∧ go (.axor d a b) .xor ∧
    go (.axch d a b) .xch ∧ go (.acas d a b) .cas ∧
    go (.afadd d a b) (if s.me.etype = 3 then .faddBf16 else .faddF32)

/-- R171: at crew scope, an atomic of one lane whose line stands in L1 with RD and WR returns the old word at once and leaves
the new one in the L1 copy; its operation is forwarded home. -/
def Sys2Proof.Claims.CrewAtomicsHitInL1 : Prop :=
  ∀ (s : State) (d a b : Reg) (l : Nat) (x : L1Line),
    let va := s.me.addr a l
    let lid := lineId s.myCtx va
    s.me.scope = 1 → Quiet s → s.l1Line s.myCore lid = some x → x.rd = true → x.wr = true →
    ∀ p ∈ [(Instr.aadd d a b, AtomOp.add), (.amin d a b, .min), (.amax d a b, .max), (.aminu d a b, .minu),
        (.amaxu d a b, .maxu), (.aand d a b, .and), (.aor d a b, .or), (.axor d a b, .xor)],
      Issues p.1 s → CleanAccs s p.1 true → memAccs p.1 s.me = [(l, va, 4)] →
      let old := BitVec.ofNat 32 (lineBits x.data va 4)
      ∃ t, exec p.1 s = .next t ∧ Kept s t ∧ t.me.rd d l = (if d = .s 63 then 0 else old) ∧ t.me.pc = s.me.pc + 4 ∧
        (∃ y, t.l1Line s.myCore lid = some y ∧
          y.data = setLineCells x.data (cellsOf va 4 (atomNew p.2 old (rdl s b l) 0).toNat)) ∧
        ∃ m ∈ t.agenda, ∃ q, m = ⟨.path s.myCore (sliceOf va), 0, .homeAtomic q⟩ ∧ q.op = .atom p.2 true ∧
          q.accs = [⟨l, va, (rdl s b l).toNat, 0⟩]

/-- R349, R350, R462: PREFETCH asks for the lines of its lanes and waits for nothing; the requests of lanes whose address is not
canonical are dropped, and charged like the others. DISCARD leaves like a store. -/
def Sys2Proof.Claims.PrefetchAndDiscard : Prop :=
  ∀ (s : State) (lvl : Bool) (d a b : Reg),
    (Issues (.prefetch lvl a b) s →
      let asks := fun (good : Bool) => lineReqs s.myCore (.prefetch !lvl)
        (((s.me.actLanes (.prefetch lvl a b)).filter fun l => canonical (s.me.ea a b l) == good).map fun l =>
          let w := s.locate s.myCore s.myCtx (s.me.ea a b l)
          (w.1, (⟨l, w.2, 0, 0⟩ : LaneAcc)))
      let reqs := asks true
      let units := 2 * (reqs.length + (asks false).length)
      ∃ t, exec (.prefetch lvl a b) s = .next t ∧
        t.me = { issued (.prefetch lvl a b) s.me with mbud := t.me.mbud } ∧
        t.me.mbud = (if units = 0 then s.me.mbud else chargeTo s.me.mbud units) ∧
        t = { s.setMe t.me with
          cores := if reqs = [] then s.cores else (s.mapCore s.myCore fun c =>
            { c with prefetches := c.prefetches ++ reqs.map fun q => lineId q.ctx q.va }).cores,
          agenda := s.agenda ++ reqs.map fun q => ⟨.path s.myCore (sliceOf q.va), 0, .homeRequest q⟩ }) ∧
    (Issues (.discard d a b) s → Quiet s → memAccs (.discard d a b) s.me ≠ [] →
      (∀ p ∈ memAccs (.discard d a b) s.me, canonical p.2.1 = true ∧ p.2.2 ∈ [32, 64, 96, 128] ∧ p.2.1 % 32 = 0 ∧
        p.2.1 % 128 + p.2.2 ≤ 128) →
      let reqs := lineReqs s.myCore (.discard 0) (located s (.discard d a b) fun l => ((s.me.rd d l).toNat, 0))
      ∃ t, exec (.discard d a b) s = .next t ∧ Travels s (.discard d a b) t .store reqs reqs.length)

/-- R291, R353, R354, R223, R121: a row store and a row addition leave as one request for each acting group, with the sixteen
bytes of each lane; a row load of groups that are not in L1 likewise; each group whose lanes are all active charges 1 MBUD and
one for each 64 bytes. -/
def Sys2Proof.Claims.RowsTravelHome : Prop :=
  ∀ (s : State) (d a b : Reg),
    let len := (rdl s b 0).toNat
    let go := fun (i : Instr) (cls : OutClass) (op : HomeOp) (data : Bool) (guarded : Bool) =>
      Issues i s → Quiet s → rowCheck a b s = none → s.me.actingGroups len guarded ≠ [] →
      (∀ f ∈ s.me.actingGroups len guarded, s.laneFault (s.me.addr a f) len data = none) →
      let reqs := (s.me.actingGroups len guarded).map fun f =>
        let w := s.locate s.myCore s.myCtx (s.me.addr a f)
        (⟨.nobody, s.myCore, w.1, w.2, op, (List.range (len / 16)).map fun j =>
          ⟨f + j, w.2 + 16 * j, if data then s.me.rdBytes d 16 (f + j) else 0, 0⟩⟩ : HomeReq)
      ∃ t, exec i s = .next t ∧ Travels s i t cls reqs ((s.me.actingGroups len false).length * (1 + len / 64))
    go (.rowst d a b) .rowStore (.rowSt len) true true ∧
    go (.rowadd d a b) .rowStore (.rowAdd len (decide (s.me.etype = 3))) true true ∧
    ((∀ lid, s.l1Line s.myCore lid = none) → go (.rowld d a b) .rowLoad (.rowLd len) false false)

/-- R353, R448, R459: the operand limits of the row words: the size, groups that are partly active, and the alignment. -/
def Sys2Proof.Claims.RowLimitsTrap : Prop :=
  ∀ (s : State) (d a b : Reg), s.me.actives ≠ [] →
    let len := (rdl s b 0).toNat
    ∀ i ∈ [Instr.rowld d a b, .rowst d a b, .rowadd d a b],
      (len ∉ [64, 128, 256, 512] → ∃ r, Traps s i r ∧ r.cause = 8 ∧ r.sub = 0x10 ∧ r.info0 = len % 2 ^ 32 ∧
        r.info1 = 0 ∧ r.lanes = lanesMask s.me.actives) ∧
      (len ∈ [64, 128, 256, 512] → (∃ f ∈ rowGroups s.me len, (∃ l ∈ groupLanes len f, l ∈ s.me.actives) ∧
          ∃ l ∈ groupLanes len f, l ∉ s.me.actives) → ∃ r, Traps s i r ∧ r.cause = 8 ∧ r.sub = 0x11) ∧
      (len ∈ [64, 128, 256, 512] → (∀ f ∈ rowGroups s.me len, (∃ l ∈ groupLanes len f, l ∈ s.me.actives) →
          ∀ l ∈ groupLanes len f, l ∈ s.me.actives) → (∃ f ∈ rowGroups s.me len, f ∈ s.me.actives ∧ s.me.addr a f % len ≠ 0) →
        ∃ r, Traps s i r ∧ r.cause = 8 ∧ r.sub = 0x12)

/-! ### At the home slices (R125, R138 to R140, R158 to R172, R247, R355, R359, R471, R523) -/

namespace Sys2Proof.Claims

/-- The home slice holds the one line of `q` as `x` in device memory, readable, writable and clean of poison, and no fill of it
is on its way; every access of `n` bytes lies in it. -/
def HeldFor (s : State) (q : HomeReq) (x : L2Line) (n : Nat) : Prop :=
  s.fills = [] ∧ SMap.look s.l2 (lineId q.ctx q.va) = some x ∧ reqLines q = [lineId q.ctx q.va] ∧
  x.rd = true ∧ x.wr = true ∧ x.poison = 0 ∧ x.host = false ∧
  ∀ a ∈ q.accs, va57 a.va / 128 = va57 q.va / 128 ∧ a.va % 128 + n ≤ 128

/-- The message `ev` is in flight. -/
def InFlight (t : State) (ev : Instr) : Prop := ∃ m ∈ t.agenda, m.ev = ev

/-- Byte `o` of a line after the cells of a write: the last one written there, else what stood there. -/
def lineAfter (x : Line) (cells : List (Nat × Nat)) (o : Nat) : Byte :=
  overlay (lineByte x) (cells.map fun c => (c.1 % 128, c.2)) o

/-- Teams changed in nothing but the unsettled values that they have read (R160). -/
def SeesOnly (s t : State) : Prop :=
  ∀ k, (SMap.look t.teams k).map (fun u => { u with unsettled := [] }) = (SMap.look s.teams k).map fun u => { u with unsettled := [] }

/-- The team that sent `q` has read a value for which the line's unsettled writes stand (R160). -/
def SawUnsettled (s t : State) (q : HomeReq) (x : L2Line) : Prop :=
  ∀ k o u, q.who = .team k o → SMap.look s.teams k = some u → ∃ v, SMap.look t.teams k = some v ∧
    ∀ w ∈ x.unsettled, (SeenWrite.home w, false) ∈ v.unsettled

/-- The line `lid`, held as `x`, is hit and not changed: its age is 0 (R133); every other line is what it was. -/
def Hit (s t : State) (lid : Nat) (x : L2Line) : Prop :=
  SMap.look t.l2 lid = some { x with age := 0 } ∧ ∀ k ≠ lid, SMap.look t.l2 k = SMap.look s.l2 k

/-- `t` is `s` but for one written line, the write's number, messages, counters and what waits: `lid` holds exactly the bytes
after the cells, every other line what it held. -/
def WroteLine (s t : State) (lid : Nat) (x : L2Line) (cells : List (Nat × Nat)) : Prop :=
  (∃ y, SMap.look t.l2 lid = some y ∧ (∀ o < 128, lineByte y.data o = lineAfter x.data cells o) ∧
    y.rd = x.rd ∧ y.wr = x.wr ∧ y.ex = x.ex ∧ y.pa = x.pa ∧ y.policy = x.policy) ∧
  (∀ k ≠ lid, SMap.look t.l2 k = SMap.look s.l2 k) ∧ SeesOnly s t ∧ t.crews = s.crews ∧
  (x.policy ≠ 1 → t.dram = s.dram)

/-- Sharers that must acknowledge a write: those of the line but the one skipped. -/
def others (x : L2Line) (skip : Option Nat) : List Nat := x.sharers.filter fun c => decide (some c ≠ skip)

/-- The answer of a write with no other sharer is on its way; with sharers it is withheld, and each of them is sent an update
or, with the pattern counter at 0 or 1, an invalidation (R138). -/
def AnswersWhenShared (s t : State) (q : HomeReq) (x : L2Line) (skip : Option Nat) (reply : Instr) : Prop :=
  let lid := lineId q.ctx q.va
  (others x skip = [] → s.hostLines = [] → InFlight t reply) ∧
  (others x skip ≠ [] → (∃ w ∈ t.writes, w.wid = s.nextId ∧ w.reply = reply ∧ ∀ c ∈ others x skip, c ∈ w.waits) ∧
    ∀ c ∈ others x skip,
      (2 ≤ x.pattern → ∃ cells, InFlight t (.sharerUpdate c s.nextId q.ctx cells)) ∧
      (x.pattern < 2 → InFlight t (.sharerInvalidate c s.nextId q.ctx (lineVa lid))))

end Sys2Proof.Claims

/-- R344, R523, R133: a load that finds its line at home is answered with the bytes that stand there; nothing else changes but who
shares the line, and that its age is 0. -/
def Sys2Proof.Claims.HomeAnswersReads : Prop :=
  ∀ (s : State) (q : HomeReq) (x : L2Line) (n : Nat), q.op = .load n → HeldFor s q x n →
    ∃ t, exec (.homeRequest q) s = .next t ∧ t.dram = s.dram ∧ t.teams = s.teams ∧ t.crews = s.crews ∧
      (∃ y, SMap.look t.l2 (lineId q.ctx q.va) = some y ∧ y = { x with age := 0, sharers := y.sharers }) ∧
      (∀ k ≠ lineId q.ctx q.va, SMap.look t.l2 k = SMap.look s.l2 k) ∧
      ∃ fill wids, InFlight t (.loadReply q
        (q.accs.map fun a => (a.lane, (x.data.extractLsb' (8 * (a.va % 128)) (8 * n)).toNat)) fill wids none)

/-- R138: a plain store, ST4 or a row store of one line is applied at its home, byte by byte, and to no other line; other
sharers must acknowledge it before its writer is answered. -/
def Sys2Proof.Claims.HomePerformsStores : Prop :=
  ∀ (s : State) (q : HomeReq) (x : L2Line),
    let lid := lineId q.ctx q.va
    (∀ n, q.op = .store n → 0 < n → q.accs ≠ [] → HeldFor s q x n → ∃ t, exec (.homeWrite q) s = .next t ∧
      WroteLine s t lid x (q.accs.flatMap fun a => cellsOf a.va n a.data) ∧
      AnswersWhenShared s t q x (s.skipOf q) (.writerAck q [] none)) ∧
    (∀ a, q.op = .store4 → q.accs = [a] → HeldFor s q x 1 → ∃ t, exec (.homeWrite q) s = .next t ∧
      WroteLine s t lid x [(a.va, if a.data2 = 0 then (lineByte x.data (a.va % 128)).toNat / 16 * 16 + a.data % 16
        else (lineByte x.data (a.va % 128)).toNat % 16 + a.data % 16 * 16)] ∧
      AnswersWhenShared s t q x none (.writerAck q [] none)) ∧
    (∀ len, q.op = .rowSt len → q.accs ≠ [] → HeldFor s q x 16 → ∃ t, exec (.rowAtHome q) s = .next t ∧
      WroteLine s t lid x (q.accs.flatMap fun a => cellsOf a.va 16 a.data) ∧
      AnswersWhenShared s t q x none (.writerAck q [] none))

/-- R167, R354 and R121: a row load is answered with the sixteen bytes of every lane, and an F32 row addition of one lane adds
its four elements. -/
def Sys2Proof.Claims.HomePerformsRows : Prop :=
  ∀ (s : State) (q : HomeReq) (x : L2Line) (len : Nat), HeldFor s q x 16 →
    (q.op = .rowLd len → ∃ t, exec (.rowAtHome q) s = .next t ∧ t.dram = s.dram ∧ t.teams = s.teams ∧
      (∀ k, (SMap.look t.l2 k).map (·.data) = (SMap.look s.l2 k).map (·.data)) ∧
      ∃ fill wids, InFlight t (.loadReply q
        (q.accs.map fun a => (a.lane, (x.data.extractLsb' (8 * (a.va % 128)) 128).toNat)) fill wids none)) ∧
    (∀ a, q.op = .rowAdd len false → q.accs = [a] → ∃ t, exec (.rowAtHome q) s = .next t ∧
      WroteLine s t (lineId q.ctx q.va) x ((List.range 4).flatMap fun e => cellsOf (a.va + 4 * e) 4
        (addRnd fmtF32 0 (x.data.extractLsb' (8 * (a.va % 128 + 4 * e)) 32).toNat (a.data / 2 ^ (32 * e) % 2 ^ 32))) ∧
      AnswersWhenShared s t q x none (.writerAck q [] none))

/-- R172, R355: an atomic of one lane at home leaves the new word and answers with the old one. -/
def Sys2Proof.Claims.HomePerformsAtomics : Prop :=
  ∀ (s : State) (q : HomeReq) (x : L2Line) (op : AtomOp) (a : LaneAcc), q.op = .atom op false → q.accs = [a] →
    HeldFor s q x 4 →
    let old : Word := x.data.extractLsb' (8 * (a.va % 128)) 32
    let b := BitVec.ofNat 32 a.data
    let new := match op with
      | .add => old + b
      | .min => if b.slt old then b else old
      | .max => if old.slt b then b else old
      | .minu => if b.ult old then b else old
      | .maxu => if old.ult b then b else old
      | .and => old &&& b
      | .or => old ||| b
      | .xor => old ^^^ b
      | .xch => b
      | .cas => if old = BitVec.ofNat 32 a.data2 then b else old
      | .faddF32 => BitVec.ofNat 32 (addRnd fmtF32 0 old.toNat b.toNat)
      | .faddBf16 => BitVec.ofNat 16 (addRnd fmtBF16 0 (hiHalf old).toNat (hiHalf b).toNat) ++
          BitVec.ofNat 16 (addRnd fmtBF16 0 (loHalf old).toNat (loHalf b).toNat)
    ∃ t, exec (.homeAtomic q) s = .next t ∧
      WroteLine s t (lineId q.ctx q.va) x (cellsOf a.va 4 new.toNat) ∧ SawUnsettled s t q x ∧
      AnswersWhenShared s t q x none (.writerAck q [(a.lane, old.toNat)] none)

/-- R119: an aggregated integer atomic performs its lanes one after the other, in ascending order, and returns to each lane the
word as it found it. -/
def Sys2Proof.Claims.AtomicLanesInOrder : Prop :=
  ∀ (op : AtomOp) (m0 : Word) (accs : List LaneAcc), op ≠ .faddF32 → op ≠ .faddBf16 →
    let run := fun (n : Nat) => (accs.take n).foldl (fun w a => atomNew op w (BitVec.ofNat 32 a.data) (BitVec.ofNat 32 a.data2)) m0
    (atomLanes op m0 m0 none accs).2 = run accs.length ∧
    ∀ i (h : i < accs.length), (atomLanes op m0 m0 none accs).1[i]? = some ((accs[i]).lane, (run i).toNat)

/-- R359: LOCK at a free word takes it and is granted; at a held one its team joins the waiters, and the word stands. UNLOCK
with nobody waiting frees the word, and with one waiter hands it over. -/
def Sys2Proof.Claims.LocksAtHome : Prop :=
  ∀ (s : State) (q : HomeReq) (x : L2Line) (k o : Nat), q.who = .team k o → q.va % 8 = 0 → HeldFor s q x 8 → q.accs = [⟨0, q.va, q.va, 0⟩] →
    let lid := lineId q.ctx q.va
    let word := (x.data.extractLsb' (8 * (q.va % 128)) 64).toNat
    (∀ me, q.op = .lock me → word = 0 → ∃ t, exec (.lockAtHome q) s = .next t ∧ WroteLine s t lid x (cellsOf q.va 8 me) ∧
      AnswersWhenShared s t q x none (.waitReturn k o .lockGranted)) ∧
    (∀ me, q.op = .lock me → word ≠ 0 → ∃ t, exec (.lockAtHome q) s = .next t ∧ Hit s t lid x ∧ t.dram = s.dram ∧
      t.teams = s.teams ∧ t.writes = s.writes ∧
      t.waiters = s.waiters ++ [{ kind := 0, ctx := q.ctx, va := q.va, team := k, q := q }]) ∧
    (q.op = .unlock → s.waiters = [] → ∃ t, exec (.unlockAtHome q) s = .next t ∧ WroteLine s t lid x (cellsOf q.va 8 0) ∧
      AnswersWhenShared s t q x none (.waitReturn k o .unlocked)) ∧
    (∀ w k' o', q.op = .unlock → s.waiters = [w] → w.kind = 0 → w.ctx = q.ctx → w.va = q.va → w.team = k' →
      w.q.who = .team k' o' → (∀ p ∈ s.writes, p.wid ≠ s.nextId) → ∃ t, exec (.unlockAtHome q) s = .next t ∧ t.waiters = [] ∧
        WroteLine s t lid x (cellsOf q.va 8 (s.lockValue k')) ∧ AnswersWhenShared s t q x none (.waitReturn k' o' .lockGranted) ∧
        (others x none = [] → s.hostLines = [] → InFlight t (.waitReturn k o .unlocked)) ∧
        (others x none ≠ [] → ∃ p ∈ t.writes, p.wid = s.nextId ∧ (q, .waitReturn k o .unlocked) ∈ p.more))

/-- R246, R247, R483, R484: what each barrier operation does to PENDING, PHASE, RELOAD, OVR, ABT and WAITERS, and that a
completed phase releases its waiters; a spent barrier (OVR or ABT) takes no further operation. -/
def Sys2Proof.Claims.BarrierOperations : Prop :=
  ∀ (w0 w1 b : Nat), w0 < 2 ^ 64 → w1 < 2 ^ 48 →
    let pending := w0 % 2 ^ 48
    let spent := w0.testBit 49 = true ∨ w0.testBit 50 = true
    let step := fun (op : HomeOp) => tbStep op w0 w1
    (b < 2 ^ 48 → step (.tbInit b) = ((b, b), false, 0, false)) ∧
    (¬ spent → pending + b < 2 ^ 48 → ∃ v, step (.tbExpect b) = ((v, w1), false, 0, false) ∧ tbPending v = pending + b ∧
      tbPhase v = tbPhase w0 ∧ tbSpent v = false ∧ tbWaiters v = tbWaiters w0) ∧
    (¬ spent → 2 ^ 48 ≤ pending + b → step (.tbExpect b) = ((w0, w1), false, 0, true)) ∧
    (¬ spent → b < pending → ∃ v, step (.tbArrive b) = ((v, w1), false, 0, false) ∧ tbPending v = pending - b ∧
      tbPhase v = tbPhase w0 ∧ tbSpent v = false ∧ tbWaiters v = tbWaiters w0) ∧
    (¬ spent → b = pending → ∃ v, step (.tbArrive b) = ((v, w1), true, 0, false) ∧ tbPending v = w1 ∧
      tbPhase v = !tbPhase w0 ∧ tbSpent v = false ∧ tbWaiters v = 0) ∧
    (¬ spent → pending < b → ∃ v, step (.tbArrive b) = ((v, w1), true, 0, false) ∧ v.testBit 49 = true ∧ tbPending v = 0) ∧
    (¬ spent → ∃ v, step .tbAbort = ((v, w1), true, 0, false) ∧ v.testBit 50 = true) ∧
    (spent → step (.tbExpect b) = ((w0, w1), false, 0, false) ∧ step (.tbArrive b) = ((w0, w1), false, 0, false) ∧
      step .tbAbort = ((w0, w1), false, 0, false))

/-- R247, R464, R485: the barrier events perform these steps on the object at home: the new words are written, an unchanged
object is answered at once, a refused TBEXP answers SUB 0x26; TBWAIT returns at once when the phase has passed or the barrier is
spent, and else registers its team; TBTEST answers with word 0. -/
def Sys2Proof.Claims.BarrierEventsAtHome : Prop :=
  ∀ (s : State) (q : HomeReq) (x : L2Line) (k o : Nat), q.who = .team k o → q.va % 16 = 0 → HeldFor s q x 16 → q.accs = [⟨0, q.va, 0, 0⟩] →
    let lid := lineId q.ctx q.va
    let w0 := (x.data.extractLsb' (8 * (q.va % 128)) 64).toNat
    let w1 := (x.data.extractLsb' (8 * (q.va % 128 + 8)) 64).toNat
    let r := tbStep q.op w0 w1
    let go := fun (i : Instr) => 
      (r.2.2.2 = false → r.1 ≠ (w0, w1) → ∃ t, exec i s = .next t ∧ WroteLine s t lid x (cellsOf q.va 16 (r.1.1 + r.1.2 * 2 ^ 64)) ∧
        AnswersWhenShared s t q x none (.writerAck q [] none)) ∧
      (r.2.2.2 = false → r.1 = (w0, w1) → ∃ t, exec i s = .next t ∧ Hit s t lid x ∧ t.dram = s.dram ∧ InFlight t (.writerAck q [] none)) ∧
      (r.2.2.2 = true → ∃ t, exec i s = .next t ∧ Hit s t lid x ∧ InFlight t (.writerAck q [] (some ⟨8, 0, 0x26, q.va⟩)))
    (∀ b, q.op = .tbInit b → go (.tbInitOp q)) ∧ (∀ b, q.op = .tbExpect b → go (.tbExpectOp q)) ∧
    (∀ b, q.op = .tbArrive b → go (.tbArriveOp q)) ∧ (q.op = .tbAbort → go (.tbAbortOp q)) ∧
    (q.op = .tbTest → ∃ t, exec (.tbTestOp q) s = .next t ∧ Hit s t lid x ∧ t.dram = s.dram ∧ InFlight t (.writerAck q [(0, w0)] none)) ∧
    (∀ φ, q.op = .tbWait φ → (tbSpent w0 = true ∨ tbPhase w0 ≠ φ) →
      ∃ t, exec (.tbWaitOp q) s = .next t ∧ Hit s t lid x ∧ t.waiters = s.waiters ∧ InFlight t (.waitReturn k o .tbReleased)) ∧
    (∀ φ, q.op = .tbWait φ → tbSpent w0 = false → tbPhase w0 = φ → ∃ t v, exec (.tbWaitOp q) s = .next t ∧
      WroteLine s t lid x (cellsOf q.va 8 v) ∧ tbPending v = tbPending w0 ∧ tbPhase v = φ ∧
      tbWaiters v = min (tbWaiters w0 + 1) 255 ∧ ∃ w ∈ t.waiters, w.kind = 1 ∧ w.va = q.va ∧ w.team = k)

/-- R125, R150, R471, R523: a request whose line is absent waits at home and sends one translation; the fill installs the line
as memory holds it then, or its fault goes to every load that waits: one of a permission that loads do not need, of a word that must
stand in device memory or of an atomic path concerns only the requests that need it. -/
def Sys2Proof.Claims.AbsentLinesAreFilled : Prop :=
  ∀ (s : State) (q : HomeReq),
    let lid := lineId q.ctx q.va
    (∀ n, q.op = .load n ∨ q.op = .store n → s.fills = [] → SMap.look s.l2 lid = none →
      ∀ i, (i = .homeRequest q ∨ i = .homeWrite q) → ∃ t, exec i s = .next t ∧ t.fills = [(lid, [q])] ∧ t.l2 = s.l2 ∧
        t.dram = s.dram ∧ t.teams = s.teams ∧ InFlight t (.translateRequest q)) ∧
    (∀ qs b, s.fills = [(lid, qs)] → (∀ p ∈ qs, ∃ n, p.op = .load n) → (b.cause = 0x0B → b.kind ∉ [3, 4, 7, 8, 9]) →
      ∃ t, exec (.homeFillComplete q (.bad b)) s = .next t ∧ t.fills = [] ∧ t.l2 = s.l2 ∧ t.dram = s.dram ∧
        ∀ p ∈ qs, InFlight t (.loadReply p [] none [] (some { b with va := p.va }))) ∧
    (∀ d, s.fills = [(lid, [])] → d.policy ≠ 2 → d.host = false → SMap.look s.l2 lid = none →
      (∀ k y, SMap.look s.l2 k = some y → sliceOf (lineVa k) ≠ sliceOf (lineVa lid)) →
      ∃ t, exec (.homeFillComplete q (.filled d)) s = .next t ∧ t.fills = [] ∧ t.dram = s.dram ∧
        (∀ k ≠ lid, SMap.look t.l2 k = SMap.look s.l2 k) ∧
        ∃ y, SMap.look t.l2 lid = some y ∧ (∀ o < 128, lineByte y.data o = s.dram.byte (d.pa + o)) ∧ y.rd = d.rd ∧ y.wr = d.wr ∧ y.ex = d.ex ∧ y.dirty = 0 ∧
          y.sharers = [] ∧ y.pattern = 2) ∧
    (s.fills = [] → ∀ r, exec (.homeFillComplete q r) s = .next s)

/-- R126, R127, R469, R476: a translation that the walk refuses, or that lacks a permission, faults; one that it grants in
device memory returns the line with the leaf's permissions. -/
def Sys2Proof.Claims.TranslationsAnswer : Prop :=
  ∀ (s : State) (q : HomeReq) (n : Nat), q.op = .load n → s.cachedLeaf q.ctx q.va = none → s.hostMode 0 = false →
    (∀ b, s.walk q.ctx q.va = .error b → ∃ t, exec (.translateRequest q) s = .next t ∧ t.l2 = s.l2 ∧ t.dram = s.dram ∧
      t.tlb = s.tlb ∧ InFlight t (.homeFillComplete q (.bad b))) ∧
    (∀ lv e, s.walk q.ctx q.va = .ok (lv, e) →
      let l := leafOf lv e (va57 q.va)
      (l.rd = false → ∃ t, exec (.translateRequest q) s = .next t ∧ t.tlb = s.tlb ∧
        InFlight t (.homeFillComplete q (.bad ⟨0x0B, 2, 2, q.va⟩))) ∧
      (l.rd = true → l.tbl = false → l.host = false → s.chans = [] → ∃ t d, exec (.translateRequest q) s = .next t ∧
        t.dram = s.dram ∧ t.l2 = s.l2 ∧ InFlight t (.homeFillComplete q (.filled d)) ∧ d.rd = l.rd ∧ d.wr = l.wr ∧ d.ex = l.ex ∧
        d.pa = l.pa / 128 * 128 ∧ d.host = false ∧ ∀ o < 128, lineByte d.data o = s.dram.byte (d.pa + o)))

/-- R138 to R140, R160: sharers take an update or drop the line, and acknowledge; the last acknowledgement answers the writer;
a settle notice ends what teams still wait for. -/
def Sys2Proof.Claims.SharersAndSettlement : Prop :=
  ∀ (s : State) (core wid ctx va : Nat),
    let lid := lineId ctx va
    (∃ t, exec (.sharerInvalidate core wid ctx va) s = .next t ∧ t.l1Line core lid = none ∧ t.l2 = s.l2 ∧ t.teams = s.teams ∧
      (∀ c k, c ≠ core ∨ k ≠ lid → t.l1Line c k = s.l1Line c k) ∧ InFlight t (.sharerAck core wid ctx va none false)) ∧
    (∀ cells x, cells ≠ [] → (∀ p ∈ cells, lineId ctx p.1 = lid ∧ p.2 < 256) → s.l1Line core lid = some x → (s.coreAt core).ops = [] →
      (s.coreAt core).stores = [] → ∃ t y used a, exec (.sharerUpdate core wid ctx cells) s = .next t ∧
        t.l1Line core lid = some y ∧ (∀ o < 128, lineByte y.data o = lineAfter x.data cells o) ∧
        (∀ c k, c ≠ core ∨ k ≠ lid → t.l1Line c k = s.l1Line c k) ∧ t.l2 = s.l2 ∧ t.teams = s.teams ∧
        lineId ctx a = lid ∧ InFlight t (.sharerAck core wid ctx a used false)) ∧
    (∀ w q used vals bad, s.writes = [w] → w.wid = wid → w.waits = [core] → w.reply = .writerAck q vals bad →
      ∃ t, exec (.sharerAck core wid ctx va used false) s = .next t ∧ t.writes = [] ∧ InFlight t w.reply ∧
        t.teams = s.teams ∧ t.dram = s.dram) ∧
    (∀ w used, s.writes = [w] → w.wid = wid → w.waits.erase core ≠ [] → ∃ t, exec (.sharerAck core wid ctx va used false) s = .next t ∧
      t.writes = [{ w with waits := w.waits.erase core }] ∧ t.agenda = s.agenda) ∧
    (∃ t, exec (.settleNotice core wid) s = .next t ∧ t.dram = s.dram ∧ t.l2 = s.l2 ∧
      (∀ k u, SMap.look s.teams k = some u → SMap.look t.teams k =
        some { u with unsettled := u.unsettled.filter fun p => decide (p.1 ≠ .home wid) }))

/-- R344, R170, R438: the last answer of an outstanding load or atomic writes the values it brings and ends the entry; an
earlier one is gathered. -/
def Sys2Proof.Claims.AnswersReachTheTeam : Prop :=
  ∀ (s : State) (q : HomeReq) (k id : Nat) (t0 : Team) (o : Outstanding) (vals : List (Nat × Nat)),
    q.who = .team k id → SMap.look s.teams k = some t0 → t0.outs = [o] → o.id = id → o.bad = none → o.lanes = 0 → o.stops = [] →
    let final := { (t0.putResults o.instr (o.got ++ vals)) with outs := [] }
    (∀ n, q.op = .load n → o.pend = 1 → ∃ t, exec (.loadReply q vals none [] none) s = .next t ∧
      SMap.look t.teams k = some final ∧ t.dram = s.dram ∧ (∀ j ≠ k, SMap.look t.teams j = SMap.look s.teams j)) ∧
    (∀ n, q.op = .load n → 1 < o.pend → ∃ t, exec (.loadReply q vals none [] none) s = .next t ∧
      ∃ p, SMap.look t.teams k = some { t0 with outs := [p] } ∧
        p = { o with pend := o.pend - 1, got := o.got ++ vals, lines := p.lines, atHome := p.atHome }) ∧
    (∀ op, q.op = .atom op false → o.pend = 1 → ∃ t, exec (.writerAck q vals none) s = .next t ∧
      SMap.look t.teams k = some final ∧ t.dram = s.dram ∧ (∀ j ≠ k, SMap.look t.teams j = SMap.look s.teams j)) ∧
    (∀ (t1 : Team) d a b l v, t1.putResults (.ld32 d a b) [(l, v)] = t1.wr d l (BitVec.ofNat 32 v))

/-- R359, R360, R364: a grant, a released barrier and a changed word end the stalled instruction: the team goes on at the next
word, a lock is held from then on, and WREG writes the value. -/
def Sys2Proof.Claims.WaitsReturn : Prop :=
  ∀ (s : State) (k id v va : Nat) (t0 : Team) (o : Outstanding), SMap.look s.teams k = some t0 → t0.outs = [o] → o.id = id →
    o.got = [(0, va)] → o.pc = t0.pc → t0.reissue = none → t0.halted = false →
    let on := fun (t : State) (u : Team) => SMap.look t.teams k = some u ∧ u.outs = [] ∧ u.wait = none ∧ u.pc = t0.pc + 4 ∧
      t.dram = s.dram ∧ t.cur = s.cur ∧ ∀ j ≠ k, SMap.look t.teams j = SMap.look s.teams j
    (t0.wait = some (.lock va) → s.wftCount (dieOfCore (s.crewOf t0).core) < 4096 → ∃ t u, exec (.waitReturn k id .lockGranted) s = .next t ∧ on t u ∧
      u.vregs = t0.vregs ∧ u.sregs = t0.sregs ∧ (t0.holdings = [] → u.holdings.map (fun h => (h.va, h.isLock, h.released)) = [(va, true, false)])) ∧
    (t0.wait = some (.tb va) → ∃ t u, exec (.waitReturn k id .tbReleased) s = .next t ∧ on t u ∧
      u.vregs = t0.vregs ∧ u.sregs = t0.sregs) ∧
    (∀ d a b, t0.wait = some (.wreg va) → o.instr = .wreg d a b → d ≠ .s 63 → ∃ t u,
      exec (.waitReturn k id (.wregValue v)) s = .next t ∧ on t u ∧ u.rd d 0 = BitVec.ofNat 32 v)

/-! ### Synchronisation words (R357 to R372, R463, R464, R497 to R499) -/

namespace Sys2Proof.Claims

/-- The running team is listed, and the teams stand in rising order of their keys. -/
def Listed (s : State) : Prop := SMap.look s.teams s.cur = some s.me ∧ SMap.sortedFrom 0 s.teams = true

/-- A new wait on `o` closes no cycle and finds room in the wait-for table of its die (R497 to R503). -/
def Admitted (s : State) (o : WaitObj) : Prop :=
  Listed s ∧ s.cycleOf s.cur o = none ∧ s.me.admission = 0 ∧ s.wftCount (dieOfCore s.myCore) < 4096

/-- The team stalls at `i`, charged, waiting on `o`; its registers stand (R215, R222). -/
def Stalls (s : State) (i : Instr) (t : State) (o : WaitObj) (arrived : Bool) : Prop :=
  Kept s t ∧ t.me.wait = some o ∧ t.me.pc = s.me.pc ∧ t.me.stood = some (s.me.pc, arrived) ∧
  t.me.ibud = chargeTo s.me.ibud (issueCharge i s.me) ∧ t.me.vregs = s.me.vregs ∧ t.me.sregs = s.me.sregs

/-- No older request of the team to the lines of `q` has faulted or may still fault, or the team runs its handler (R438). -/
def Clear (s : State) (q : HomeReq) : Prop :=
  s.me.trap.inHandler = true ∨ ∀ lid ∈ reqLines q, s.lineBlocked s.me s.me.nextOut lid = false

/-- The request of an instruction on a named object is on its way to the object's home, or stands behind a fault (R438). -/
def ObjectSent (s t : State) (op : HomeOp) (va : Nat) : Prop :=
  ∃ o ∈ t.me.outs, o.pc = s.me.pc ∧ o.pend = 1 ∧
    let q := { s.objectReq op va with who := .team s.cur o.id }
    (Clear s q → ⟨.path s.myCore (sliceOf q.va), 0, arrivalEvent q⟩ ∈ t.agenda) ∧ (¬ Clear s q → q ∈ t.me.behind)

/-- The limit trap of cause 0x08 with SUB `sub` for one value (R454, R459). -/
def limit (sub v : Nat) : TrapRec := preciseTrap 8 sub (v % 2 ^ 32) (v / 2 ^ 32) 1

end Sys2Proof.Claims

/-- R161, R162, R177 and R357: the orders of the four fence words, on every access the team has issued so far. -/
def Sys2Proof.Claims.FencesHoldLaterAccesses : Prop :=
  ∀ (s : State),
    let sc := s.me.scope
    let hold := fun (i : Instr) (h : OrderHold) => Becomes s i fun t =>
      { t with holds := t.holds ++ [{ h with id := t.nextOut, handler := s.me.trap.inHandler }] }
    hold .phase ⟨0, true, true, true, true, decide (sc = 6), decide (2 ≤ sc), false, false⟩ ∧
    hold .pub ⟨0, true, false, false, true, decide (sc = 6), false, false, false⟩ ∧
    hold .acq ⟨0, false, true, false, false, decide (sc = 6), decide (2 ≤ sc), false, false⟩ ∧
    hold .efence ⟨0, false, false, false, true, false, false, false, false⟩

/-- R218, R359 and R361: LOCK registers its wait and sends its request, UNLOCK marks its holding released and sends its own;
WHOLD and WDROP change the holdings; and the limits of R463 on holdings. -/
def Sys2Proof.Claims.LockWords : Prop :=
  ∀ (s : State) (a : Reg),
    let va := s.me.addr a 0
    (Issues (.lock a) s → va % 8 = 0 → s.me.holdsLock va = false → s.me.holdingCount < 8 → canonical va = true →
      Admitted s (.lock va) → ∃ t, exec (.lock a) s = .next t ∧ Stalls s (.lock a) t (.lock va) true ∧
        t.me.mbud = chargeTo s.me.mbud 1 ∧ ObjectSent s t (.lock (s.lockValue s.cur)) va) ∧
    (decodeCheck (.lock a) s.me = none → s.me.stood = some (s.me.pc, true) → s.me.reissue = none → s.waitOpen = false →
      ∃ t, exec (.lock a) s = .next t ∧ Kept s t ∧ t.me.pc = s.me.pc + 4 ∧ t.me.ibud = s.me.ibud ∧
        t.me.vregs = s.me.vregs ∧ t.me.sregs = s.me.sregs) ∧
    (Issues (.unlock a) s → va % 8 = 0 → s.me.holdsLock va = true → ∃ t, exec (.unlock a) s = .next t ∧ Kept s t ∧
      t.me.pc = s.me.pc + 4 ∧ t.me.mbud = chargeTo s.me.mbud 1 ∧ t.me.vregs = s.me.vregs ∧ t.me.sregs = s.me.sregs ∧
      ObjectSent s t .unlock va ∧ t.me.holdings = s.me.holdings.map fun h =>
        if h.isLock = true ∧ h.va = va then { h with released := true } else h) ∧
    (va % 8 ≠ 0 → Traps s (.lock a) (limit 0 va) ∧ Traps s (.unlock a) (limit 0 va)) ∧
    (va % 8 = 0 → s.me.holdsLock va = true → Traps s (.lock a) (limit 0x20 va)) ∧
    (va % 8 = 0 → s.me.holdsLock va = false → Traps s (.unlock a) (limit 0x21 va)) ∧
    (va % 8 = 0 → s.me.holdsLock va = false → 8 ≤ s.me.holdingCount → Traps s (.lock a) (limit 0x22 va)) ∧
    (Issues (.whold a) s → s.me.declared va = false → s.me.holdingCount < 8 → s.wftCount (dieOfCore s.myCore) < 4096 → ∃ t, exec (.whold a) s = .next t ∧ Kept s t ∧
      t.me.pc = s.me.pc + 4 ∧ t.me.holdings.map (fun h => (h.va, h.isLock, h.released)) =
        s.me.holdings.map (fun h => (h.va, h.isLock, h.released)) ++ [(va, false, false)]) ∧
    (s.me.declared va = true → Becomes s (.whold a) id) ∧
    (s.me.declared va = false → 8 ≤ s.me.holdingCount → Traps s (.whold a) (limit 0x22 va)) ∧
    (Issues (.wdrop a) s → ∃ t, exec (.wdrop a) s = .next t ∧ Kept s t ∧ t.me.pc = s.me.pc + 4 ∧
      t.me.holdings = s.me.holdings.filter fun h => decide (¬ (h.va = va ∧ h.isLock = false)))

/-- R247, R360 and R364: WREG and TBWAIT register their wait and send their request; with the answer already there, a team that
comes back to them goes on. -/
def Sys2Proof.Claims.WaitWords : Prop :=
  ∀ (s : State) (d a b : Reg),
    let va := s.me.addr a 0
    let go := fun (i : Instr) (o : WaitObj) (op : HomeOp) (n : Nat) =>
      (Issues i s → va % n = 0 → canonical va = true → Admitted s o → ∃ t, exec i s = .next t ∧ Stalls s i t o true ∧
        t.me.mbud = chargeTo s.me.mbud 1 ∧ ObjectSent s t op va) ∧
      (decodeCheck i s.me = none → va % n = 0 → s.me.stood = some (s.me.pc, true) → s.me.reissue = none → s.waitOpen = false →
        ∃ t, exec i s = .next t ∧ Kept s t ∧ t.me.pc = s.me.pc + 4 ∧ t.me.ibud = s.me.ibud) ∧
      (va % n ≠ 0 → Traps s i (limit 0 va))
    go (.wreg d a b) (.wreg va) (.wreg (rdl s b 0).toNat) 4 ∧
    go (.tbwait a b) (.tb va) (.tbWait ((rdl s b 0).getLsbD 0)) 16

/-- R364, R463 and R464: the transaction-barrier words that do not wait send one request at 1 MBUD; a count out of its range
traps. -/
def Sys2Proof.Claims.TransactionBarrierWords : Prop :=
  ∀ (s : State) (d a b : Reg),
    let va := s.me.addr a 0
    let n := (s.me.rd64 b 0).toNat
    let go := fun (i : Instr) (cls : OutClass) (op : HomeOp) => Issues i s → Quiet s → va % 16 = 0 → canonical va = true →
      ∃ t, exec i s = .next t ∧ Travels s i t cls [s.objectReq op va] 1
    (n < 2 ^ 48 → go (.tbinit a b) .store (.tbInit n)) ∧
    (1 ≤ n → n < 2 ^ 48 → go (.tbexp a b) .store (.tbExpect n) ∧ go (.tbarr a b) .store (.tbArrive n)) ∧
    go (.tbtest d a) .load .tbTest ∧
    (va % 16 ≠ 0 → Traps s (.tbinit a b) (limit 0 va) ∧ Traps s (.tbexp a b) (limit 0 va) ∧ Traps s (.tbarr a b) (limit 0 va) ∧
      Traps s (.tbtest d a) (limit 0 va)) ∧
    (va % 16 = 0 → 2 ^ 48 ≤ n → Traps s (.tbinit a b) (limit 0x25 n)) ∧
    (va % 16 = 0 → n = 0 ∨ 2 ^ 48 ≤ n → Traps s (.tbexp a b) (limit 0x25 n) ∧ Traps s (.tbarr a b) (limit 0x25 n))

/-- R47, R48, R363 and R463 on an open phase: the BAR that brings the last arrival completes the phase and goes on, once no
participant has still to be placed; an earlier one stalls with its arrival recorded; BARARR hands out the token; BARWAIT goes on once its phase is over. -/
def Sys2Proof.Claims.ExecutionBarriers : Prop :=
  ∀ (s : State) (d a : Reg) (lvl : Bool),
    let b := s.barId lvl
    let x := s.barAt b
    let last := x.parts.length + s.unplaced b ≤ x.arrived.length + 1
    (x.opened = true → s.cur ∈ x.parts → s.cur ∉ x.arrived → Admitted s (.barrier b x.c) → Issues (.bar lvl) s →
      s.me.standing = none → s.me.wait = none →
      (last → ∃ t, exec (.bar lvl) s = .next t ∧ Kept s t ∧ t.me.pc = s.me.pc + 4 ∧
        t.me.vregs = s.me.vregs ∧ t.me.sregs = s.me.sregs ∧
        (t.barAt b).c = x.c + 1 ∧ (t.barAt b).opened = false ∧ (t.barAt b).arrived = [] ∧
        ∀ b' ≠ b, t.barAt b' = s.barAt b') ∧
      (¬ last → ∃ t, exec (.bar lvl) s = .next t ∧ Stalls s (.bar lvl) t (.barrier b x.c) true ∧
        t.barAt b = { x with arrived := s.cur :: x.arrived })) ∧
    (x.opened = true → s.cur ∈ x.parts → s.cur ∉ x.arrived → d ≠ .s 63 → isVec d = false → Issues (.bararr d lvl) s →
      ∃ t, exec (.bararr d lvl) s = .next t ∧ t.me.pc = s.me.pc + 4 ∧ t.dram = s.dram ∧ t.me.rd d 0 = x.c ∧
        (∀ r, r ≠ d → ∀ l, t.me.rd r l = s.me.rd r l) ∧
        t.barAt b = Bar.settle { x with arrived := s.cur :: x.arrived } (s.unplaced b)) ∧
    (s.cur ∈ s.phaseParts b → (1 ≤ (x.c - rdl s a 0).toInt →
        Becomes s (.barwait a lvl) fun t => t.hold (acquireHold (if lvl then 2 else 1))) ∧
      ((x.c - rdl s a 0).toInt < 1 → Admitted s (.barrier b (rdl s a 0)) → Issues (.barwait a lvl) s →
        ∃ t, exec (.barwait a lvl) s = .next t ∧ Stalls s (.barwait a lvl) t (.barrier b (rdl s a 0)) true)) ∧
    (x.opened = true → s.cur ∉ x.parts → lvl = false → Traps s (.bar lvl) (limit 0x23 0) ∧ Traps s (.bararr d lvl) (limit 0x23 0) ∧
      Traps s (.barwait a lvl) (limit 0x23 0)) ∧
    (x.opened = true → s.cur ∈ x.parts → s.cur ∈ x.arrived → Traps s (.bar lvl) (limit 0x24 (if lvl then 1 else 0)) ∧
      Traps s (.bararr d lvl) (limit 0x24 (if lvl then 1 else 0)))

/-- R85, R230, R365 to R367: PIN and UNPIN set and clear a slot; PINQ and RECLAIM start a search, or wait for one of the
sixteen to end. -/
def Sys2Proof.Claims.PinsAndSearches : Prop :=
  ∀ (s : State) (n : Fin 4) (d a b : Reg),
    let name := s.me.rd64 a 0
    let legal := name ≠ 0 ∧ name.toNat < 2 ^ 48
    (legal → Issues (.pin n a) s → ∃ t, exec (.pin n a) s = .next t ∧ t.dram = s.dram ∧ t.me.pc = s.me.pc + 4 ∧
      t.me.slotAt n = ⟨true, name.setWidth 48⟩ ∧ (∀ m ≠ n.val, t.me.slotAt m = s.me.slotAt m) ∧
      t.me.vregs = s.me.vregs ∧ t.me.sregs = s.me.sregs ∧ t.me.mask = s.me.mask ∧ t.me.holdings = s.me.holdings) ∧
    (s.accessOpen s.cur s.me s.me.nextOut = false → Issues (.unpin n) s → ∃ t, exec (.unpin n) s = .next t ∧ t.dram = s.dram ∧
      t.me.pc = s.me.pc + 4 ∧ t.me.slotAt n = {} ∧ (∀ m ≠ n.val, t.me.slotAt m = s.me.slotAt m) ∧
      t.me.vregs = s.me.vregs ∧ t.me.sregs = s.me.sregs) ∧
    (s.accessOpen s.cur s.me s.me.nextOut = true → Issues (.unpin n) s → ∃ t o, exec (.unpin n) s = .next t ∧ Kept s t ∧
      t.me.pc = s.me.pc + 4 ∧ t.me.vregs = s.me.vregs ∧ t.me.sregs = s.me.sregs ∧ t.me.outs = s.me.outs ++ [o] ∧
      o.instr = .unpin n ∧ o.pend = 1) ∧
    (legal → s.searches.length < 16 → Issues (.pinq d a) s → ∃ t x o, exec (.pinq d a) s = .next t ∧ Kept s t ∧
      t.me.pc = s.me.pc + 4 ∧ t.me.mbud = s.me.mbud ∧ t.searches = s.searches ++ [x] ∧ x.name = name.setWidth 48 ∧
      x.kind = .pinq s.cur o.id ∧ t.me.outs = s.me.outs ++ [o] ∧ o.pend = 1 ∧ InFlight t (.sageSearchDone x.id)) ∧
    (legal → s.me.addr b 0 % 256 = 0 → s.searches.length < 16 → Issues (.reclaim d a b) s → ∃ t x o,
      exec (.reclaim d a b) s = .next t ∧ Kept s t ∧ t.me.pc = s.me.pc + 4 ∧ t.me.mbud = chargeTo s.me.mbud 1 ∧
      t.searches = s.searches ++ [x] ∧ x.name = name.setWidth 48 ∧ x.kind = .reclaim s.cur o.id (s.me.addr b 0) ∧
      t.me.outs = s.me.outs ++ [o] ∧ o.pend = 1 ∧ InFlight t (.sageSearchDone x.id)) ∧
    (legal → 16 ≤ s.searches.length → Issues (.pinq d a) s → ∃ t, exec (.pinq d a) s = .next t ∧ Stalls s (.pinq d a) t .sage false) ∧
    (legal → s.me.addr b 0 % 256 = 0 → 16 ≤ s.searches.length → Issues (.reclaim d a b) s → ∃ t,
      exec (.reclaim d a b) s = .next t ∧ Stalls s (.reclaim d a b) t .sage false ∧ t.me.mbud = s.me.mbud ∧
      t.searches = s.searches) ∧
    (¬ legal → Traps s (.pin n a) (limit 0x27 name.toNat) ∧ Traps s (.pinq d a) (limit 0x27 name.toNat)) ∧
    (s.me.addr b 0 % 256 ≠ 0 → Traps s (.reclaim d a b) (limit 0 (s.me.addr b 0))) ∧
    (s.me.addr b 0 % 256 = 0 → ¬ legal → Traps s (.reclaim d a b) (limit 0x27 name.toNat))

/-- R59, R368 and R463: TOPUP adds to the pools of a running grid, BGRANT moves units to a child, what the pools hold at most;
a grid that is no child traps, as does a TOPUP without the right to it. -/
def Sys2Proof.Claims.PoolsAreRefilled : Prop :=
  ∀ (s : State) (d a b : Reg),
    let h := (rdl s a 0).toNat
    let gi := (rdl s b 0).toNat
    let gm := (rdl s (regAt b 1) 0).toNat
    let own := s.myCrew.grid
    let may := s.myCtx < 4 ∨ (s.myGrid.launch.poolown = true ∧ h = own)
    (may → s.gridRuns h = true → s.poolGrid h = h → s.parkedOn h = [] → Issues (.topup a b) s →
      ∃ t, exec (.topup a b) s = .next t ∧ t.me = issued (.topup a b) s.me ∧ t.dram = s.dram ∧
        (t.gridAt h).ipool = min ((s.gridAt h).ipool + gi) (2 ^ 64 - 1) ∧
        (t.gridAt h).mpool = min ((s.gridAt h).mpool + gm) (2 ^ 64 - 1) ∧ ∀ g ≠ h, t.gridAt g = s.gridAt g) ∧
    (may → s.gridRuns h = false → Becomes s (.topup a b) id) ∧
    (¬ may → Traps s (.topup a b) (preciseTrap 9 1 h 0)) ∧
    (s.gridRuns h = true → (s.gridAt h).parent = some own → s.poolGrid h = h → s.poolGrid own = own → h ≠ own →
      (SMap.look s.grids own).isSome = true → s.parkedOn h = [] → Issues (.bgrant d a b) s → isVec d = false →
      let i := min gi (s.gridAt own).ipool
      let m := min gm (s.gridAt own).mpool
      ∃ t, exec (.bgrant d a b) s = .next t ∧ t.me.pc = s.me.pc + 4 ∧ t.dram = s.dram ∧
        t.me.rd d 0 = BitVec.ofNat 32 i ∧ t.me.rd (regAt d 1) 0 = (if regAt d 1 = .s 63 then 0 else BitVec.ofNat 32 m) ∧
        (t.gridAt own).ipool = (s.gridAt own).ipool - i ∧ (t.gridAt own).mpool = (s.gridAt own).mpool - m ∧
        (t.gridAt h).ipool = min ((s.gridAt h).ipool + i) (2 ^ 64 - 1) ∧
        (t.gridAt h).mpool = min ((s.gridAt h).mpool + m) (2 ^ 64 - 1)) ∧
    (s.gridRuns h = true → (s.gridAt h).parent ≠ some own → Traps s (.bgrant d a b) (limit 0x33 h)) ∧
    (s.gridRuns h = false → Gives64 s (.bgrant d a b) d fun _ => 0)

/-- R49, R370, R371, R463 and R499: LAUNCH hands its record to the launch unit of its partition, GWAIT waits for what its handle
names; depth 15, a team other than team 0, and the team's own lineage trap. -/
def Sys2Proof.Claims.LaunchesAndGridWaits : Prop :=
  ∀ (s : State) (d a b : Reg),
    let va := s.me.addr a 0
    let part := (s.gridAt s.myCrew.grid).part
    let h := (rdl s a 0).toNat
    (va % 128 = 0 → s.myGrid.depth < 15 → s.me.idx = 0 → Issues (.launch d a b) s → ∃ t r o, exec (.launch d a b) s = .next t ∧
      Kept s t ∧ t.me.pc = s.me.pc + 4 ∧ t.me.vregs = s.me.vregs ∧ t.me.sregs = s.me.sregs ∧
      t.me.mbud = chargeTo s.me.mbud 1 ∧ t.me.outs = s.me.outs ++ [o] ∧ o.pend = 1 ∧
      t.launches = s.launches ++ [(part, r)] ∧ r.team = s.cur ∧ r.out = o.id ∧ r.addr = va ∧ r.ctx = s.myCtx ∧
      r.grid = s.myCrew.grid ∧ r.args = (if b = .s 63 then none else some (s.me.rd64 b 0)) ∧
      InFlight t (.acceptLaunchRecord part)) ∧
    (va % 128 ≠ 0 → Traps s (.launch d a b) (limit 0 va)) ∧
    (va % 128 = 0 → 15 ≤ s.myGrid.depth → Traps s (.launch d a b) (preciseTrap 8 0x30 0 0 1)) ∧
    (va % 128 = 0 → s.myGrid.depth < 15 → s.me.idx ≠ 0 → Traps s (.launch d a b) (preciseTrap 8 0x31 0 0 1)) ∧
    (s.ownLineage h = false → s.handleRuns h = false → Becomes s (.gwait a) fun t => t.hold (acquireHold 4)) ∧
    (s.ownLineage h = false → s.handleRuns h = true → Admitted s (.grid (rdl s a 0)) → Issues (.gwait a) s →
      ∃ t, exec (.gwait a) s = .next t ∧ Stalls s (.gwait a) t (.grid (rdl s a 0)) true) ∧
    (s.ownLineage h = true → Traps s (.gwait a) (preciseTrap 0x0C 1 h 0))

/-- R86 to R88 and R372: GIVEBACK takes the top groups of the window away and keeps the rest; CLAIM adds groups when the core's
pool holds them and no claim waits, and else waits; the pool serves a waiting claim whole. -/
def Sys2Proof.Claims.RegisterBlocks : Prop :=
  ∀ (s : State) (n : Fin 32) (core k need : Nat) (u : Team),
    (8 * n.val + 8 ≤ s.me.window → s.me.outs = [] → Issues (.giveback n) s → ∃ t, exec (.giveback n) s = .next t ∧
      t.me = { issued (.giveback n) s.me with window := s.me.window - 8 * n.val, vregs := t.me.vregs } ∧
      (∀ j < s.me.window - 8 * n.val, ∀ l < 1024, t.me.readV j l = s.me.readV j l) ∧
      t.dram = s.dram ∧ InFlight t (.claimGrant s.myCore)) ∧
    (s.me.window < 8 * n.val + 8 → ∃ v, Traps s (.giveback n) (preciseTrap 8 0x34 v 0 1)) ∧
    (0 < s.me.lanes → s.me.window + 8 * n.val ≤ 192 → Listed s → s.me.passes * n.val ≤ s.freeBlocks s.myCore →
      s.claimQueue s.myCore = [] → Becomes s (.claim n) fun t => { t with window := t.window + 8 * n.val }) ∧
    (s.me.window + 8 * n.val ≤ 192 → Listed s → s.freeBlocks s.myCore < s.me.passes * n.val →
      Admitted s (.pool (s.me.passes * n.val)) → Issues (.claim n) s →
      ∃ t, exec (.claim n) s = .next t ∧ Stalls s (.claim n) t (.pool (s.me.passes * n.val)) true) ∧
    (192 < s.me.window + 8 * n.val → Traps s (.claim n) (limit 0x34 (s.me.window + 8 * n.val))) ∧
    (s.claimQueue core = [] → exec (.claimGrant core) s = .next (s.send .free (.crewPlace (clusterOfCore core)))) ∧
    (s.claimQueue core = [k] → SMap.look s.teams k = some u → u.wait = some (.pool need) → u.standing = none → need ≤ s.freeBlocks core →
      u.reissue = none → ∃ t v, exec (.claimGrant core) s = .next t ∧ SMap.look t.teams k = some v ∧ v.wait = none ∧
        v.pc = u.pc + 4 ∧ v.window = u.window + 8 * need / u.passes ∧ v.vregs = u.vregs ∧ t.cur = s.cur ∧
        ∀ j ≠ k, SMap.look t.teams j = SMap.look s.teams j)

/-! ### Sink groups and SPAWN (R83, R143 to R148, R289, R290, R351, R369, R472) -/

namespace Sys2Proof.Claims

/-- The words after the SINK stand in the core's instruction cache as `ws`, and the group breaks no rule (R290, R460). -/
def GroupAt (s : State) (i : Instr) (n : Nat) (ws : List Word) : Prop :=
  Issues i s ∧ sinkCheck i n s = none ∧ goodWords (s.myGroup n) = some ws

/-- IBUD after a SINK and its group: each of its words is charged at the SINK's issue (R285, R351). -/
def groupIbud (s : State) (i : Instr) (ws : List Word) : Int :=
  chargeTo (chargeTo s.me.ibud (issueCharge i s.me)) ((groupInstrs ws).foldl (fun n j => n + issueCharge j s.me) 0)

/-- The packets of a group all of whose lanes are sunk (R143). -/
def packetsOf (s : State) (ws : List Word) (atomic : Bool) : List HomeReq :=
  sinkPackets s.myCore ws s.me.mode atomic ((anchorAccs ws s.me).map fun p =>
    ((s.locate s.myCore s.myCtx p.2.1).1, (s.locate s.myCore s.myCtx p.2.1).2, sinkEnv s.me (groupRegs s.me ws).1 p.1 p.2.1))

/-- A plain packet goes on with its lanes as `ls`. -/
def goesOn (q : HomeReq) (words : List Word) (mode : BitVec 16) (run : SinkRun) : Instr :=
  .sinkPacketAtSite { q with op := .sink words mode false run }

end Sys2Proof.Claims

/-- R143, R147, R148 and R351: a SINK whose group is well formed issues as one: the team goes on behind the group and the words are
charged; where every lane is sunk, one packet for each line of each pass leaves, with its MBUD; and a group that is one load
with all its lines in L1 gives what that load gives, at site 0. -/
def Sys2Proof.Claims.SinkGroupsIssue : Prop :=
  ∀ (s : State) (h flagA : Bool) (cntm1 : Fin 16) (ws : List Word),
    let i : Instr := .sink h flagA cntm1
    let n := cntm1.val + 1
    let next := s.me.pc + BitVec.ofNat 32 (4 + 4 * ws.length)
    (GroupAt s i n ws → ∃ t, exec i s = .next t ∧ t.me.pc = next ∧ t.me.ibud = groupIbud s i ws ∧ t.dram = s.dram ∧ t.l2 = s.l2 ∧
      t.crews = s.crews ∧ t.me.trap = s.me.trap ∧ t.me.mask = s.me.mask ∧ t.me.mode = s.me.mode ∧
      ∀ k ≠ s.cur, SMap.look t.teams k = SMap.look s.teams k) ∧
    (GroupAt s i n ws → anchorAccs ws s.me ≠ [] →
      (∀ p ∈ anchorAccs ws s.me, canonical p.2.1 = true ∧
        s.rangeHit (dieOfCore s.myCore) s.myCtx (p.2.1 / 128 * 128) 128 true = false ∧
        (h = true ∨ flagA = true ∨
          s.l1Line s.myCore (lineId (s.locate s.myCore s.myCtx p.2.1).1 (s.locate s.myCore s.myCtx p.2.1).2) = none)) →
      let pkts := packetsOf s ws flagA
      ∃ t o, exec i s = .next t ∧ Kept s t ∧ t.me.vregs = s.me.vregs ∧ t.me.sregs = s.me.sregs ∧ t.me.pc = next ∧
        t.me.mbud = chargeTo s.me.mbud (pkts.foldl (fun n q => n + packetUnits ws (groupRegs s.me ws).1 q.accs.length) 0) ∧
        t.me.outs = s.me.outs ++ [o] ∧ o.instr = i ∧ o.pc = s.me.pc ∧ o.cls = .sink ∧ o.pend = pkts.length ∧ o.bad = none ∧
        ∀ q ∈ pkts, ⟨.path s.myCore (sliceOf q.va), 0, .sinkPacketAtHome { q with who := .team s.cur o.id }⟩ ∈ t.agenda) ∧
    (∀ w d a b, GroupAt s i n ws → ws = [w] → decode w = .ok (.ld32 d a b) → h = false → flagA = false →
      (∀ l ∈ s.me.actives, canonical (s.me.ea a b l) = true ∧ s.laneFault (s.me.ea a b l) 4 false = none ∧
        s.locate s.myCore s.myCtx (s.me.ea a b l) = (s.myCtx, s.me.ea a b l) ∧
        ∃ x, s.l1Line s.myCore (lineId s.myCtx (s.me.ea a b l)) = some x ∧ x.rd = true) →
      ∃ t, exec i s = .next t ∧ t.me.pc = next ∧ t.me.outs = s.me.outs ∧ t.me.mbud = s.me.mbud ∧ t.me.sregs = s.me.sregs ∧
        t.me.preds = s.me.preds ∧
        (WroteGroup s.me t.me d 1 fun l _ => match s.l1Line s.myCore (lineId s.myCtx (s.me.ea a b l)) with
          | some x => BitVec.ofNat 32 (lineBits x.data (s.me.ea a b l) 4)
          | none => 0) ∧
        ∀ l ∈ s.me.actives, SMap.get 0 t.me.sinkSite l = 0) ∧
    (∀ r, sinkCheck i n s = some r → Traps s i r) ∧
    (Issues i s → sinkCheck i n s = none → goodWords (s.myGroup n) = none → exec i s = .next s) ∧
    (∀ sub w, goodWords (s.myGroup n) = some ws → groupBreach s.me (wordOf i) ws = some (sub, w) →
      sinkCheck i n s = some (preciseTrap 1 sub w 0))

/-- R144 to R146: an A-group runs whole at the slice that holds its line, lane by lane, its writes as one write and its results as
one answer; a plain packet goes to the controller where no copy is held, and else runs access by access; one that is over
answers with its site. -/
def Sys2Proof.Claims.SinkPacketsRun : Prop :=
  ∀ (s : State) (q : HomeReq) (words : List Word) (mode : BitVec 16) (lanes : List SinkEnv) (x : L2Line) (site : Nat) (e y : SinkEnv)
    (a : SinkAcc) (wids : List Nat) (pa : Nat),
    let lid := lineId q.ctx q.va
    let run : SinkRun := ⟨site, lanes, wids, pa⟩
    let at' := q.va / 128 * 128 + a.va % 128
    let put := fun (z : SinkEnv) => lanes.map fun o => if o.lane = z.lane then z else o
    (q.op = .sink words mode true ⟨0, lanes, [], pa⟩ → HeldFor s q x 1 →
      let r := packetWhole words mode lanes x.data
      let cells := (dedupNat r.2.2.2).map fun o => (lineVa lid + o, (lineByte r.2.1 o).toNat)
      ∃ t, exec (.sinkPacketAtHome q) s = .next t ∧ (x.policy ≠ 1 → t.dram = s.dram) ∧
        (∀ k ≠ lid, SMap.look t.l2 k = SMap.look s.l2 k) ∧
        (cells = [] → Hit s t lid x ∧ InFlight t (.sinkResult q 1 r.1 none)) ∧
        (cells ≠ [] → (∃ z, SMap.look t.l2 lid = some z ∧ ∀ o < 128, lineByte z.data o = lineAfter x.data cells o) ∧
          AnswersWhenShared s t q x none (.sinkResult q 1 r.1 none))) ∧
    (q.op = .sink words mode false ⟨0, lanes, [], pa⟩ → s.fills = [] → SMap.look s.l2 lid = none →
      exec (.sinkPacketAtHome q) s = .next (s.send .free (.translateRequest q))) ∧
    (q.op = .sink words mode false run → site ≠ 0 → lanes.find? (fun z => !laneOver words z) = some e →
      laneToAccess words mode 16 e = (y, some a) → SMap.look s.l2 lid = some x →
      a.va % 128 + a.n ≤ 128 → a.data = none →
      ∃ t, exec (.sinkPacketAtSite q) s = .next t ∧ t.dram = s.dram ∧ Hit s t lid x ∧
        InFlight t (goesOn q words mode { run with lanes := put (laneDone words mode y (lineBits x.data a.va a.n)) })) ∧
    (∀ v, q.op = .sink words mode false run → site ≠ 0 → lanes.find? (fun z => !laneOver words z) = some e →
      laneToAccess words mode 16 e = (y, some a) → SMap.look s.l2 lid = some x → x.policy ≠ 1 → a.va % 128 + a.n ≤ 128 → 0 < a.n → a.data = some v →
      ∃ t z, exec (.sinkPacketAtSite q) s = .next t ∧ t.dram = s.dram ∧ SeesOnly s t ∧
        SMap.look t.l2 lid = some z ∧
        (∀ o < 128, lineByte z.data o = lineAfter x.data (cellsOf at' a.n v) o) ∧
        InFlight t (goesOn q words mode { run with lanes := put (laneDone words mode y 0), wids := s.nextId :: wids })) ∧
    (q.op = .sink words mode false run → site ≠ 0 → (∀ z ∈ lanes, laneOver words z = true) →
      (∀ w ∈ s.writes, w.wid ∉ wids) →
      exec (.sinkPacketAtSite q) s = .next (s.send (replyChan q) (.sinkResult q site lanes none)))

/-- R83, R147, R148 and R472: the last result of a group writes each lane's registers with its site, is charged, and ends the
group; a packet that would read poison returns no result, and its PART trap names its lowest lane. -/
def Sys2Proof.Claims.SinkResultsArrive : Prop :=
  ∀ (s : State) (q : HomeReq) (k out site l v c : Nat) (words : List Word) (mode : BitVec 16) (atomic : Bool) (run : SinkRun) (t0 : Team)
    (o : Outstanding) (va : Nat),
    q.who = .team k out → q.op = .sink words mode atomic run → SMap.look s.teams k = some t0 → t0.outs = [o] → o.id = out →
    o.pend = 1 → o.bad = none → o.stops = [] → o.lanes = 0 → o.got = [] → o.cls = .sink → l < 1024 → site < 4 → q.accs.length = 1 →
    (c < 192 → c ∈ (groupInstrs words).flatMap memberWrites → v < 2 ^ 32 → ∃ t u, 
      exec (.sinkResult q site [⟨l, va, words.length, [(c, v)], none⟩] none) s = .next t ∧ SMap.look t.teams k = some u ∧
      u.outs = [] ∧ u.mbud = chargeTo t0.mbud (resultUnits words 1) ∧ (∀ j ≠ k, SMap.look t.teams j = SMap.look s.teams j) ∧
      (∀ j m, m < 1024 → u.readV j m = if j = c ∧ m = l then BitVec.ofNat 32 v else t0.readV j m) ∧
      SMap.get 0 u.sinkSite l = BitVec.ofNat 2 site ∧ u.sregs = t0.sregs ∧ u.preds = t0.preds) ∧
    (∀ b, q.accs = [⟨l, va, v, 0⟩] → ∃ t u r, exec (.sinkResult q site [] (some b)) s = .next t ∧ SMap.look t.teams k = some u ∧
      u.vregs = t0.vregs ∧ u.sregs = t0.sregs ∧ u.preds = t0.preds ∧ u.mbud = chargeTo t0.mbud (resultUnits words 1) ∧
      InFlight t (.partTrap k r o.pc.toNat) ∧ r.cause = b.cause ∧ r.part = true ∧ r.info0 = v % 2 ^ 32 ∧
      r.lanes = BitVec.ofNat 1024 (2 ^ l))

/-! ### Gangs, the accumulator store and the matrix datapath (R380 to R396, R384 to R386, R466, R524) -/

namespace Sys2Proof.Claims

/-- The device with `o` appended to the matrix datapath of the running team's core. -/
def queued (s : State) (o : AccOp) : State := s.mapCore s.myCore fun c => { c with jobs := c.jobs ++ [o] }

/-- Rows `r` to `r + n - 1` of a crew belong to nobody. -/
def rowsFree (c : Crew) (r n : Nat) : Prop := r + n ≤ c.accRows ∧ ∀ i < n, SMap.look c.owner (r + i) = none

/-- The crew's accumulator store is `f` where `hit` holds, and unchanged elsewhere. -/
def AccIs (c c' : Crew) (hit : Nat → Nat → Prop) (f : Nat → Nat → Word) : Prop :=
  ∀ row col, col < 256 → (hit row col → c'.accAt row col = f row col) ∧ (¬ hit row col → c'.accAt row col = c.accAt row col)

/-- A member whose copy stands at the latch waits there at its instruction (R381). -/
def StandsAt (s : State) (x : LatchCopy) : Prop :=
  ∃ u, SMap.look s.teams x.team = some u ∧ u.wait = some .latch ∧ u.pc = x.pc ∧ u.stood = some (u.pc, true) ∧ u.reissue = none

end Sys2Proof.Claims

/-- R384, R385 and R466: allocation takes the lowest run of free rows, windows the team on it and has it zeroed; ACCWIN and
ACCFREE change the window; the element words hand their operation to the matrix datapath; and their limits. -/
def Sys2Proof.Claims.AccumulatorWords : Prop :=
  ∀ (s : State) (d a b : Reg) (r : Nat),
    let c := s.myCrew
    let x := (rdl s a 0).toNat
    let y := (rdl s b 0).toNat
    let mine := s.me.idx + 1
    let owns := ∃ p ∈ c.owner, p.2 = mine
    let inLim := fun (i : Instr) => ∀ l ∈ s.me.actLanes i, (s.me.rd a l).toNat < s.me.accLim ∧ (s.me.rd b l).toNat < 256
    (SMap.look s.crews s.me.crew).isSome = true →
    (¬ owns → 1 ≤ x → x ≤ 512 → rowsFree c r x → (∀ r' < r, ¬ rowsFree c r' x) → Issues (.accalloc d a) s → isVec d = false →
      ∃ t, exec (.accalloc d a) s = .next t ∧ t.dram = s.dram ∧ t.me.pc = s.me.pc + 4 ∧ t.me.accBase = r ∧ t.me.accLim = x ∧
        t.me.rd d 0 = (if d = .s 63 then 0 else BitVec.ofNat 32 r) ∧ t.me.vregs = s.me.vregs ∧
        (∀ i, SMap.look (t.crewAt s.me.crew).owner i = if r ≤ i ∧ i < r + x then some mine else SMap.look c.owner i) ∧
        (∀ k ≠ s.me.crew, t.crewAt k = s.crewAt k) ∧ (∀ k ≠ s.cur, SMap.look t.teams k = SMap.look s.teams k) ∧
        (t.coreAt s.myCore).jobs = (s.coreAt s.myCore).jobs ++ [.zero s.me.crew s.cur r x]) ∧
    (¬ owns → 1 ≤ x → x ≤ 512 → (∀ r', ¬ rowsFree c r' x) → isVec d = false →
      Becomes s (.accalloc d a) fun t => t.wr d 0 0xFFFFFFFF) ∧
    (owns → Traps s (.accalloc d a) (preciseTrap 8 0x50 0 0 1)) ∧
    (¬ owns → x = 0 ∨ 512 < x → Traps s (.accalloc d a) (preciseTrap 8 0x51 x 0 1)) ∧
    (x + y ≤ c.accRows → Becomes s (.accwin a b) fun t => { t with accBase := x % 512, accLim := y }) ∧
    (c.accRows < x → Traps s (.accwin a b) (preciseTrap 8 0x52 x 0 1)) ∧
    (x ≤ c.accRows → c.accRows < x + y → Traps s (.accwin a b) (preciseTrap 8 0x52 y 0 1)) ∧
    (Issues .accfree s → exec .accfree s = .next ((s.setMe { issued .accfree s.me with accBase := 0, accLim := 0 }).setCrew
      s.me.crew { c with owner := c.owner.filter fun p => decide (p.2 ≠ mine) })) ∧
    (Issues (.accwr d a b) s → inLim (.accwr d a b) → s.me.actLanes (.accwr d a b) ≠ [] →
      exec (.accwr d a b) s = .next (queued (s.setMe (issued (.accwr d a b) s.me)) (.write s.me.crew s.cur
        ((s.me.actLanes (.accwr d a b)).map fun l => (s.me.accBase + (s.me.rd a l).toNat, (s.me.rd b l).toNat, s.me.rd d l))))) ∧
    (Issues (.accrd d a b) s → inLim (.accrd d a b) → s.me.actLanes (.accrd d a b) ≠ [] → ∃ o, o.pend = 1 ∧ o.instr = .accrd d a b ∧
      exec (.accrd d a b) s = .next (queued (s.setMe { issued (.accrd d a b) s.me with outs := s.me.outs ++ [o], nextOut := o.id + 1 })
        (.read s.me.crew s.cur o.id ((s.me.actLanes (.accrd d a b)).map fun l =>
          (l, s.me.accBase + (s.me.rd a l).toNat, (s.me.rd b l).toNat))))) ∧
    (∀ i, (i = .accwr d a b ∨ i = .accrd d a b) → ¬ inLim i → ∃ r, Traps s i r ∧ r.cause = 8 ∧ r.sub = 0x53 ∧ r.prec = true) ∧
    (Issues (.acczero a b) s → 1 ≤ y → x + y ≤ s.me.accLim → exec (.acczero a b) s =
      .next (queued (s.setMe (issued (.acczero a b) s.me)) (.zero s.me.crew s.cur (s.me.accBase + x) y))) ∧
    (s.me.accLim < x → Traps s (.acczero a b) (preciseTrap 8 0x53 x 0 1)) ∧
    (x ≤ s.me.accLim → y = 0 ∨ s.me.accLim < x + y → Traps s (.acczero a b) (preciseTrap 8 0x53 y 0 1))

/-- R386, R396, R524: the datapath performs its operations in order: a zeroing, the writes and the read of elements, a drain,
which adds the scaled partials of its chain to their destination rows, and a scale row; the crew's region is not being saved. -/
def Sys2Proof.Claims.AccumulatorOperations : Prop :=
  ∀ (s : State) (core crew k row n out : Nat) (u : Team) (c : Crew) (o : Outstanding),
    SMap.look s.crews crew = some c → c.taken = false → c.taking = false → SMap.look s.teams k = some u → u.mma = none → u.scaleFaults = [] →
    let runs := fun (op : AccOp) (hit : Nat → Nat → Prop) (f : Nat → Nat → Word) =>
      (s.coreAt core).jobs = [op] → ∃ t, exec (.accumulatorOpDone core) s = .next t ∧ (t.coreAt core).jobs = [] ∧
        t.dram = s.dram ∧ t.l2 = s.l2 ∧ (∀ j ≠ crew, SMap.look t.crews j = SMap.look s.crews j) ∧ (t.crewAt crew).owner = c.owner ∧
        AccIs c (t.crewAt crew) hit f
    runs (.zero crew k row n) (fun r _ => row ≤ r ∧ r < row + n) (fun _ _ => 0) ∧
    (∀ col w, col < 256 → runs (.write crew k [(row, col, w)]) (fun r q => r = row ∧ q = col) (fun _ _ => w)) ∧
    (∀ ts ctl sc key base, (∀ t ∈ ts, t = k) → key.n ≤ 256 →
      let y := base + ctl.toNat % 512
      runs (.drain crew ts ctl sc key base) (fun r q => y ≤ r ∧ r < y + key.m ∧ q < key.n) (fun r q =>
        drainElem key (c.accAt (base + key.prow + (r - y)) q)
          (if ctl.getLsbD 30 then 0x3F800000 else c.accAt (base + bitsOf ctl.toNat 10 9) (r - y))
          (if ctl.getLsbD 31 then 0x3F800000 else c.accAt (base + bitsOf ctl.toNat 20 9) q) sc (c.accAt r q))) ∧
    (u.outs = [o] → o.id = out → o.bad = none → o.stops = [] → o.pend = 1 →
      (∀ d a b l col, o.instr = .accrd d a b → o.got = [] → l < 1024 → (s.coreAt core).jobs = [.read crew k out [(l, row, col)]] →
        ∃ t v, exec (.accumulatorOpDone core) s = .next t ∧ t.crews = s.crews ∧ SMap.look t.teams k = some v ∧ v.outs = [] ∧
          v.rd d l = (if d = .s 63 then 0 else c.accAt row col) ∧ (∀ r m, m < 1024 → r ≠ d ∨ (isVec d = true ∧ m ≠ l) → v.rd r m = u.rd r m)) ∧
      (∀ d a b j w, o.instr = .scld d a b → isVec d = false → d ≠ .s 63 → j < 64 → w < 2 ^ 128 → o.got = [(j, w)] →
        (s.coreAt core).jobs = [.scale crew k out row 0] → ∃ t v, exec (.accumulatorOpDone core) s = .next t ∧
          (∀ i ≠ crew, SMap.look t.crews i = SMap.look s.crews i) ∧
          AccIs c (t.crewAt crew) (fun r q => r = row ∧ 4 * j ≤ q ∧ q < 4 * j + 4) (fun _ q => BitVec.ofNat 32 (w / 2 ^ (32 * (q - 4 * j)))) ∧
          SMap.look t.teams k = some v ∧ v.outs = [] ∧ v.rd d 0 = 0x3F800000 ∧ v.vregs = u.vregs))

/-- R391 to R393, R395, R466: an MMA and an MDRAIN of a team that is in no gang are checked, charged, and handed to the matrix
datapath; the MMA takes its rows of A from the active lanes at its issue, opens or continues its chain, joins the open batch
and clears MROW. -/
def Sys2Proof.Claims.MatrixWords : Prop :=
  ∀ (s : State) (d a b : Reg) (f : BitVec 64),
    let i : Instr := .mma d a b
    let c := s.mmaCopy d a b
    let k0 := firstK s.me.trap.mrow
    s.gangOf s.me = none →
    (Issues i s → (s.me.fmtWords b) ≠ [] → (∀ g ∈ s.me.fmtWords b, g = f) → s.matrixLimit [c] (some f) = none → ∃ t j, exec i s = .next t ∧
      t = queued ((s.countUnit 0 s.myCore 8 9 (mmaUnits f k0)).setMe t.me) (.mma j) ∧
      t.me = { s.me with pc := s.me.pc + 4, ibud := chargeTo s.me.ibud (ceilDiv (fmtM f * fmtN f * (fmtK f - k0)) 4096),
                         stood := none, admission := 0, chain := s.me.chain.take f k0,
                         batches := s.me.joinBatch.batches,
                         trap := { s.me.trap with mrow := s.me.trap.mrow &&& 0x7FFFFFFF } } ∧
      j.crew = s.me.crew ∧ j.fmt = f ∧ j.baddr = (rdl s a 0).toNat + 2 ^ 32 * (rdl s (regAt a 1) 0).toNat ∧ j.k0 = k0 ∧
      j.base = s.me.accBase ∧ j.opens = s.me.chain.openKey.isNone ∧ j.running = false ∧ j.reads = none ∧
      j.parts = [⟨s.cur, s.me.pc, s.me.live, s.me.batchNext⟩] ∧
      ∀ m < fmtM f, ∀ r < rowRegs f, r < 512 → m < 1024 →
        SMap.get 0 j.a (512 * m + r) = if m ∈ s.me.actives then s.me.readV (d.code + r) m else 0) ∧
    (s.me.fmtWords b ≠ [] → (∀ g ∈ s.me.fmtWords b, g = f) → ∀ sub, s.matrixLimit [c] (some f) = some sub →
      Traps s i (preciseTrap 8 sub (f.toNat % 2 ^ 32) (f.toNat / 2 ^ 32) (if isVec b then s.me.live else 1))) ∧
    ((∃ g ∈ s.me.fmtWords b, ∃ h ∈ s.me.fmtWords b, g ≠ h) → Traps s i (preciseTrap 6 0 (s.me.gang.toNat % 65536) 0)) ∧
    (∀ k, Issues (.mdrain d a) s → s.me.chain.openKey = none → s.me.chain.closed = some k →
      drainLimit s.me.chain (rdl s d 0).toNat s.me.accLim = none →
      exec (.mdrain d a) s = .next (queued (s.setMe (issued (.mdrain d a) s.me))
        (.drain s.me.crew [s.cur] (rdl s d 0) (rdl s a 0) k s.me.accBase))) ∧
    (s.me.chain.openKey.isSome = true → Traps s (.mdrain d a) (preciseTrap 8 0x57 0 0 1)) ∧
    (s.me.chain.openKey = none → s.me.chain.closed = none → Traps s (.mdrain d a) (preciseTrap 8 0x58 0 0 1))

/-- R112 to R114, R116, R391, R392, R394, R478: an MMA runs step by step. The rows of B that a step needs are read as plain loads of
the MMA's first team, and every element of them lies where R391 puts it; then each partial is the step's exact sum, added in the
chain's arithmetic, and the last step counts in the teams' batches. A fault of the reads keeps the MMA and raises the PART trap, and
no element is changed. -/
def Sys2Proof.Claims.MmaRuns : Prop :=
  ∀ (s : State) (core k len : Nat) (u : Team) (c : Crew) (j : MmaJob) (p : MmaPart),
    SMap.look s.crews j.crew = some c → c.taken = false → c.taking = false → SMap.look s.teams k = some u → u.mma = none →
    u.scaleFaults = [] → (s.coreAt core).jobs = [.mma j] → j.parts = [p] → p.team = k → stepLen (fmtA j.fmt) (fmtB j.fmt) = some len → j.k0 < fmtK j.fmt →
    let row0 := j.base + fmtProw j.fmt
    let rows := min len (fmtK j.fmt - j.k0)
    let w := codeWidth (fmtB j.fmt)
    let mine : State := { s with cur := k }
    let loads := mine.bLoads j
    let reqs := bReqs core j loads
    (∀ i < rows, ∀ n < fmtN j.fmt, ∃ x ∈ j.bUnits, x.1 = (j.bUnit i n).1 ∧ (j.bUnit i n).2 + w ≤ 8 * x.2.2 ∧
      8 * x.2.1 + (j.bUnit i n).2 = if fmtB j.fmt = 6 then 8 * (j.baddr + 32 * n) + 4 * (j.k0 + i)
        else 8 * (j.baddr + 64 * fmtPitch j.fmt * (j.k0 + i)) + w * n) ∧
    (j.reads = none → u.outs = [] → s.mmaRoom j = true → ∃ t v o, exec (.mmaFinish core) s = .next t ∧ t.dram = s.dram ∧ t.l2 = s.l2 ∧
      (t.coreAt core).jobs = [.mma { j with opens := false, running := true, reads := some o.id }] ∧
      (∀ q ≠ j.crew, SMap.look t.crews q = SMap.look s.crews q) ∧
      AccIs c (t.crewAt j.crew) (fun r n => j.opens = true ∧ row0 ≤ r ∧ r < row0 + fmtM j.fmt ∧ n < fmtN j.fmt) (fun _ _ => 0) ∧
      SMap.look t.teams k = some v ∧ v.vregs = u.vregs ∧ v.sregs = u.sregs ∧ v.preds = u.preds ∧ v.batches = u.batches ∧
      v.mbud = (if reqs = [] then u.mbud else chargeTo u.mbud (mine.missCharge core reqs)) ∧
      v.outs = [o] ∧ o.pend = reqs.length + 1 ∧ o.pc = p.pc ∧
      (∀ n b, (n, b) ∈ o.got ↔ ∃ lid, LaneLoad.hit n b lid ∈ loads) ∧
      ∀ q ∈ reqs, ⟨.path core (sliceOf q.va), 0, .homeRequest { q with who := .team k o.id }⟩ ∈ t.agenda) ∧
    (∀ o, j.reads = some o.id → u.outs = [o] → o.pend = 1 → o.bad = none →
      let unit := fun (x : Nat) => SMap.get 0 (o.got.foldl (fun m g => SMap.set 0 m g.1 g.2) ([] : SMap Nat)) x
      let elem := fun (m n : Nat) => (List.range rows).map fun i =>
        (j.aElem m (j.k0 + i), bitsOf (unit (j.bUnit i n).1) (j.bUnit i n).2 w)
      ∃ t v, exec (.mmaFinish core) s = .next t ∧ t.dram = s.dram ∧ t.l2 = s.l2 ∧
        (∀ q ≠ j.crew, SMap.look t.crews q = SMap.look s.crews q) ∧
        AccIs c (t.crewAt j.crew) (fun r n => row0 ≤ r ∧ r < row0 + fmtM j.fmt ∧ n < fmtN j.fmt) (fun r n =>
          if fmtA j.fmt = 4 ∨ fmtA j.fmt = 5 then c.accAt r n + BitVec.ofInt 32
            (((elem (r - row0) n).map fun x => elemInt (fmtA j.fmt) x.1 * elemInt (fmtB j.fmt) x.2).foldl (· + ·) 0)
          else floatStep (fmtA j.fmt) (fmtB j.fmt) (elem (r - row0) n) (c.accAt r n)) ∧
        SMap.look t.teams k = some v ∧ v.vregs = u.vregs ∧ v.outs = [] ∧
        (j.k0 + rows < fmtK j.fmt → v = { u with outs := [], faultLines := u.faultLines ++ o.badLines } ∧
          (t.coreAt core).jobs = [.mma { j with k0 := j.k0 + rows, reads := none }]) ∧
        (j.k0 + rows = fmtK j.fmt → (t.coreAt core).jobs = [] ∧ v.batches = (u.finishOp p.batch).batches ∧
          v.batchDone = (u.finishOp p.batch).batchDone)) ∧
    (∀ o b, j.reads = some o.id → u.outs = [o] → o.pend = 1 → o.bad = some b → ∃ t v r, exec (.mmaFinish core) s = .next t ∧
      (t.coreAt core).jobs = [] ∧ t.dram = s.dram ∧ t.l2 = s.l2 ∧ (t.crewAt j.crew).acc = c.acc ∧
      SMap.look t.teams k = some v ∧ v.trap = u.trap ∧ v.mma = some { j with opens := false, running := false, reads := none } ∧ v.batches = (u.finishOp p.batch).batches ∧
      InFlight t (.partTrap k r p.pc.toNat) ∧ r.cause = b.cause ∧ r.part = true ∧ r.lanes = p.lanes ∧ r.info0 = b.va % 2 ^ 32)

/-- R392, R394, R438, R478: the fault of a kept MMA is delivered: the team enters its handler at the MMA's PC, MROW names the first row
of the step that was not performed, and, where no later MMA of the team stands in the datapath, the chain is open again with the
K rows done so far. -/
def Sys2Proof.Claims.MmaFaultsAreDelivered : Prop :=
  ∀ (s : State) (k : Nat) (u : Team) (j : MmaJob) (p : MmaPart) (r : TrapRec),
    SMap.look s.teams k = some u → u.mma = some j → p ∈ j.parts → p.team = k → s.gangOf u = none →
    (s.crewAt u.crew).handler = none → u.trap.inHandler = false → u.trap.tvbase.getLsbD 0 = true → s.mmaQueued k = false →
    ∃ t v, exec (.partTrap k r p.pc.toNat) s = .next t ∧ t.dram = s.dram ∧ SMap.look t.teams k = some v ∧
      v.trap.inHandler = true ∧ v.trap.tpc = p.pc ∧ v.trap.restart = r.lanes ∧
      v.trap.mrow = BitVec.ofNat 32 (2 ^ 31 + j.k0 % 1024) ∧ v.mma = some j ∧ v.vregs = u.vregs ∧ v.sregs = u.sregs ∧
      v.chain = { u.chain with openKey := some ⟨fmtProw j.fmt, fmtM j.fmt, fmtN j.fmt, fmtA j.fmt, fmtB j.fmt, j.fmt.getLsbD 9⟩,
                               count := j.count - (fmtK j.fmt - j.k0) }

/-- R380, R466, R497: GANG forms a gang when its last member arrives, an earlier one waits; its limits. -/
def Sys2Proof.Claims.GangsForm : Prop :=
  ∀ (s : State) (a : Reg),
    let v := (rdl s a 0).toNat
    let mask : BitVec 16 := (rdl s a 0).extractLsb' 0 16
    let i : Instr := .gang a
    let wanted := mask ≠ 0 ∧ s.me.gang = 0 ∧ mask.getLsbD s.me.idx = true ∧ 2 ≤ countBits mask.toNat 16 ∧ v < 65536 ∧
      v < 2 ^ s.myGrid.launch.crewTeams
    let others := fun (k : Nat) => k ∈ s.teamsOfCrew s.me.crew ∧ k ≠ s.cur ∧ mask.getLsbD (SMap.get default s.teams k).idx = true
    (SMap.look s.crews s.me.crew).isSome = true → Listed s → s.me.wait = none →
    (∀ k ∈ s.teamsOfCrew s.me.crew, (SMap.get default s.teams k).reissue = none) →
    (wanted → Issues i s → (∀ j < 16, mask.getLsbD j = true → j ≠ s.me.idx → (mask, 16 * s.me.crew + j) ∈ s.myCrew.rendezvous) →
      ∃ t, exec i s = .next t ∧ t.dram = s.dram ∧ t.me.pc = s.me.pc + 4 ∧ t.me.gang = gangWord mask s.me.idx ∧
        t.me.vregs = s.me.vregs ∧ t.me.sregs = s.me.sregs ∧ t.me.wait = none ∧
        (∃ g ∈ (t.crewAt s.me.crew).gangs, g.members = mask) ∧
        (∀ k, others k → ∃ u, SMap.look t.teams k = some u ∧ u.gang = gangWord mask u.idx ∧ u.wait ≠ some (.gang mask)) ∧
        ∀ k, ¬ others k → k ≠ s.cur → SMap.look t.teams k = SMap.look s.teams k) ∧
    (wanted → Issues i s → (∃ j < 16, mask.getLsbD j = true ∧ j ≠ s.me.idx ∧ (mask, 16 * s.me.crew + j) ∉ s.myCrew.rendezvous) →
      Admitted s (.gang mask) → ∃ t, exec i s = .next t ∧ t.me.wait = some (.gang mask) ∧ t.me.pc = s.me.pc ∧
        t.me.stood = some (s.me.pc, true) ∧ t.me.ibud = chargeTo s.me.ibud (issueCharge i s.me) ∧
        (t.crewAt s.me.crew).rendezvous = (mask, s.cur) :: s.myCrew.rendezvous ∧
        ∀ k ≠ s.cur, SMap.look t.teams k = SMap.look s.teams k) ∧
    (mask ≠ 0 → s.me.gang.getLsbD 31 = true → Traps s i (preciseTrap 8 0x40 v 0 1)) ∧
    (mask = 0 → s.me.gang.getLsbD 31 = false → Traps s i (preciseTrap 8 0x41 v 0 1)) ∧
    (mask ≠ 0 → s.me.gang.getLsbD 31 = false → mask.getLsbD s.me.idx = false → Traps s i (preciseTrap 8 0x42 v 0 1)) ∧
    (mask ≠ 0 → s.me.gang.getLsbD 31 = false → mask.getLsbD s.me.idx = true → countBits mask.toNat 16 < 2 →
      Traps s i (preciseTrap 8 0x43 v 0 1)) ∧
    (mask ≠ 0 → s.me.gang.getLsbD 31 = false → mask.getLsbD s.me.idx = true → 2 ≤ countBits mask.toNat 16 → 65536 ≤ v →
      Traps s i (preciseTrap 8 0x44 v 0 1))

/-- R381 and R453: a gang member's MMA is copied to the latch and its team waits for the others; the last one has the operation
performed once for all members, or, where the copies differ, traps every member with cause 0x06. -/
def Sys2Proof.Claims.GangsIssueMatrixWordsOnce : Prop :=
  ∀ (s : State) (d a b : Reg) (g : Gang) (f : BitVec 64),
    let i : Instr := .mma d a b
    let c := s.mmaCopy d a b
    let crew := s.me.crew
    let full := { g with latch := g.latch ++ [c] }
    s.gangOf s.me = some g → g.members.getLsbD s.me.idx = true → (SMap.look s.crews crew).isSome = true → Admitted s .latch → Issues i s → s.me.wait = none →
    (∀ x ∈ g.latch, x.team ≠ s.cur ∧ x.kept = none) → (∀ x ∈ s.me.fmtWords b, x = f) → s.me.fmtWords b ≠ [] →
    let units := ceilDiv (fmtM f * fmtN f * (fmtK f - firstK s.me.trap.mrow)) 4096
    (s.latched crew full = none → ∃ t, exec i s = .next t ∧ t.me.wait = some .latch ∧ t.me.pc = s.me.pc ∧
      t.me.stood = some (s.me.pc, true) ∧ t.me.ibud = chargeTo s.me.ibud units ∧
      (∃ h ∈ (t.crewAt crew).gangs, h = full) ∧ ∀ k ≠ s.cur, SMap.look t.teams k = SMap.look s.teams k) ∧
    (∀ cs, s.latched crew full = some cs → diverge cs = none → s.matrixLimit cs (some f) = none → (∀ x ∈ cs, x.fmt = some f) →
      (∀ x ∈ cs, x.team ≠ s.cur → StandsAt s x) →
      ∃ t j, exec i s = .next t ∧ (t.coreAt s.myCore).jobs = (s.coreAt s.myCore).jobs ++ [.mma j] ∧ j.fmt = f ∧
        j.parts.map MmaPart.team = cs.map LatchCopy.team ∧ t.me.wait = none ∧ t.me.pc = s.me.pc + 4 ∧
        t.me.ibud = chargeTo s.me.ibud units ∧
        ∀ x ∈ cs, x.team ≠ s.cur → ∃ u v, SMap.look s.teams x.team = some u ∧ SMap.look t.teams x.team = some v ∧
          v.wait = none ∧ v.pc = u.pc + 4 ∧ v.batches = u.joinBatch.batches) ∧
    (∀ cs sub, s.latched crew full = some cs → diverge cs = some sub → s.myCrew.handler = none →
      (∀ k ∈ s.teamsOfCrew crew, (SMap.get default s.teams k).trap.tvbase.getLsbD 0 = false) → ∃ t, exec i s = .next t ∧ t.teamsOfCrew crew = [])

/-- R381, R395, R396: the MDRAIN of a gang member is copied to the latch and its team waits; the last one has one drain of the gang's
chain performed for all members, whose waits end. -/
def Sys2Proof.Claims.GangsDrainOnce : Prop :=
  ∀ (s : State) (d a : Reg) (g : Gang),
    let i : Instr := .mdrain d a
    let c : LatchCopy := ⟨s.cur, false, none, [rdl s d 0, rdl s a 0], s.me.accBase, s.me.accLim, s.me.trap.mrow, 0, [], s.me.live,
      s.me.pc, none, false, 1⟩
    let crew := s.me.crew
    let full := { g with latch := g.latch ++ [c] }
    s.gangOf s.me = some g → g.members.getLsbD s.me.idx = true → (SMap.look s.crews crew).isSome = true → Admitted s .latch →
    Issues i s → s.me.wait = none → (∀ x ∈ g.latch, x.team ≠ s.cur ∧ x.kept = none) →
    (s.latched crew full = none → ∃ t, exec i s = .next t ∧ t.me.wait = some .latch ∧ t.me.pc = s.me.pc ∧
      t.me.stood = some (s.me.pc, true) ∧ (∃ h ∈ (t.crewAt crew).gangs, h = full) ∧
      ∀ k ≠ s.cur, SMap.look t.teams k = SMap.look s.teams k) ∧
    (∀ cs k, s.latched crew full = some cs → diverge cs = none → (∀ x ∈ cs, x.fmt = none ∧ x.mma = false) →
      cs ≠ [] → g.chain.openKey = none → g.chain.closed = some k →
      (∀ x ∈ cs, drainLimit g.chain (rdl s d 0).toNat x.lim = none ∧ s.gangOf (SMap.get default s.teams x.team) = some g ∧
        (SMap.get default s.teams x.team).crew = crew) →
      (∀ x ∈ cs, x.team ≠ s.cur → StandsAt s x) →
      ∃ t, exec i s = .next t ∧ (t.coreAt s.myCore).jobs = (s.coreAt s.myCore).jobs ++
          [.drain crew (cs.map LatchCopy.team) (rdl s d 0) (rdl s a 0) k s.me.accBase] ∧
        t.me.wait = none ∧ t.me.pc = s.me.pc + 4 ∧
        ∀ x ∈ cs, x.team ≠ s.cur → ∃ u v, SMap.look s.teams x.team = some u ∧ SMap.look t.teams x.team = some v ∧
          v.wait = none ∧ v.pc = u.pc + 4)

/-- R381, R439, R453: where the copies differ and the members have handlers, the latch is emptied, the first member enters its
handler with cause 0x06 and the gang's mask, and every other member has the same trap at its own instruction to come. -/
def Sys2Proof.Claims.DivergenceReachesEveryMember : Prop :=
  ∀ (s : State) (d a b : Reg) (g : Gang) (cs : List LatchCopy) (c0 : LatchCopy) (sub : Nat),
    let i : Instr := .mma d a b
    let crew := s.me.crew
    let full := { g with latch := g.latch ++ [s.mmaCopy d a b] }
    let r := preciseTrap 6 sub g.members.toNat 0
    s.gangOf s.me = some g → (SMap.look s.crews crew).isSome = true → Admitted s .latch → Issues i s → s.me.wait = none →
    (∀ x ∈ g.latch, x.team ≠ s.cur ∧ x.kept = none) → s.latched crew full = some (c0 :: cs) → diverge (c0 :: cs) = some sub →
    s.myCrew.handler = none →
    (∀ x ∈ c0 :: cs, ∃ u, SMap.look s.teams x.team = some u ∧ u.crew = crew ∧ u.trap.tvbase.getLsbD 0 = true ∧
      u.trap.inHandler = false) →
    ∃ t v, exec i s = .next t ∧ (∀ h ∈ (t.crewAt crew).gangs, h.members = g.members → h.latch = []) ∧
      SMap.look t.teams c0.team = some v ∧ v.trap.inHandler = true ∧ v.trap.tcause = trapWord r false ∧ v.trap.tpc = c0.pc ∧
      v.trap.tinfo0 = BitVec.ofNat 32 g.members.toNat ∧
      ∀ x ∈ cs, ∃ u w, SMap.look s.teams x.team = some u ∧ SMap.look t.teams x.team = some w ∧
        w.pending = u.pending ++ [(r, x.pc)]

/-- R386, R466: SCLD with its lines in L1 hands its row to the datapath at once; with none of them there its reads travel. -/
def Sys2Proof.Claims.ScaleLoads : Prop :=
  ∀ (s : State) (d a b : Reg),
    let i : Instr := .scld d a b
    let ctl := (rdl s b 0).toNat
    let mode := ctl / 2 ^ 16 % 4
    let va := s.me.addr a 0
    let job := fun (o : Outstanding) => AccOp.scale s.me.crew s.cur o.id (s.me.accBase + ctl % 512) mode
    let ok := va % 128 = 0 ∧ mode ≠ 3 ∧ ctl % 512 < s.me.accLim ∧ ctl / 512 % 128 = 0 ∧ ctl < 2 ^ 18
    (∀ n ∈ scaleChunks mode, s.laneFault (va + n.2.1) n.2.2 false = none) → Issues i s → s.me.scaleFaults = [] →
    (ok → (∀ n ∈ scaleChunks mode, ∃ x, s.l1Line s.myCore (lineId (s.locate s.myCore s.myCtx (va + n.2.1)).1
        (s.locate s.myCore s.myCtx (va + n.2.1)).2) = some x ∧ x.rd = true) →
      ∃ t o, exec i s = .next t ∧ Kept s t ∧ t.me.pc = s.me.pc + 4 ∧ t.me.mbud = s.me.mbud ∧ t.me.vregs = s.me.vregs ∧
        t.me.sregs = s.me.sregs ∧ t.me.outs = s.me.outs ++ [o] ∧ o.pend = 1 ∧ o.instr = i ∧ o.got.map Prod.fst = (scaleChunks mode).map Prod.fst ∧
        (t.coreAt s.myCore).jobs = (s.coreAt s.myCore).jobs ++ [job o]) ∧
    (ok → (∀ lid, s.l1Line s.myCore lid = none) →
      let reqs := fun (n : Nat) => lineReqs s.myCore (.load n) (((scaleChunks mode).filter fun x => decide (x.2.2 = n)).map fun x =>
        ((s.locate s.myCore s.myCtx (va + x.2.1)).1, ⟨x.1, (s.locate s.myCore s.myCtx (va + x.2.1)).2, 0, 0⟩))
      let all := reqs 16 ++ reqs 4
      ∃ t o, exec i s = .next t ∧ Kept s t ∧ t.me.pc = s.me.pc + 4 ∧ t.me.mbud = chargeTo s.me.mbud (s.missCharge s.myCore all) ∧
        t.me.outs = s.me.outs ++ [o] ∧ o.pend = all.length + 1 ∧ (t.coreAt s.myCore).jobs = (s.coreAt s.myCore).jobs ++ [job o] ∧
        ∀ q ∈ all, ⟨.path s.myCore (sliceOf q.va), 0, .homeRequest { q with who := .team s.cur o.id }⟩ ∈ t.agenda) ∧
    (va % 128 ≠ 0 → Traps s i (limit 0 va)) ∧
    (va % 128 = 0 → (mode = 3 ∨ s.me.accLim ≤ ctl % 512 ∨ ctl / 512 % 128 ≠ 0 ∨ 2 ^ 18 ≤ ctl) →
      Traps s i (preciseTrap 8 0x54 ctl 0 1))

/-! ### Engine words and batches (R235, R236, R238, R249, R288, R374 to R379) -/

namespace Sys2Proof.Claims

/-- `raw` is the packet that an engine word builds: KIND, SUB, SRC and DST of the word, every other byte from the block of
registers that starts at `b` (R238, R375). -/
def Builds (s : State) (raw : BitVec 512) (kind : Nat) (sub : Option Nat) (dst src : Nat) (b : Reg) : Prop :=
  let w := fun (i : Nat) => (rdl s (regAt b i) 0).toNat
  let f := rawField raw
  f 0 8 = 0 ∧ f 8 1 = kind ∧ f 9 1 = w 0 / 2 ^ 8 % 2 ^ 8 ∧ f 0xA 1 = sub.getD (w 0 / 2 ^ 16 % 2 ^ 8) ∧ f 0xB 1 = w 0 / 2 ^ 24 ∧
  f 0xC 4 = w 1 ∧ f 0x10 8 = src ∧ f 0x18 8 = dst ∧ f 0x20 4 = w 2 ∧ f 0x24 4 = w 3 ∧ f 0x28 4 = w 4 ∧ f 0x2C 4 = w 5 ∧
  f 0x30 4 = w 6 ∧ f 0x34 4 = w 7 ∧ f 0x38 4 = w 8 ∧ f 0x3C 4 = w 9

/-- The packet `p` stands at the instruction port of the engine of the running team's cluster, in its open batch. -/
def AtPort (s : State) (p : Packet) (raw : BitVec 512) : Prop :=
  p.raw = raw ∧ p.engine = clusterOfCore s.myCore ∧ p.queue = none ∧ p.accepted = false ∧ p.ctx = s.myCtx ∧
  p.team = some s.cur ∧ p.batch = s.me.batchNext ∧ p.grid = s.myCrew.grid ∧ p.crew = s.myCrew.num

/-- The running team after `i` handed a packet over: issued, with its MBUD charged and one more operation in its open batch. -/
def handed (i : Instr) (t : Team) (mem : Nat) : Team :=
  { issued i t with mbud := chargeTo t.mbud mem, batches := t.joinBatch.batches }

/-- MBUD of a transfer at its hand-over (R288): 1, and one for each 64 bytes that the kind counts. -/
def handMbud (raw : BitVec 512) : Option Nat :=
  let f := rawField raw
  match f 8 1, f 0xA 1 with
  | 0, 0 | 1, 0 | 5, _ => some (1 + ceilDiv (f 0x28 8) 64)
  | 0, 1 | 1, 1 => some (1 + ceilDiv (f 0x28 8 * f 0x30 8) 64)
  | 0, 2 | 1, 2 => some 1
  | 2, _ => some (1 + ceilDiv (f 0x38 4 * f 0x28 8) 64 + ceilDiv (4 * f 0x38 4) 64)
  | 6, _ => some 2
  | _, _ => none

end Sys2Proof.Claims

/-- R235, R236, R238, R288, R375, R376: an engine word builds its packet from its addresses and its block, hands it to the engine of
its cluster and goes on; with 16 packets at the port it stalls there, charged. -/
def Sys2Proof.Claims.EngineWordsHandOver : Prop :=
  ∀ (s : State) (d a b : Reg),
    let dst := s.me.addr d 0
    let src := s.me.addr a 0
    ∀ p ∈ [(Instr.cpy d a b, 0, some 0, dst, src), (.cpys d a b, 0, some 1, dst, src), (.cpyt d a b, 0, some 2, dst, src),
        (.cpyr d a b, 1, none, dst, src), (.rgath d a b, 2, some 0, dst, src), (.coll d a b, 5, none, dst, src), (.nmblk a b, 6, some 0, 0, src)],
      Issues p.1 s → ∃ raw mem, Builds s raw p.2.1 p.2.2.1 p.2.2.2.1 p.2.2.2.2 b ∧ (∀ m, handMbud raw = some m → mem = m) ∧
        (s.portFull (clusterOfCore s.myCore) = false → ∃ x, AtPort s x raw ∧ exec p.1 s = .next { s.setMe (handed p.1 s.me mem) with
          packets := s.packets ++ [x], nextId := s.nextId + 1 }) ∧
        (s.portFull (clusterOfCore s.myCore) = true → ∃ t, exec p.1 s = .next t ∧ Stalls s p.1 t .port false ∧
          t.me.mbud = chargeTo s.me.mbud mem ∧ t.packets = s.packets)

/-- R377, R463: QSUB hands over the 64 bytes that stand at its address: at once when their line stands in L1, else it stalls until
they have returned; and its alignment. -/
def Sys2Proof.Claims.QsubHandsOverItsPacket : Prop :=
  ∀ (s : State) (a : Reg),
    let i : Instr := .qsub a
    let va := s.me.addr a 0
    let w := s.locate s.myCore s.myCtx va
    (Issues i s → va % 64 = 0 → s.laneFault va 64 false = none → s.portFull (clusterOfCore s.myCore) = false →
      ∀ x, s.l1Line s.myCore (lineId w.1 w.2) = some x → x.rd = true → ∃ t p mem, exec i s = .next t ∧ Kept s t ∧ t.me.pc = s.me.pc + 4 ∧
        t.packets = s.packets ++ [p] ∧ AtPort s p (BitVec.ofNat 512 (lineBits x.data w.2 64)) ∧
        t.me.mbud = chargeTo s.me.mbud mem ∧ (∀ m, handMbud p.raw = some m → mem = m) ∧ t.me.batches = s.me.joinBatch.batches) ∧
    (Issues i s → Quiet s → va % 64 = 0 → s.laneFault va 64 false = none → s.l1Line s.myCore (lineId w.1 w.2) = none →
      ∃ t o, exec i s = .next t ∧ Stalls s i t .port false ∧ t.me.outs = [o] ∧ o.instr = i ∧ o.pend = 1 ∧ t.packets = s.packets ∧
        ∃ q, q.va = w.2 ∧ q.op = .load 64 ∧ q.ctx = w.1 ∧ q.who = .team s.cur o.id ∧
          ⟨.path s.myCore (sliceOf w.2), 0, .homeRequest q⟩ ∈ t.agenda) ∧
    (decodeCheck i s.me = none → va % 64 = 0 → s.me.stood = some (s.me.pc, false) → s.me.reissue = none →
      ∀ raw, s.me.packet = some raw → s.portFull (clusterOfCore s.myCore) = false → ∃ t p, exec i s = .next t ∧ Kept s t ∧
        t.me.pc = s.me.pc + 4 ∧ t.me.ibud = s.me.ibud ∧ t.me.packet = none ∧ t.packets = s.packets ++ [p] ∧ AtPort s p raw) ∧
    (va % 64 ≠ 0 → Traps s i (limit 0 va))

/-- R84, R249, R379: BSEAL names the open batch and opens the next; a 32nd unfinished one waits. BWAIT goes on, acquiring, when no more
batches than its count are unfinished, and else waits. BWAITY then yields to its label, without a top-up; a re-activated team
goes on there. -/
def Sys2Proof.Claims.BatchWords : Prop :=
  ∀ (s : State) (n : Fin 32) (d a : Reg),
    let lab := rdl s a 0
    let few := s.me.unfinished ≤ n.val
    let openN := s.me.batchCount s.me.batchNext
    (openN = 0 ∨ s.me.unfinished < 32 → Issues (.bseal d) s → isVec d = false → ∃ t, exec (.bseal d) s = .next t ∧
      t = s.setMe t.me ∧ t.me = { issued (.bseal d) s.me with sregs := t.me.sregs, batchNext := s.me.batchNext + 1, batchDone := t.me.batchDone } ∧
      t.me.rd d 0 = (if d = .s 63 then 0 else s.me.batchNext) ∧ (∀ r, r ≠ d → ∀ l, t.me.rd r l = s.me.rd r l) ∧
      (s.me.batches = [] → t.me.batchDone = s.me.batchNext)) ∧
    (openN ≠ 0 → 32 ≤ s.me.unfinished → Issues (.bseal d) s → ∃ t, exec (.bseal d) s = .next t ∧ Stalls s (.bseal d) t .seal false) ∧
    (few → Becomes s (.bwait n) fun t => t.hold (acquireHold 4)) ∧
    (¬ few → Issues (.bwait n) s → ∃ t, exec (.bwait n) s = .next t ∧ Stalls s (.bwait n) t (.batches n.val) false) ∧
    (lab.toNat % 4 = 0 → few → Becomes s (.bwaity n a) fun t => t.hold (acquireHold 4)) ∧
    (lab.toNat % 4 = 0 → ¬ few → s.me.gang = 0 → Issues (.bwaity n a) s → ∃ t, exec (.bwaity n a) s = .next t ∧ t.dram = s.dram ∧
      t.me.wait = some (.batchesYield n.val lab) ∧ t.me.pc = lab ∧ t.me.vregs = s.me.vregs ∧ t.me.sregs = s.me.sregs ∧
      t.me.mbud = s.me.mbud ∧ t.me.ibud = chargeTo s.me.ibud (issueCharge (.bwaity n a) s.me) ∧
      ∀ k ≠ s.cur, SMap.look t.teams k = SMap.look s.teams k) ∧
    (lab.toNat % 4 ≠ 0 → Traps s (.bwaity n a) (preciseTrap 2 1 lab.toNat 0)) ∧
    (∀ k u m, SMap.look s.teams k = some u → u.wait = some (.batchesYield m lab) → u.place = .resident → u.unfinished ≤ m →
      u.gang = 0 → ∃ t v, exec (.bwaityReactivate k) s = .next t ∧ SMap.look t.teams k = some v ∧ v.wait = none ∧ v.pc = u.pc ∧
        v.vregs = u.vregs ∧ v.ibud = u.ibud ∧ v.mbud = u.mbud ∧ ∀ j ≠ k, SMap.look t.teams j = SMap.look s.teams j) ∧
    (∀ k u m, SMap.look s.teams k = some u → u.wait = some (.batchesYield m lab) → m < u.unfinished →
      exec (.bwaityReactivate k) s = .next s)

/-- R180, R253, R378: NMCMD sends its command to the engine it names and waits for its acceptance; with a free place the engine
accepts it and the team goes on; and its limits. -/
def Sys2Proof.Claims.NearMemoryCommandsAreSent : Prop :=
  ∀ (s : State) (a b : Reg),
    let i : Instr := .nmcmd a b
    let op := (rdl s a 0).toNat % 256
    let e := (rdl s b 0).toNat
    (2 ≤ op → op ≤ 5 → e ≤ 383 → Issues i s → ∃ t x, exec i s = .next t ∧ Stalls s i t .nmcmd true ∧
      t.me.mbud = chargeTo s.me.mbud 1 ∧ t.me.batches = s.me.joinBatch.batches ∧
      (t.engineAt e).queue = (s.engineAt e).queue ++ [x] ∧ (∀ j ≠ e, t.engineAt j = s.engineAt j) ∧ x.ctx = s.myCtx ∧
      x.team = some s.cur ∧ x.pid = none ∧ x.batch = s.me.batchNext ∧
      x.cmds = [(0, rdl s (regAt a 3) 0 ++ rdl s (regAt a 2) 0 ++ rdl s (regAt a 1) 0 ++ rdl s a 0)] ∧ InFlight t (.submissionTake e)) ∧
    (op < 2 ∨ 5 < op → Traps s i (preciseTrap 8 0x35 (rdl s a 0).toNat 0 1)) ∧
    (2 ≤ op → op ≤ 5 → 383 < e → Traps s i (preciseTrap 8 0x35 e 0 1)) ∧
    (∀ k u x, s.chans = [(e, x)] → SMap.look s.teams k = some u → u.wait = some .nmcmd → u.reissue = none →
      ∀ c, x.queue = [c] → c.pid = none → c.team = some k → c.cmds = [] → x.subs = [] → x.waits = [] →
      ∃ t v, exec (.nmcmdAccept k) s = .next t ∧ SMap.look t.teams k = some v ∧ v.wait = none ∧ v.pc = u.pc + 4 ∧ v.vregs = u.vregs ∧
        (t.engineAt e).queue = [] ∧ (t.engineAt e).subs = [{ c with taken := true }] ∧ t.cur = s.cur ∧ t.dram = s.dram ∧
        ∀ j ≠ k, SMap.look t.teams j = SMap.look s.teams j)

/-! ### Drover packets and the peer fabric (R177 to R179, R235 to R245, R249 to R251, R267, R479 to R481, R487, R491, R515) -/

namespace Sys2Proof.Claims

/-- The packet `p` is under way at its engine and free to take its next step. -/
def UnderWay (s : State) (p : Packet) : Prop :=
  s.packetAt p.id = some p ∧ p.accepted = true ∧ p.started = true ∧ p.failed = none ∧ p.stop = false ∧ p.reported = false ∧ p.aborted = false ∧
  p.waiting = false ∧ p.reads = 0 ∧ p.tb = 0 ∧ (p.kind ≠ 5 ∨ s.aborts = [])

/-- Packet `p` has become `p'`; memory, the slices, the teams and the other packets stand. -/
def PacketIs (s t : State) (p p' : Packet) : Prop :=
  t.packetAt p.id = some p' ∧ t.dram = s.dram ∧ t.l2 = s.l2 ∧ t.teams = s.teams ∧
  ∀ k ≠ p.id, t.packetAt k = s.packetAt k

/-- A request of packet `p` is on its way home. -/
def Requests (t : State) (p : Packet) (va : Nat) (op : HomeOp) (data : Nat) : Prop :=
  InFlight t (arrivalEvent ⟨.drover p.id, p.engine, p.ctx, va, op, [⟨0, va, data, 0⟩]⟩)

/-- Packet `p` reads `n` bytes at `va`: one access of 16 bytes, or of an index; any other bytes singly (R240, R243). -/
def ReadsUnit (s : State) (i : Instr) (p : Packet) (va n : Nat) : Prop :=
  (∀ j < n, canonical ((va + j) % 2 ^ 64) = true) →
    (va % n = 0 ∧ (n = 16 ∨ p.kind = 2) → ∃ t, exec i s = .next t ∧ PacketIs s t p { p with reads := 1 } ∧ Requests t p va (.load n) 0) ∧
    (¬ (va % n = 0 ∧ (n = 16 ∨ p.kind = 2)) → ∃ t, exec i s = .next t ∧ PacketIs s t p { p with reads := n } ∧
      ∀ j < n, InFlight t (arrivalEvent ⟨.drover p.id, p.engine, p.ctx, (va + j) % 2 ^ 64, .load 1, [⟨j, (va + j) % 2 ^ 64, 0, 0⟩]⟩))

/-- The packet ends with its engine: it is gone, with its ranges (R237, R481). -/
def Leaves (s t : State) (p : Packet) : Prop :=
  t.packetAt p.id = none ∧ (∀ k ≠ p.id, t.packetAt k = s.packetAt k) ∧ t.ranges = s.ranges.filter (fun r => decide (r.pid ≠ p.id)) ∧
  t.dram = s.dram

/-- The write of a unit of packet `p`, once read as `v`: every byte of it reaches its destination through its home (R240, R242);
writes of a packet follow one another (log entry 121). -/
def WritesUnit (s : State) (i : Instr) (p : Packet) (va n v step : Nat) : Prop :=
  p.route = none → p.writing = false → p.before = [] → (∃ l, s.agentTarget p.ctx va = .ok l) →
  (∀ r ∈ p.ranges, r.2.2 = true ∨ va + n ≤ r.1 ∨ r.2.1 ≤ va) → va + n ≤ 2 ^ 64 →
  let e := (elemSize p.typ).getD 4
  ∃ t q, exec i s = .next t ∧ q.op = (if p.kind = 1 then .reduce p.typ else .store n) ∧ q.va = va ∧
    q.accs = (if p.kind = 1 then (List.range (n / e)).map fun j => ⟨j, va + e * j, v / 2 ^ (8 * e * j) % 2 ^ (8 * e), 0⟩
      else [⟨0, va, v, 0⟩]) ∧
    q.who = .drover p.id ∧ q.ctx = p.ctx ∧ PacketIs s t p { p with pos := p.pos + step, got := [], outs := p.outs ++ [q] } ∧
    InFlight t (.homeWrite q)

end Sys2Proof.Claims

/-- R235 to R238, R241, R288, R479, R480: an engine accepts the packet at its port when no limit is broken and no range conflicts; it
reads a descriptor first, and charges a tile by it; a packet that breaks a limit fails with its SUB and a record, and waits for
the append of that record. An accepted packet starts in its turn. -/
def Sys2Proof.Claims.PacketsAreAcceptedAndStart : Prop :=
  ∀ (s : State) (p : Packet),
    let e := p.engine
    let offered := s.packets = [p] ∧ p.queue = none ∧ p.accepted = false ∧ p.failed = none ∧ p.id ≠ 0 ∧ s.mgmt = State.reset.mgmt
    let plain := p.asked = false ∧ (p.needsDesc = false ∨ p.fieldsOk = false)
    let described := p.asked = true ∧ p.desc ≠ none
    (offered → p.breach = none → plain ∨ described → s.ranges = [] → p.ranges.length ≤ 1024 → ∃ t, exec (.droverAccept e) s = .next t ∧
      t.packetAt p.id = some { p with accepted := true, reads := 0, got := [] } ∧ t.dram = s.dram ∧ t.l2 = s.l2 ∧ InFlight t p.event ∧
      t.ranges.map (fun r => (r.pid, r.lo, r.hi, r.dst)) = p.ranges.map (fun x => (p.id, x.1, x.2.1, x.2.2)) ∧
      (∀ k, p.team ≠ some k ∨ p.sub ≠ 2 ∨ 1 < p.kind → SMap.look t.teams k = SMap.look s.teams k) ∧
      (∀ k u, p.team = some k → p.kind ≤ 1 → p.sub = 2 → SMap.look s.teams k = some u →
        SMap.look t.teams k = some { u with mbud := chargeTo u.mbud (ceilDiv p.total 64) })) ∧
    (offered → p.breach = none → described → s.rangesFree p = false → ∃ t, exec (.droverAccept e) s = .next t ∧
      PacketIs s t p { p with asked := false } ∧ t.ranges = s.ranges) ∧
    (offered → p.fieldsOk = true → p.needsDesc = true → p.desc = none → p.asked = false → canonical p.p0 = true → ∃ t, exec (.droverAccept e) s = .next t ∧
      PacketIs s t p { p with asked := true, reads := 1 } ∧ Requests t p p.p0 (.load 64) 0) ∧
    (∀ sub, offered → p.breach = some sub → plain ∨ described → s.heq = [] → p.ctx < 65536 →
      ∃ t x v, exec (.droverAccept e) s = .next t ∧ t.packets = [v] ∧ v.id = p.id ∧ v.reported = true ∧ v.failed = some ⟨8, 0, sub, 0⟩ ∧
        t.heq = [x] ∧ t.recordEnds = s.recordEnds ++ [.packet p.id] ∧ rawField x 8 1 = 0x11 ∧ rawField x 0xC 1 = 8 ∧
        rawField x 0xD 1 = sub % 256 ∧ rawField x 0xE 2 = e % 65536 ∧ t.dram = s.dram ∧ t.ranges = s.ranges) ∧
    (∀ i ∈ [Instr.copy p.id, .reduceTile p.id, .gatherRows p.id, .fill p.id, .discardPacket p.id, .collectiveStep p.id,
        .nearmemBlock p.id, .prefetchL2 p.id, .tbArrive p.id], s.packetAt p.id = some p → p.accepted = true → p.started = false →
      p.stop = false → p.reported = false →
      (s.startable p = false → exec i s = .next s) ∧
      (s.startable p = true → p.flagPeer = false → ∃ t, exec i s = .next t ∧ PacketIs s t p { p with started := true } ∧ InFlight t p.event))

/-- R240 to R244: a transfer reads a unit of its source and writes it at its destination: COPY as it is, REDUCE_TILE combined at
the destination's home, FILL its pattern, GATHER_ROWS the index, the units of the row, and then the whole row at its place, and where
the units of SUB 0, SUB 1 and of a tile lie. -/
def Sys2Proof.Claims.TransfersMoveTheirUnits : Prop :=
  ∀ (s : State) (p : Packet),
    UnderWay s p →
    let u := p.unitAt p.pos
    let reads := fun (i : Instr) (va n : Nat) => ReadsUnit s i p va n
    let elem := (elemSize p.typ).getD 1
    (p.pos < p.count → p.got = [] → reads (.copy p.id) (u 1).src (u 1).n ∧ reads (.reduceTile p.id) (u elem).src (u elem).n) ∧
    (p.pos < p.count → p.got = [] → p.route ≠ none → s.stepBehind p = false → reads (.collectiveStep p.id) (u (if p.sub = 1 then elem else 1)).src
      (u (if p.sub = 1 then elem else 1)).n) ∧
    (p.pos < p.count → p.got ≠ [] → WritesUnit s (.copy p.id) p (u 1).dst (u 1).n p.value (u 1).n ∧
      WritesUnit s (.reduceTile p.id) p (u elem).dst (u elem).n p.value (u elem).n) ∧
    (p.pos < p.len →
      let dst := addrAdd p.dst p.pos
      let n := if dst % 16 = 0 ∧ p.pos + 16 ≤ p.len then 16 else 1
      WritesUnit s (.fill p.id) p dst n (leNat ((List.range n).map fun i => BitVec.ofNat 8 (p.p0 / 2 ^ (8 * ((p.pos + i) % 8))))) n) ∧
    (p.pos < p.p1 % 2 ^ 32 → p.index = none → p.got = [] → reads (.gatherRows p.id) ((p.p0 + 4 * p.pos) % 2 ^ 64) 4) ∧
    (∀ x, p.pos < p.p1 % 2 ^ 32 → p.index = some x → p.got = [] → p.buf = [] → 0 < p.len →
      let src := (p.src + x * (p.p1 / 2 ^ 32)) % 2 ^ 64
      reads (.gatherRows p.id) src (if src % 16 = 0 ∧ (p.dst + p.pos * p.len) % 2 ^ 64 % 16 = 0 ∧ 16 ≤ p.len then 16 else 1)) ∧
    (∀ x, p.pos < p.p1 % 2 ^ 32 → p.index = none → p.got ≠ [] → p.value = x → ∃ t, exec (.gatherRows p.id) s = .next t ∧
      PacketIs s t p { p with index := some x, got := [] }) ∧
    (∀ x, p.pos < p.p1 % 2 ^ 32 → p.index = some x → p.got ≠ [] → p.before = [] →
      let b := p.buf.foldl (fun n u => n + u.2.1) 0
      let src := (p.src + x * (p.p1 / 2 ^ 32) + b) % 2 ^ 64
      let dst := (p.dst + p.pos * p.len + b) % 2 ^ 64
      b < p.len → ∃ t, exec (.gatherRows p.id) s = .next t ∧ PacketIs s t p { p with
        got := [], buf := p.buf ++ [(dst, if src % 16 = 0 ∧ dst % 16 = 0 ∧ b + 16 ≤ p.len then 16 else 1, p.value)] }) ∧
    (∀ x, p.kind = 2 → p.pos < p.p1 % 2 ^ 32 → p.index = some x → p.len ≤ p.buf.foldl (fun n u => n + u.2.1) 0 → p.route = none →
      p.writing = false → p.before = [] → (∀ u ∈ p.buf, u.1 + u.2.1 ≤ 2 ^ 64 ∧ (∃ l, s.agentTarget p.ctx u.1 = .ok l) ∧
        ∀ r ∈ p.ranges, r.2.2 = true ∨ u.1 + u.2.1 ≤ r.1 ∨ r.2.1 ≤ u.1) →
      let put := fun (u : Nat × Nat × Nat) => (⟨.drover p.id, p.engine, p.ctx, u.1, .store u.2.1, [⟨0, u.1, u.2.2, 0⟩]⟩ : HomeReq)
      ∃ t, exec (.gatherRows p.id) s = .next t ∧ (∀ u ∈ p.buf, InFlight t (.homeWrite (put u))) ∧
        PacketIs s t p { p with pos := p.pos + 1, index := none, buf := [], got := [], outs := p.outs ++ p.buf.map put }) ∧
    (p.kind ≤ 1 → p.sub = 0 → 0 < p.len → ∀ pos < p.len, (p.unitAt pos 1).src = (p.src + pos) % 2 ^ 64 ∧
      (p.unitAt pos 1).dst = (p.dst + pos) % 2 ^ 64) ∧
    (p.kind ≤ 1 → p.sub = 1 → 0 < p.len → ∀ r < p.p0, ∀ b < p.len, (p.unitAt (r * p.len + b) 1).src =
      ((p.src + b + r * sext 32 (p.p1 % 2 ^ 32)) % 2 ^ 64).toNat ∧
      (p.unitAt (r * p.len + b) 1).dst = ((p.dst + b + r * sext 32 (p.p1 / 2 ^ 32)) % 2 ^ 64).toNat) ∧
    (p.kind ≤ 1 → p.sub = 2 →
      let run := p.d 4 4
      let c := fun (i : Nat) => p.d (8 + 4 * i) 4
      let along := fun (f : Nat → Int) (r0 r1 r2 r3 b : Nat) => (b : Int) + r0 * f 0 + r1 * f 1 + r2 * f 2 + r3 * f 3
      ∀ r0 < c 0, ∀ r1 < c 1, ∀ r2 < c 2, ∀ r3 < c 3, ∀ b < run,
        let x := p.unitAt ((r0 + c 0 * (r1 + c 1 * (r2 + c 2 * r3))) * run + b) 1
        let so := along (fun i => sext 32 (p.d (0x18 + 4 * i) 4)) r0 r1 r2 r3 b
        x.src = ((p.src + if p.d 0x38 1 = 0 then so else so % 2 ^ p.d 0x38 1) % 2 ^ 64).toNat ∧
        x.dst = ((p.dst + along (fun i => sext 32 (p.d (0x28 + 4 * i) 4)) r0 r1 r2 r3 b) % 2 ^ 64).toNat)

/-- R181, R182, R244, R245, R249, R252, R474, R479 to R481: the kinds that move no data, the end of a packet with its arrivals and its batch,
and its failure: the record first, and the packet's end with its append, or at once where a full buffer drops it. A stopped packet
leaves without a record. -/
def Sys2Proof.Claims.PacketsEnd : Prop :=
  ∀ (s : State) (p : Packet),
    let lines := fun (i : Instr) (base : Nat) (op : HomeOp) => UnderWay s p → p.pos < p.len → p.route = none →
      let va := addrAdd base p.pos
      let n := min (128 - va % 128) (p.len - p.pos)
      let q : HomeReq := ⟨.drover p.id, p.engine, p.ctx, va, op, [⟨0, va, n, 0⟩]⟩
      (canonical va = true → ∃ t, exec i s = .next t ∧ PacketIs s t p { p with pos := p.pos + n, outs := p.outs ++ [q] } ∧
        InFlight t (arrivalEvent q)) ∧
      (canonical va = false → ∃ t, exec i s = .next t ∧ PacketIs s t p { p with pos := p.pos + n })
    let ended := p.outs = [] ∧ p.reads = 0 ∧ p.route = none
    lines (.discardPacket p.id) p.dst (.discard 0) ∧ lines (.prefetchL2 p.id) p.src (.prefetch false) ∧
    (s.packetAt p.id = some p → p.accepted = true → p.started = true → p.failed = none → p.stop = false →
      p.reported = false → p.aborted = false → p.waiting = false → ended → p.kind = 8 → p.tb ≠ 0 → p.arrived < p.p0 → ∃ t q, exec (.tbArrive p.id) s = .next t ∧
        q.op = .tbArrive (p.p0 - p.arrived) ∧ q.va = p.tb ∧ q.ctx = p.ctx ∧ InFlight t (.tbArriveOp q) ∧
        PacketIs s t p { p with outs := [q], arrived := p.p0, closing := true }) ∧
    (∀ i, (i = .copy p.id ∨ i = .reduceTile p.id) → UnderWay s p → ended → p.count ≤ p.pos → p.kind ≤ 1 → ∃ t, exec i s = .next t ∧
      PacketIs s t p p ∧ InFlight t (.packetComplete p.id)) ∧
    (UnderWay s p → p.kind = 6 → p.closing = false → ∃ t b, exec (.nearmemBlock p.id) s = .next t ∧
      PacketIs s t p { p with waiting := true } ∧ (t.engineAt p.p0).queue = (s.engineAt p.p0).queue ++ [b] ∧ b.src = p.src ∧
      b.idx = p.p1 ∧ b.pid = some p.id ∧ b.ctx = p.ctx ∧ InFlight t (.submissionTake p.p0)) ∧
    (s.packetAt p.id = some p → p.outs = [] → p.reads = 0 → p.failed = none → p.waiting = false →
      ∃ t, exec (.packetComplete p.id) s = .next t ∧ Leaves s t p ∧ t.heq = s.heq ∧
        (∀ k u, p.team = some k → SMap.look s.teams k = some u → SMap.look t.teams k = some (u.finishOp p.batch) ∧
          InFlight t (.bwaityReactivate k) ∧ ∀ j ≠ k, SMap.look t.teams j = SMap.look s.teams j)) ∧
    (∀ i ∈ [Instr.copy p.id, .reduceTile p.id, .gatherRows p.id, .fill p.id, .discardPacket p.id, .collectiveStep p.id,
        .nearmemBlock p.id, .prefetchL2 p.id, .tbArrive p.id], s.packetAt p.id = some p → p.accepted = true →
      (p.stop = true → (p.outs = [] → p.reads = 0 → p.waiting = false → ∃ t, exec i s = .next t ∧ Leaves s t p ∧ t.heq = s.heq) ∧
        (p.outs ≠ [] ∨ p.reads ≠ 0 ∨ p.waiting = true → exec i s = .next s)) ∧
      (p.stop = false → p.reported = true → exec i s = .next s) ∧
      (∀ b, p.stop = false → p.reported = false → p.started = true → p.failed = some b → p.outs = [] → p.reads = 0 →
        (s.heq = [] → p.ctx < 65536 → ∃ t x, exec i s = .next t ∧ t.packetAt p.id = some { p with reported := true } ∧
          (∀ k ≠ p.id, t.packetAt k = s.packetAt k) ∧ t.heq = [x] ∧ t.recordEnds = s.recordEnds ++ [.packet p.id] ∧
          rawField x 8 1 = 0x11 ∧ rawField x 0xC 1 = b.cause % 256 ∧ t.ranges = s.ranges ∧ t.dram = s.dram) ∧
        (256 ≤ s.heq.length → ∃ t, exec i s = .next t ∧ Leaves s t p ∧ t.heq = s.heq ∧
          (p.tb ≠ 0 → p.tb % 16 = 0 → canonical p.tb = true → p.route = none → p.flagPeer = false → p.kind ≠ 5 →
            ∃ q, q.op = .tbAbort ∧ q.va = p.tb ∧ InFlight t (.tbAbortOp q)))))

/-- R245, R250, R251, R267, R491, R515: a step reads its rank's entry and takes its route; a piece for a peer leaves through its port; an inbound
write inside a window that accepts its peer is performed, an aligned 16-byte unit whole, behind the earlier pieces of its packet; any
other is refused; an arrival is made once no earlier piece of its
packet is left; reports reach their packet; an aborted group's steps are discarded.
What a DISCARD does on the other chip, and when a step reads its entry, are the model's choices (log entries 34 and 103). -/
def Obligations.PeersAreServed : Prop :=
  ∀ (s : State) (p : Packet) (r : InboundReq) (g acc : Nat),
    (UnderWay s p → s.stepBehind p = false → p.route = none → p.got = [] → (p.d 0x10 8 + 16 * p.f 0xC 2) % 16 = 0 →
      (∀ j < 16, canonical (((p.d 0x10 8 + 16 * p.f 0xC 2) % 2 ^ 64 + j) % 2 ^ 64) = true) →
      ∃ t, exec (.collectiveStep p.id) s = .next t ∧ PacketIs s t p { p with reads := 1 } ∧
        Requests t p ((p.d 0x10 8 + 16 * p.f 0xC 2) % 2 ^ 64) (.load 16) 0) ∧
    (∀ port, UnderWay s p → s.stepBehind p = false → p.route = none → p.got ≠ [] → p.value / 2 ^ 96 % 2 ^ 32 = 0 → port < 16 →
      (p.value / 2 ^ 16).testBit port = true → port ∉ s.portsDown →
      (∀ k < port, (p.value / 2 ^ 16).testBit k = true → k ∈ s.portsDown) → ∃ t, exec (.collectiveStep p.id) s = .next t ∧
        PacketIs s t p { p with got := [], route := some (port, p.value % 65536) }) ∧
    (∀ port peer, UnderWay s p → p.route = some (port, peer) → p.got ≠ [] → p.pos < p.count → p.kind ≤ 1 → p.sub = 0 → p.before = [] →
      ∃ t m, exec (.copy p.id) s = .next t ∧ t.peerOut = s.peerOut ++ [.step port peer m] ∧ m.tag = p.id ∧
        m.dst = (p.unitAt p.pos 1).dst ∧ m.bytes = (leBytes (p.unitAt p.pos 1).n p.value).map BitVec.toNat ∧ m.reduce = decide (p.kind = 1)) ∧
    (∀ i, (i = .inboundWrite r ∨ (i = .inboundStep r ∧ r.group ∉ s.aborts)) →
      (r.bytes ≠ [] → s.windowFor r.peer r.dst r.bytes.length 62 = none → s.inboundBytes = [] →
        ∃ t, exec i s = .next t ∧ t.peerOut = s.peerOut ++ [.refused r.peer r.tag 0] ∧ t.agenda = s.agenda ∧ t.dram = s.dram) ∧
      (∀ ctx v, s.inbound = [] → r.bytes = [v] → v < 256 → r.reduce = false → r.arrive = 0 → s.windowFor r.peer r.dst 1 62 = some ctx →
        ∃ t q, exec i s = .next t ∧ q.va = r.dst ∧ q.ctx = ctx ∧ q.op = .store 1 ∧ q.accs = [⟨0, r.dst, v, 0⟩] ∧
          InFlight t (.homeWrite q) ∧ t.peerOut = s.peerOut ∧ t.dram = s.dram) ∧
      (∀ ctx, r.bytes.length = 16 → (∀ v ∈ r.bytes, v < 256) → r.dst % 16 = 0 → r.arrive = 0 → s.windowFor r.peer r.dst 16 62 = some ctx →
        let num := fun (o n : Nat) => leNat (((r.bytes.drop o).take n).map (BitVec.ofNat 8))
        let go := fun (op : HomeOp) (accs : List LaneAcc) =>
          (s.inbound = [] → ∃ t, exec i s = .next t ∧ t.peerOut = s.peerOut ∧ t.dram = s.dram ∧
            InFlight t (arrivalEvent ⟨.peer s.nextId, 0, ctx, r.dst, op, accs⟩)) ∧
          (∀ y, s.inbound = [y] → y.r.peer = r.peer → y.r.tag = r.tag → y.id ≠ s.nextId → ∃ t x, exec i s = .next t ∧
            t.inbound = [y, x] ∧ x.r = r ∧ x.begun = false ∧ x.outs = [⟨.peer s.nextId, 0, ctx, r.dst, op, accs⟩] ∧
            t.agenda = s.agenda ∧ t.peerOut = s.peerOut ∧ t.dram = s.dram)
        (r.reduce = false → go (.store 16) [⟨0, r.dst, num 0 16, 0⟩]) ∧
        (∀ e, r.reduce = true → elemSize r.typ = some e → go (.reduce r.typ)
          ((List.range (16 / e)).map fun j => ⟨j, r.dst + e * j, num (e * j) e, 0⟩))) ∧
      (∀ ctx, r.bytes = [] → r.arrive ≠ 0 → r.tb ≠ 0 → r.tb % 16 = 0 → s.windowFor r.peer r.tb 16 61 = some ctx →
        (r.peer, r.tag) ∉ s.inboundRefused →
        (s.inbound = [] → ∃ t q, exec i s = .next t ∧ q.op = .tbArrive r.arrive ∧ q.va = r.tb ∧ q.ctx = ctx ∧ InFlight t (.tbArriveOp q) ∧
          t.peerOut = s.peerOut ∧ t.dram = s.dram) ∧
        (∀ y, s.inbound = [y] → y.r.peer = r.peer → y.r.tag = r.tag → y.id ≠ s.nextId → ∃ t x, exec i s = .next t ∧
          t.inbound = [y, x] ∧ x.r = r ∧ x.arriving = false ∧ t.agenda = s.agenda ∧ t.peerOut = s.peerOut ∧ t.dram = s.dram))) ∧
    (∀ ctx, r.group ∈ s.aborts → r.tb ≠ 0 → r.tb % 16 = 0 → canonical r.tb = true → s.windowFor r.peer r.tb 16 61 = some ctx →
      ∃ t q, exec (.inboundStep r) s = .next t ∧ q.op = .tbAbort ∧ q.va = r.tb ∧ q.ctx = ctx ∧ InFlight t (.tbAbortOp q) ∧ t.peerOut = s.peerOut) ∧
    (s.packetAt p.id = some p → p.closing = true → ∃ t, exec (.arrivalReport p.id) s = .next t ∧ PacketIs s t p { p with waiting := false }) ∧
    (s.packetAt p.id = some p → p.route ≠ none → p.failed = none → ∃ t, exec (.refusalReport p.id acc) s = .next t ∧
      PacketIs s t p { p with failed := some ⟨8, 0, 3, 0⟩, acked := acc, waiting := false }) ∧
    (s.packets = [] → s.aborts.length < 256 → g ∉ s.aborts → exec (.abortMessage g) s = .next { s with aborts := s.aborts ++ [g] }) ∧
    (s.packetAt p.id = some p → p.kind = 5 → p.d 0 8 = g → p.accepted = true → ∃ t, exec (.abortMessage g) s = .next t ∧
      t.packetAt p.id = some { p with aborted := true, started := true } ∧ g ∈ t.aborts ∧ t.dram = s.dram ∧ t.teams = s.teams)

/-! ### Channel engines (R149 to R154, R252 to R254, R480 to R482) -/

namespace Sys2Proof.Claims

/-- The engine `e` stands at the command `c` of its one submission `b`, which is begun, and is free to go on; no request waits for
its channel. -/
def Standing (s : State) (e : Nat) (b : Submission) (c : BitVec 128) : Prop :=
  let x := s.engineAt e
  x.subs = [b] ∧ b.taken = true ∧ b.begun = true ∧ b.failed = none ∧ x.suspended = false ∧ x.window = false ∧ x.waiting = false ∧
  x.exposed = false ∧ x.waits = [] ∧ x.rowIn = [] ∧ b.command = some c

/-- It stands at the start of the command, or of a step of it, and the command is well formed. -/
def AtCommand (s : State) (e : Nat) (b : Submission) (c : BitVec 128) : Prop :=
  Standing s e b c ∧ (s.engineAt e).sent = false ∧ commandBad c = false

/-- Every other engine stands, but that `e` may have stopped waiting for its channel. -/
def OtherEngines (s t : State) (e : Nat) : Prop :=
  ∀ k ≠ e, { t.engineAt k with wants := [] } = { s.engineAt k with wants := [] }

/-- The command is done: the submission stands at the next one; teams, slices and every other engine stand. -/
def CommandDone (s t : State) (e : Nat) (b : Submission) : Prop :=
  (t.engineAt e).subs = [{ b with idx := b.idx + 1 }] ∧ (t.engineAt e).step = 0 ∧ t.teams = s.teams ∧ OtherEngines s t e

/-- The command has failed: memory and banks stand, and NM_END follows. -/
def CommandFailed (s t : State) (e : Nat) (b : Submission) (bad : BadAccess) : Prop :=
  (t.engineAt e).subs = [{ b with failed := some bad }] ∧ (t.engineAt e).acc = (s.engineAt e).acc ∧ t.dram = s.dram ∧
  t.teams = s.teams ∧ InFlight t (.nmEnd e)

/-- The engine can read or write the pieces `ps` of a row of its own stack now: it is one DRAM row of its own channel, or the
engine has left its channel and those that hold the row are free (R149). No cache holds any of it. -/
def Reached (s : State) (e n : Nat) (ps : List (Nat × Nat × Nat)) : Prop :=
  rowInStack e ps = true ∧ s.l2 = [] ∧ s.poison = [] ∧ s.hostLines = [] ∧ s.waiters = [] ∧ s.frees = [] ∧
  (isDirect e n ps = true ∨ (isDirect e n ps = false ∧ (s.engineAt e).netting = true ∧
    (∀ k ∈ rowChannels e ps, s.channelBusy k = false) ∧ ∀ p ∈ ps, s.rowHeld (.engine e) true p.2.2 = false))

/-- The row at `va` lies at `pa`, 1024 bytes in a row, and is reached. -/
def RowAt (s : State) (e ctx : Nat) (wr : Bool) (va pa : Nat) : Prop :=
  let ps := (List.range 8).map fun j => (va + 128 * j, 128, pa + 128 * j)
  s.rowPlaces ctx wr (linePieces va 1024) = .ok ps ∧ Reached s e 1024 ps

/-- 32-bit element `i` of the row of device memory at `pa`. -/
def rowWord (s : State) (pa i : Nat) : Nat := leNat (s.dram.bytes (pa + 4 * i) 4)

end Sys2Proof.Claims

/-- R149, R150, R152, R482, R494: the bank commands: SCADD adds the scaled row to its bank element by element, ACCZ zeroes its bank,
ACCST writes its bank to its row and to no other byte; a row that may not be accessed fails the command with its fault. For a row
that is no row of its own channel the engine leaves its channel; one in its stack waits for the channels that hold it, any other
is read and written at its home slices, and the command is over when its stores are acknowledged. A command that breaks R253 fails
with SUB 4. -/
def Sys2Proof.Claims.BankCommands : Prop :=
  ∀ (s : State) (e : Nat) (b : Submission) (c : BitVec 128) (pa : Nat),
    let op := c.toNat % 256
    (Standing s e b c → (s.engineAt e).sent = true → commandBad c = false → op = 5 →
      ∃ t, exec (.nmAccst e) s = .next t ∧ CommandDone s t e b ∧ (t.engineAt e).sent = false ∧ t.dram = s.dram) ∧
    (Standing s e b c → commandBad c = true →
      (∀ p ∈ [(1, Instr.nmBind e), (2, .nmRun e), (3, .nmScadd e), (4, .nmAccz e), (5, .nmAccst e), (6, .nmFence e)], op = p.1 →
        (op = 1 → (s.engineAt e).answers = []) → ∃ t, exec p.2 s = .next t ∧ CommandFailed s t e b ⟨8, 0, 4, 0⟩) ∧
      (∀ p, op = 0 ∨ 6 < op → b.outs = 0 → b.pid = some p.id → s.packetAt p.id = some p → p.failed = none →
        ∃ t, exec (.nmEnd e) s = .next t ∧ (t.engineAt e).subs = [] ∧ t.packetAt p.id =
          some { p with waiting := false, closing := true, nmIdx := b.idx, nmStep := (s.engineAt e).step, failed := some ⟨8, 0, 4, 0⟩ })) ∧
    (AtCommand s e b c →
    let bank := c.toNat / 256 % 16
    let x := s.engineAt e
    let acc := fun (y : ChanEngine) (k i : Nat) => SMap.get 0 y.acc (256 * k + i)
    let va := c.toNat / 2 ^ 64
    let sc := c.toNat / 2 ^ 32 % 2 ^ 32
    (op = 3 → RowAt s e b.ctx false va pa → ∃ t, exec (.nmScadd e) s = .next t ∧ CommandDone s t e b ∧ t.dram = s.dram ∧
      (∀ k i, i < 256 → acc (t.engineAt e) k i = if k = bank then
        (if c.getLsbD 16 then BitVec.ofNat 32 (ffmaE fmtF32 0 false sc (rowWord s pa i) (acc x k i).toNat)
         else acc x k i + BitVec.ofNat 32 sc * BitVec.ofNat 32 (rowWord s pa i)) else acc x k i)) ∧
    (op = 4 → ∃ t, exec (.nmAccz e) s = .next t ∧ CommandDone s t e b ∧ t.dram = s.dram ∧
      (∀ k i, i < 256 → acc (t.engineAt e) k i = if k = bank then 0 else acc x k i) ∧
      ∀ k < 16, (t.engineAt e).poison.getLsbD k = (x.poison.getLsbD k && decide (k ≠ bank))) ∧
    (op = 5 → RowAt s e b.ctx true va pa → x.poison.getLsbD bank = false → ∃ t, exec (.nmAccst e) s = .next t ∧ CommandDone s t e b ∧
      (t.engineAt e).acc = x.acc ∧ (∀ i < 256, rowWord t pa i = (acc x bank i).toNat) ∧
      ∀ a, a < pa ∨ pa + 1024 ≤ a → t.dram.byte a = s.dram.byte a) ∧
    (∀ bad, s.rowPlaces b.ctx (decide (op = 5)) (linePieces va 1024) = .error bad → s.hostMode 0 = false →
      (op = 3 → ∃ t, exec (.nmScadd e) s = .next t ∧ CommandFailed s t e b bad) ∧
      (op = 5 → ∃ t, exec (.nmAccst e) s = .next t ∧ CommandFailed s t e b bad)) ∧
    (∀ ps i, (op = 3 ∧ i = .nmScadd e) ∨ (op = 5 ∧ i = .nmAccst e) →
      s.rowPlaces b.ctx (decide (op = 5)) (linePieces va 1024) = .ok ps → isDirect e 1024 ps = false →
      (x.netting = false → ∃ t, exec i s = .next t ∧ (t.engineAt e).netting = true ∧ (t.engineAt e).subs = [b] ∧
        (t.engineAt e).acc = x.acc ∧ t.dram = s.dram ∧ t.teams = s.teams) ∧
      (x.netting = true → rowInStack e ps = true → (∃ k ∈ rowChannels e ps, s.channelBusy k = true) →
        ∃ t, exec i s = .next t ∧ (t.engineAt e).subs = [b] ∧ (t.engineAt e).acc = x.acc ∧ t.dram = s.dram ∧ t.teams = s.teams ∧
          ∀ k ∈ rowChannels e ps, s.channelBusy k = true → e ∈ (t.engineAt k).wants) ∧
      (x.netting = true → rowInStack e ps = false → ∃ t, exec i s = .next t ∧ t.dram = s.dram ∧ t.l2 = s.l2 ∧ t.teams = s.teams ∧
        ∀ p ∈ ps, ∃ q, q.who = .engine e ∧ q.ctx = b.ctx ∧ q.va = p.1 ∧
          if op = 3 then q.op = .load p.2.1 ∧ InFlight t (.homeRequest q) ∧ (t.engineAt e).subs = [b]
          else q.op = .store p.2.1 ∧ InFlight t (.homeWrite q) ∧ (t.engineAt e).sent = true ∧ (t.engineAt e).waiting = true ∧
            (t.engineAt e).subs = [{ b with outs := b.outs + ps.length }])))

/-- R151, R253, R254, R482: BIND reads its parameter block, RUN without one or with a broken one fails, and a step of a run reads the
rows of its streams one after the other and writes their output at the output row; the run ends after its count of steps. -/
def Sys2Proof.Claims.BindAndRun : Prop :=
  ∀ (s : State) (e : Nat) (b : Submission) (c : BitVec 128),
    let op := c.toNat % 256
    let x := s.engineAt e
    let va := c.toNat / 2 ^ 64
    (AtCommand s e b c → op = 1 → canonical va = true → x.answers = [] → ∃ t, exec (.nmBind e) s = .next t ∧ (t.engineAt e).waiting = true ∧
      (t.engineAt e).subs = [b] ∧ t.dram = s.dram ∧ ∃ q, q.va = va ∧ q.op = .load 64 ∧ q.ctx = b.ctx ∧ q.who = .engine e ∧ InFlight t (.homeRequest q)) ∧
    (∀ q v, x.subs = [b] → x.waits = [] → x.answers = [(q, some v, none)] → q.accs = [⟨0, q.va, b.id, 1⟩] → ∃ t, exec (.nmBind e) s = .next t ∧
      (t.engineAt e).bound = some (BitVec.ofNat 512 v) ∧ (t.engineAt e).waiting = false ∧ (t.engineAt e).answers = [] ∧ CommandDone s t e b) ∧
    (∀ q bad, x.subs = [b] → x.waits = [] → x.answers = [(q, none, some bad)] → q.accs = [⟨0, q.va, b.id, 1⟩] → ∃ t, exec (.nmBind e) s = .next t ∧
      (t.engineAt e).bound = none ∧ CommandFailed s t e b bad) ∧
    (AtCommand s e b c → op = 2 → (x.bound = none ∨ ∃ k, x.bound = some k ∧ blockOk k = false) →
      ∃ t, exec (.nmRun e) s = .next t ∧ CommandFailed s t e b ⟨8, 0, 4, 0⟩) ∧
    (∀ k, AtCommand s e b c → op = 2 → x.bound = some k → blockOk k = true → blockCount k 0 ≤ x.step →
      ∃ t, exec (.nmRun e) s = .next t ∧ CommandDone s t e b ∧ t.dram = s.dram) ∧
    (∀ k ps, AtCommand s e b c → op = 2 → x.bound = some k → blockOk k = true → x.step < blockCount k 0 →
      (∀ i < 3, x.phase ≤ i → streamBytes k i ≠ 0 → (∀ j < i, x.phase ≤ j → streamBytes k j = 0) →
        s.rowPlaces b.ctx false (linePieces (streamRow k i x.step) (streamBytes k i)) = .ok ps → Reached s e (streamBytes k i) ps →
        ∃ t, exec (.nmRun e) s = .next t ∧ (t.engineAt e).phase = i + 1 ∧ (t.engineAt e).step = x.step ∧ (t.engineAt e).subs = [b] ∧
          (t.engineAt e).bufs = x.bufs ++ [(i, ps.flatMap fun p => s.dram.bytes p.2.2 p.2.1)] ∧ (t.engineAt e).acc = x.acc ∧
          t.dram = s.dram ∧ t.teams = s.teams ∧ OtherEngines s t e) ∧
      (∀ ov pa, (∀ i < 3, x.phase ≤ i → streamBytes k i = 0) → ps = [(ov, 4, pa)] →
        s.rowPlaces b.ctx true (linePieces (streamRow k 3 x.step) 4) = .ok ps → Reached s e 4 ps →
        let row := fun (i : Nat) => ((x.bufs.find? fun p => decide (p.1 = i)).map Prod.snd).getD []
        ∃ t, exec (.nmRun e) s = .next t ∧ (t.engineAt e).step = x.step + 1 ∧ (t.engineAt e).phase = 0 ∧ (t.engineAt e).bufs = [] ∧
          (t.engineAt e).subs = [b] ∧ (t.engineAt e).acc = x.acc ∧ t.teams = s.teams ∧ OtherEngines s t e ∧
          t.dram.bytes pa 4 = leBytes 4 (runOutput k (row 0) (row 1) (row 2)) ∧
          ∀ a, a < pa ∨ pa + 4 ≤ a → t.dram.byte a = s.dram.byte a))

/-- R153, R252, R253: a submission takes one of the eight places and has its block read; a fence waits for the submission's writes; an
END or the failure of a command ends it, for its packet or, with the append of its record, for its batch; and the arbitration window. -/
def Sys2Proof.Claims.SubmissionsRunAndEnd : Prop :=
  ∀ (s : State) (e : Nat) (b : Submission) (c : BitVec 128),
    let x := s.engineAt e
    (∀ r p, x.answers = [] → x.rowReads = 0 → x.sent = false → x.queue = b :: r → x.subs.length < 8 → b.pid = some p → canonical (b.src + 16 * b.upto) = true → b.src + 16 * b.upto < 2 ^ 64 →
      ∃ t, exec (.submissionTake e) s = .next t ∧ (t.engineAt e).queue = r ∧ (t.engineAt e).subs = x.subs ++ [b] ∧ t.dram = s.dram ∧
        ∃ q, q.va = b.src + 16 * b.upto ∧ q.op = .load (128 - q.va % 128) ∧ q.ctx = b.ctx ∧ InFlight t (.homeRequest q)) ∧
    (∀ r k, x.answers = [] → x.rowReads = 0 → x.sent = false → x.queue = b :: r → x.subs.length < 8 → b.pid = none → b.team = some k → ∃ t, exec (.submissionTake e) s = .next t ∧
      t.chans = s.chans ∧ InFlight t (.nmcmdAccept k)) ∧
    (AtCommand s e b c → c.toNat % 256 = 6 →
      (b.outs = 0 → ∃ t, exec (.nmFence e) s = .next t ∧ CommandDone s t e b ∧ t.dram = s.dram) ∧
      (b.outs ≠ 0 → ∃ t, exec (.nmFence e) s = .next t ∧ t.chans = s.chans ∧ InFlight t (.nmFence e))) ∧
    (∀ k u, AtCommand s e b c → c.toNat % 256 = 0 → b.outs = 0 → b.pid = none → b.team = some k → SMap.look s.teams k = some u →
      ∃ t, exec (.nmEnd e) s = .next t ∧ (t.engineAt e).subs = [] ∧ t.heq = s.heq ∧ SMap.look t.teams k = some (u.finishOp b.batch) ∧
        t.dram = s.dram ∧ ∀ j ≠ k, SMap.look t.teams j = SMap.look s.teams j) ∧
    (∀ p bad, x.subs = [b] → b.taken = true → b.begun = true → b.failed = some bad → x.suspended = false → x.window = false →
      x.waiting = false → x.waits = [] → b.outs = 0 → b.pid = some p.id → s.packetAt p.id = some p → p.failed = none → ∃ t, exec (.nmEnd e) s = .next t ∧
        (t.engineAt e).subs = [] ∧ t.packetAt p.id = some { p with waiting := false, closing := true, nmIdx := b.idx, nmStep := x.step, failed := some bad }) ∧
    (∀ k bad, x.subs = [b] → b.taken = true → b.begun = true → b.failed = some bad → x.suspended = false → x.window = false →
      x.waiting = false → x.waits = [] → b.outs = 0 → b.pid = none → b.team = some k → b.ctx ∉ s.killed → s.heq = [] →
      ∃ t r, exec (.nmEnd e) s = .next t ∧ (t.engineAt e).subs = [] ∧ t.heq = [r] ∧ rawField r 8 1 = 0x11 ∧
        t.recordEnds = s.recordEnds ++ [.command (some k) b.batch] ∧ t.teams = s.teams ∧ t.dram = s.dram) ∧
    (x.window = true → s.channelWanted e = true → ∃ t, exec (.arbitrationWindow e) s = .next t ∧ (t.engineAt e).window = false ∧
      (t.engineAt e).suspended = true ∧ (t.engineAt e).exposed = true ∧ (t.engineAt e).acc = x.acc ∧ InFlight t (.engineResume e)) ∧
    (x.window = true → s.channelWanted e = false → ∃ t, exec (.arbitrationWindow e) s = .next t ∧ (t.engineAt e).window = false ∧
      (t.engineAt e).suspended = x.suspended ∧ (t.engineAt e).acc = x.acc) ∧
    (x.suspended = true → s.channelWanted e = false → ∃ t, exec (.engineResume e) s = .next t ∧ (t.engineAt e).suspended = false ∧
      (t.engineAt e).subs = x.subs ∧ t.dram = s.dram) ∧
    (x.suspended = true → s.channelWanted e = true → ∃ t, exec (.engineResume e) s = .next t ∧ t.chans = s.chans ∧ InFlight t (.engineResume e))

/-! ### System words (R55, R397 to R400, R463, R467) -/

namespace Sys2Proof.Claims

/-- A counter index (R273): class, unit and counter, and whether it names a counter. -/
def idxClass (v : Nat) : Nat := v / 2 ^ 20 % 16
def idxUnit (v : Nat) : Nat := v / 2 ^ 8 % 4096
def idxCtr (v : Nat) : Nat := v % 256
def namesCounter (v : Nat) : Prop :=
  v < 2 ^ 24 ∧
    ((idxClass v = 0 ∧ idxUnit v < 256 ∧ idxCtr v < 8) ∨ (idxClass v = 1 ∧ idxUnit v < 384 ∧ idxCtr v < 4) ∨
     (idxClass v = 2 ∧ idxUnit v < 28 ∧ idxCtr v < 4) ∨ (idxClass v = 3 ∧ idxUnit v < 384 ∧ idxCtr v < 2) ∨
     (idxClass v = 4 ∧ idxUnit v < 4 ∧ idxCtr v < 11))

/-- The counter value register of an index (R263). -/
def idxOff (v : Nat) : Nat := 0x100000 + 0x10000 * idxClass v + 0x80 * idxUnit v + 8 * idxCtr v

/-- Counters that count what the model does not place one by one: stalls, clk, loop laps, and accesses among which are those of the
device's own agents (R273, R274; log entry 40). -/
def countsTime (s : State) (off : Nat) : Prop :=
  let code := (s.reg (off + 0x80000)).toNat % 256
  (∃ u < 256, ∃ c < 8, off = 0x100000 + 0x80 * u + 8 * c ∧ (code = 6 ∨ code = 8)) ∨
  (∃ u < 384, ∃ c < 4, off = 0x110000 + 0x80 * u + 8 * c ∧ (code = 1 ∨ code = 2)) ∨
  (∃ u < 28, ∃ c < 4, off = 0x120000 + 0x80 * u + 8 * c ∧ (code = 1 ∨ code = 3 ∨ code = 4)) ∨
  ∃ p < 4, off = 0x140030 + 0x80 * p

/-- `u` is `s` where the register at `off` is read: a counter of that kind has counted on by a free number, and wraps as every
counter does; any other register, and all the rest, stand (R273, R274, R496; log entry 40). -/
def Counted (s u : State) (off : Nat) : Prop :=
  (¬ countsTime s off → u = s) ∧
  (countsTime s off → ∃ n, let sum := (s.reg off).toNat % 2 ^ 48 + n
    u = { s with mgmt := u.mgmt, heq := u.heq, agenda := u.agenda } ∧
    u.reg off = BitVec.ofNat 64 (sum % 2 ^ 48 + if (s.reg off).getLsbD 63 = true ∨ 2 ^ 48 ≤ sum then 2 ^ 63 else 0) ∧
    (∀ o, o ≠ off → o ≠ 0x30 → u.reg o = s.reg o) ∧ (sum < 2 ^ 48 → u.heq = s.heq ∧ u.agenda = s.agenda ∧ u.reg 0x30 = s.reg 0x30))

/-- May the running team read the counter: a supervisor any, another team those of its own partition (R398)? -/
def mayRead (s : State) (v : Nat) : Prop :=
  s.myCtx < 4 ∨ (v < 2 ^ 24 ∧
    ((idxClass v = 0 ∧ idxUnit v < 256 ∧ s.partOfCluster (idxUnit v / 4) = s.partOfCluster (s.myCore / 4)) ∨
     (idxClass v = 4 ∧ idxUnit v = s.partOfCluster (s.myCore / 4))))

end Sys2Proof.Claims

/-- R273, R398, R451, R454 and R467: CTR reads 48 bits of a counter, EVSEL sets the source of one and leaves its count, and their
traps. A counter that counts what the model does not place counts on first, by a free number (log entry 40). -/
def Sys2Proof.Claims.CounterWords : Prop :=
  ∀ (s : State) (d a b : Reg),
    let v := (rdl s a 0).toNat
    let code := (rdl s b 0).toNat
    let top := if idxClass v = 0 then 9 else if idxClass v = 3 then 3 else 6
    (mayRead s v → namesCounter v → Issues (.ctr d a) s → ∃ u, Counted s u (idxOff v) ∧ exec (.ctr d a) s =
      .next (u.setMe ((issued (.ctr d a) s.me).wr64 d 0 (u.reg (idxOff v) &&& 0xFFFFFFFFFFFF)))) ∧
    (¬ mayRead s v → Traps s (.ctr d a) (preciseTrap 9 2 v 0)) ∧
    (mayRead s v → ¬ namesCounter v → Traps s (.ctr d a) (preciseTrap 8 0x60 v 0 1)) ∧
    (s.myCtx < 4 → namesCounter v → idxClass v ≠ 4 → code ≤ top → Issues (.evsel a b) s →
      ∃ u t, Counted s u (idxOff v) ∧ exec (.evsel a b) s = .next t ∧ t = { u.setMe (issued (.evsel a b) s.me) with mgmt := t.mgmt } ∧
        t.reg (idxOff v + 0x80000) = BitVec.ofNat 64 code ∧ ∀ o, o ≠ idxOff v + 0x80000 → t.reg o = u.reg o) ∧
    (4 ≤ s.myCtx → Traps s (.evsel a b) (preciseTrap 9 3 v 0)) ∧
    (s.myCtx < 4 → ¬ namesCounter v → Traps s (.evsel a b) (preciseTrap 8 0x60 v 0 1)) ∧
    (s.myCtx < 4 → namesCounter v → (idxClass v = 4 ∨ top < code) → Traps s (.evsel a b) (preciseTrap 8 0x61 v 0 1))

/-- R399, R436, R437, R440: SYSCALL is charged, orders as PHASE at device scope, and takes the system-call trap in the team's own
handler, to resume at the next word; the halt is on its way to each sibling that is not halted. -/
def Sys2Proof.Claims.SyscallEntersTheHandler : Prop :=
  ∀ (s : State) (a : Reg), Issues (.syscall a) s → SMap.look s.teams s.cur = some s.me →
    s.me.trap.tvbase.getLsbD 0 = true → s.me.trap.inHandler = false → s.myCrew.handler = none →
    (SMap.look s.crews s.me.crew).isSome = true →
    ∃ t, exec (.syscall a) s = .next t ∧ t.dram = s.dram ∧
      t.me = { s.me.hold (phaseHold 4) with
        pc := s.me.trap.tvbase &&& 0xFFFFFFFC, mode := 7, ibud := chargeTo s.me.ibud (issueCharge (.syscall a) s.me),
        reissue := none, wait := none, halt := none, halted := false,
        trap := { s.me.trap with tcause := 0x00010005, tpc := s.me.pc, tnpc := s.me.pc + 4, tinfo0 := rdl s a 0,
                                 tinfo1 := 0, tskid := 0, restart := 0, tmode := s.me.mode, inHandler := true } } ∧
      (t.crewAt s.me.crew).handler = some s.cur ∧ (∀ k ≠ s.cur, SMap.look t.teams k = SMap.look s.teams k) ∧
      ∀ k ∈ s.teamsOfCrew s.me.crew, k ≠ s.cur → (SMap.get default s.teams k).halted = false →
        ∃ n ≤ 4, ⟨.free, 0, .haltArrive k (preciseTrap 5 0 (rdl s a 0).toNat 0) n⟩ ∈ t.agenda

/-- R132, R400, R451, R454 and R467: PRIVW reads the register its target word names and, with RD = 0, writes it; only in a
supervisor context. -/
def Sys2Proof.Claims.PrivilegedRegisterAccess : Prop :=
  ∀ (s : State) (d a b : Reg),
    let tgt := (rdl s a 0).toNat
    let space := tgt / 2 ^ 30
    let rd := tgt.testBit 29
    let v := s.me.rd64 b 0
    let key := 8 * (tgt % 65536) + tgt / 2 ^ 16 % 8
    let bad := 1 < space ∨ tgt / 2 ^ 22 % 128 ≠ 0 ∨ (space = 0 ∧ tgt % 8 ≠ 0) ∨
      (space = 1 ∧ (tgt / 2 ^ 19 % 8 ≠ 0 ∨ (rd = false ∧ 2 ^ 32 ≤ v.toNat)))
    let mid := fun (u : State) (old : BitVec 64) => u.setMe (((issued (.privw d a b) s.me).hold (releaseHold 4)).wr64 d 0 old)
    (4 ≤ s.myCtx → Traps s (.privw d a b) (preciseTrap 9 4 tgt 0)) ∧
    (s.myCtx < 4 → bad → Traps s (.privw d a b) (preciseTrap 8 0x62 tgt 0 1)) ∧
    (s.myCtx < 4 → ¬ bad → space = 0 → Issues (.privw d a b) s → ∃ u, Counted s u (tgt % 2 ^ 22) ∧
      (rd = true → exec (.privw d a b) s = .next (mid u (u.reg (tgt % 2 ^ 22)))) ∧
      (rd = false → exec (.privw d a b) s = exec (.managementWrite (tgt % 2 ^ 22) v) (mid u (u.reg (tgt % 2 ^ 22))))) ∧
    (s.myCtx < 4 → ¬ bad → space = 1 → Issues (.privw d a b) s →
      let old := (SMap.get 0xFFFF s.rct key).setWidth 64
      (rd = true → exec (.privw d a b) s = .next (mid s old)) ∧
      (rd = false → ∃ t, exec (.privw d a b) s = .next t ∧ t = { mid s old with rct := t.rct } ∧ ∀ k, SMap.get 0xFFFF t.rct k =
        if k = key then (v &&& 0xFFFFF).setWidth 32 else SMap.get 0xFFFF s.rct k))

/-- R55, R288, R369 and R463: SPAWN gives the pool of its cluster one task for each active lane, its eight words from the B
group, and closes no group before its time; a pool without room stalls it; depth 15 and a misaligned entry trap. -/
def Sys2Proof.Claims.SpawnGathersTasks : Prop :=
  ∀ (s : State) (a b : Reg) (e : Word),
    let lanes := s.me.actLanes (.spawn a b)
    let c := clusterOfCore s.myCore
    let words := fun l => (List.range 8).map fun i => s.me.rd (regAt b i) l
    (s.myGrid.depth < 15 → e.toNat % 4 = 0 → (∀ l ∈ lanes, rdl s a l = e) → lanes ≠ [] → lanes.length < 1024 →
      (s.clusterAt c).groups = [] → Issues (.spawn a b) s → ∃ t, exec (.spawn a b) s = .next t ∧ Kept s t ∧
        t.me.pc = s.me.pc + 4 ∧ t.me.vregs = s.me.vregs ∧ t.me.sregs = s.me.sregs ∧
        t.me.mbud = chargeTo s.me.mbud (spawnUnits lanes) ∧
        (t.clusterAt c).groups = [⟨s.myCrew.grid, e, s.clk, lanes.map words⟩] ∧
        (t.clusterAt c).ccbs = (s.clusterAt c).ccbs ∧ (∀ c' ≠ c, t.clusterAt c' = s.clusterAt c') ∧
        t.agenda = s.agenda ++ [⟨.free, s.clk + 2048, .gatherWindowExpire c s.myCrew.grid e.toNat⟩]) ∧
    (s.myGrid.depth < 15 → (∀ l ∈ lanes, (rdl s a l).toNat % 4 = 0) → 8192 < s.poolTasks c + lanes.length →
      Listed s → Issues (.spawn a b) s →
      ∃ t, exec (.spawn a b) s = .next t ∧ Stalls s (.spawn a b) t .spawn false ∧ t.clusters = s.clusters) ∧
    (lanes = [] → s.poolTasks c ≤ 8192 → -(2 ^ 31) ≤ s.me.mbud → Becomes s (.spawn a b) fun t => t.hold (releaseHold 4)) ∧
    (15 ≤ s.myGrid.depth → lanes ≠ [] → ∃ m, Traps s (.spawn a b) (preciseTrap 8 0x30 0 0 m) ∧ ∀ l < 1024, m.getLsbD l = decide (l ∈ lanes)) ∧
    (∀ l0 ∈ lanes, s.myGrid.depth < 15 → (rdl s a l0).toNat % 4 ≠ 0 → (∀ l ∈ lanes, l < l0 → (rdl s a l).toNat % 4 = 0) →
      ∃ m, Traps s (.spawn a b) (preciseTrap 8 0x32 (rdl s a l0).toNat 0 m) ∧
        ∀ l < 1024, m.getLsbD l = decide (l ∈ lanes ∧ (rdl s a l).toNat % 4 ≠ 0))

/-! ### Halts, yields, saves (R61 to R63, R217, R225 to R232, R305, R436 to R439, R470, R505) -/

namespace Sys2Proof.Claims

/-- Team `k` of the device is `u`. -/
def Holds (s : State) (k : Nat) (u : Team) : Prop := SMap.look s.teams k = some u

/-- Every other team stays as it was. -/
def OthersStay (s t : State) (k : Nat) : Prop := ∀ j ≠ k, SMap.look t.teams j = SMap.look s.teams j

/-- Every other team stays as it was, but for what it has read unsettled and its instruction fetches on their way. -/
def OthersKeep (s t : State) (k : Nat) : Prop :=
  let bare := fun (u : Team) => { u with unsettled := [], outs := u.outs.filter fun o => !isFetch o }
  ∀ j ≠ k, (SMap.look t.teams j).map bare = (SMap.look s.teams j).map bare

/-- The program state of a team (03_state) is that of another. -/
def SameProgram (u v : Team) : Prop :=
  v.pc = u.pc ∧ v.vregs = u.vregs ∧ v.sregs = u.sregs ∧ v.preds = u.preds ∧ v.mask = u.mask ∧ v.stack = u.stack ∧
  v.mode = u.mode ∧ v.contpc = u.contpc ∧ v.trap = u.trap ∧ v.pins = u.pins ∧ v.gang = u.gang ∧ v.sinkSite = u.sinkSite ∧
  v.window = u.window ∧ v.accBase = u.accBase ∧ v.accLim = u.accLim ∧ v.batchNext = u.batchNext ∧ v.batchDone = u.batchDone

end Sys2Proof.Claims

/-- R436 to R440, R470: a fault of an outstanding instruction is delivered with that instruction's PC, its entry ended; while
another team of the crew runs its handler it is held; without a handler the crew is terminated. -/
def Sys2Proof.Claims.OutstandingFaultsAreDelivered : Prop :=
  ∀ (s : State) (k pc : Nat) (r : TrapRec) (u : Team), Holds s k u → SMap.sortedFrom 0 s.teams = true →
    (SMap.look s.crews u.crew).isSome = true → u.mma = none →
    let ended := fun (o : Outstanding) => o.pc.toNat = pc ∧ o.pend = 0 ∧ o.bad.isSome = true
    (u.trap.tvbase.getLsbD 0 = true → u.trap.inHandler = false → (s.crewAt u.crew).handler = none →
      ∃ t v, exec (.partTrap k r pc) s = .next t ∧ Holds t k v ∧ OthersStay s t k ∧ t.dram = s.dram ∧
        v = { u with
          pc := u.trap.tvbase &&& 0xFFFFFFFC, mode := 7, reissue := none, wait := none, halt := none, halted := false,
          trap := { u.trap with tcause := causeWord r, tpc := BitVec.ofNat 32 pc, tnpc := BitVec.ofNat 32 pc,
                                tinfo0 := BitVec.ofNat 32 r.info0, tinfo1 := BitVec.ofNat 32 r.info1, tskid := 0,
                                restart := r.lanes, tmode := u.mode, inHandler := true },
          outs := v.outs, faultLines := v.faultLines } ∧
        (∀ o, o ∈ v.outs ↔ o ∈ u.outs ∧ ¬ ended o) ∧ (t.crewAt u.crew).handler = some k) ∧
    (∀ j, (s.crewAt u.crew).handler = some j → j ≠ k → ∃ t v, exec (.partTrap k r pc) s = .next t ∧ Holds t k v ∧
      OthersStay s t k ∧ t.dram = s.dram ∧ SameProgram u v ∧ v.pending = u.pending ++ [(r, BitVec.ofNat 32 pc)]) ∧
    (u.trap.tvbase.getLsbD 0 = false → u.trap.inHandler = false → (s.crewAt u.crew).handler = none →
      ∃ t, exec (.partTrap k r pc) s = .next t ∧ t.teamsOfCrew u.crew = [] ∧ t.dram = s.dram)

/-- R437: the halt stops a sibling that is stalled (at a wait, at the result of a missed load or sunk group, at a host's reply), or
with no skid left, and leaves the record of the fault with SIB set; otherwise
it may issue as many instructions as the skid says, of which TSKID then counts those that completed. A team that is halted already
keeps its record (the model's reading, log entry 15). -/
def Sys2Proof.Claims.HaltsReachTheSiblings : Prop :=
  ∀ (s : State) (k n : Nat) (r : TrapRec) (u before : Team), Holds s k u →
    let stops := fun (t : State) (count : Nat) (at' tpc : Word) => ∃ v, Holds t k v ∧ OthersStay s t k ∧ t.dram = s.dram ∧
      v = { u with halt := none, halted := true,
                   trap := { u.trap with tcause := causeWord { r with part := false } ||| 0x40000, tpc := tpc, tnpc := at',
                                         tinfo0 := BitVec.ofNat 32 r.info0, tinfo1 := BitVec.ofNat 32 r.info1,
                                         tskid := BitVec.ofNat 32 count, restart := 0 } }
    (u.halted = true → ∃ t, exec (.haltArrive k r n) s = .next t ∧ t = { s with teams := t.teams } ∧
      ∀ j, SMap.look t.teams j = SMap.look s.teams j) ∧
    (u.halted = false → r.cause < 256 → r.sub < 256 → (u.wait.isSome = true ∨ u.stalled = true ∨ u.escals ≠ [] ∨ n = 0) → ∃ t, exec (.haltArrive k r n) s = .next t ∧
      stops t 0 u.pc u.pc) ∧
    (u.halted = false → u.wait = none → u.stalled = false → u.escals = [] → 0 < n → ∃ t, exec (.haltArrive k r n) s = .next t ∧ OthersStay s t k ∧ t.dram = s.dram ∧
      Holds t k { u with trap := { u.trap with tpc := u.pc }, halt := some ⟨n, 0, r⟩ }) ∧
    (∀ c, r.cause < 256 → r.sub < 256 → u.halt = some ⟨1, c, r⟩ → u.wait = none → u.pending = [] → before.pending = [] →
      stops (s.afterIssue k before) (c + 1) u.pc u.trap.tpc) ∧
    (∀ c due, r.cause < 256 → r.sub < 256 → u.halt = some ⟨n, c, r⟩ → u.wait = some (.sleep due) → u.pending = [] →
      before.pending = [] → u.pc ≠ before.pc → stops (s.afterIssue k before) (c + 1) u.pc u.trap.tpc) ∧
    (∀ c x p, r.cause < 256 → r.sub < 256 → u.halt = some ⟨n, c, r⟩ → u.pending = [(x, p)] → before.pending = [] →
      stops (s.afterIssue k before) c u.pc u.trap.tpc) ∧
    (∀ c, u.halt = some ⟨n, c, r⟩ → 1 < n → u.wait = none → u.pending = [] → before.pending = [] →
      Holds (s.afterIssue k before) k { u with halt := some ⟨n - 1, c + 1, r⟩ })

/-- R61, R62, R217, R225, R305: a strike takes both budgets to zero, and a team that has not yielded already will yield; a team that yields keeps its program state, goes on at its
continuation, and is topped up or parked; SLEEP ends when its time is over; a team that waits to be selected becomes overdue. -/
def Sys2Proof.Claims.StrikesYieldsAndSleeps : Prop :=
  ∀ (s : State) (k : Nat) (ks : List Nat) (u : Team), Holds s k u →
    (∃ t, exec (.strike ks) s = .next t ∧ t = { s with teams := t.teams } ∧
      ∀ j, SMap.look t.teams j = (SMap.look s.teams j).map fun x =>
        if j ∈ ks then { x with ibud := 0, mbud := 0, struck := x.struck || !x.yielded } else x) ∧
    (u.gang = 0 → u.evict = false → u.halted = false → u.mustYield = false → u.reissue = none →
      let r := (s.gridOf u).launch
      let pool := s.gridAt (s.poolGrid (s.crewOf u).grid)
      let gi := grantOf r.iquant u.ibud pool.ipool
      let gm := grantOf r.mquant u.mbud pool.mpool
      ∃ t v, exec (.budgetYield k) s = .next t ∧ Holds t k v ∧ OthersStay s t k ∧ t.dram = s.dram ∧
        SameProgram { u with pc := if u.contpc.getLsbD 0 then u.contpc &&& 0xFFFFFFFC else u.pc, contpc := 0 } v ∧
        v.struck = false ∧
        (if 1 ≤ u.ibud + gi ∧ 1 ≤ u.mbud + gm then v.ibud = u.ibud + gi ∧ v.mbud = u.mbud + gm ∧ v.wait = none
         else v.ibud = u.ibud ∧ v.mbud = u.mbud ∧ v.wait = some (.budget false))) ∧
    (∀ due, u.wait = some (.sleep due) → ∃ t, exec (.sleepEnd k) s = .next t ∧ t = { s with teams := t.teams } ∧
      OthersStay s t k ∧ Holds t k (if due ≤ s.clk then { u with wait := none } else u)) ∧
    (∃ t, exec (.selectionOverdue k) s = .next t ∧ t = { s with teams := t.teams } ∧ OthersStay s t k ∧
      Holds t k (if u.readySince.isSome then { u with overdue := true } else u))

/-- R90, R226, R228, R229, R231, R232, R505: a team that is being saved is written to the spill region of its context and saved with its
program state, unless the region has no room for it; its pin goes to a free place of its bucket, and a save whose bucket is full is
held; an entry whose searches are over is removed; a saved crew that fits is restored with its program state. -/
def Sys2Proof.Claims.SavesAndRestores : Prop :=
  ∀ (s : State) (k core : Nat) (u : Team), Holds s k u → k / 16 = u.crew → (SMap.look s.crews u.crew).isSome = true →
    SMap.sortedFrom 0 s.teams = true →
    let c := s.crewOf u
    let image := if u.imaged then 0 else u.imageBytes
    let roomy := s.spillHeld c.ctx + image ≤ s.ctxField c.ctx 0x18 8
    let w := if u.imaged then s else s.spillWrite c.ctx 1 u.imageBytes
    (∀ i, (i = .teamSave k ∨ (i = .pinSaveRetry k ∧ ∀ d ∈ s.pinDrops, d.waits ≠ [])) → u.place = .saving →
      (roomy → u.pins = [] → c.taking = false → ∃ t v, exec i s = .next t ∧ Holds t k v ∧ OthersKeep s t k ∧ SameProgram u v ∧
        t.dram = w.dram ∧ t.l2 = w.l2 ∧ v.place = .saved ∧ v.evict = false ∧ v.ibud = u.ibud ∧ v.mbud = u.mbud ∧
        InFlight t (.claimGrant c.core) ∧ InFlight t (.crewPlace (clusterOfCore c.core))) ∧
      (¬ roomy → s.isFenced c.core = false → u.gang = 0 → ∃ t v, exec i s = .next t ∧ Holds t k v ∧ t.dram = s.dram ∧
        SameProgram u v ∧ v.place = .resident ∧ v.evict = false ∧ (s.heq.length < 256 → ∃ rest, t.heq = s.heq ++ packFields
          [(0x08, 0x15), (0x09, (s.gridOf u).part), (0x0A, s.ctxOf u), (0x0C, c.grid), (0x10, c.num), (0x14, u.idx)] :: rest)) ∧
      (∀ n name, roomy → c.taking = false → u.pins = [(n, ⟨true, name⟩)] →
        let e := pinEntry name c.ctx c.grid false n
        let h := pinBucket name
        e ∉ u.entries →
        (∀ j < 8, entryValid (w.pptRead h j) = false → (∀ i < j, entryValid (w.pptRead h i) = true) → ∃ t v, exec i s = .next t ∧
          Holds t k v ∧ SameProgram u v ∧ v.place = .saved ∧ v.entries = u.entries ++ [e] ∧
          t.dram = (w.agentWriteOr 0 (w.pptEntry h j) (leBytes 16 e)).dram ∧
          t.l2 = (w.agentWriteOr 0 (w.pptEntry h j) (leBytes 16 e)).l2) ∧
        (s.hostMode 3 = false → (∀ j < 8, entryValid (w.pptRead h j) = true) → ∃ t v, exec i s = .next t ∧ Holds t k v ∧
          SameProgram u v ∧ v.place = .saving ∧ v.wait = some (.pinBucket h) ∧
          (u.wait = some (.pinBucket h) → t.dram = w.dram)))) ∧
    (u.place ≠ .saving → exec (.teamSave k) s = .next s) ∧
    (u.place ≠ .saving → (∀ d ∈ s.pinDrops, d.waits ≠ []) → exec (.pinSaveRetry k) s = .next s) ∧
    (∀ e i, u.place ≠ .saving → s.pinDrops = [⟨e, []⟩] → i < 8 → s.pptRead (pinBucket (entryName e)) i = e →
      (∀ j < i, s.pptRead (pinBucket (entryName e)) j ≠ e) → ∃ t, exec (.pinSaveRetry k) s = .next t ∧ t.pinDrops = [] ∧
        t.dram = (s.agentWriteOr 0 (s.pptEntry (pinBucket (entryName e)) i) (leBytes 16 0)).dram ∧
        t.l2 = (s.agentWriteOr 0 (s.pptEntry (pinBucket (entryName e)) i) (leBytes 16 0)).l2) ∧
    (s.restoreFits u.crew core = false → exec (.crewRestore u.crew core) s = .next (s.send .free (.crewPlace (clusterOfCore core)))) ∧
    (s.restoreFits u.crew core = true → s.savedOf u.crew = [k] → u.pins = [] → u.gang = 0 → (s.slotTeams core).length < 128 →
      ∃ t v, exec (.crewRestore u.crew core) s = .next t ∧ Holds t k v ∧ OthersKeep s t k ∧ SameProgram u v ∧
        v.place = .resident ∧ (t.crewAt u.crew).core = core ∧ (t.crewAt u.crew).taken = false ∧ t.dram = s.dram ∧
        v.slot < 128 ∧ ∀ p ∈ s.slotTeams core, p.1 ≠ k → p.2.slot ≠ v.slot)

/-! ### Launching, retiring, gathering, donating, searching (R37 to R58, R202 to R214, R230 to R234, R509, R510) -/

namespace Sys2Proof.Claims

/-- The one outstanding word of team `k` is `out`, a LAUNCH, PINQ or RECLAIM that writes `d`. -/
def AwaitsOne (s : State) (k out : Nat) (d : Reg) (u : Team) : Prop :=
  Holds s k u ∧ ∃ o a b, u.outs = [o] ∧ o.id = out ∧ o.bad = none ∧ o.lanes = 0 ∧ o.stops = [] ∧
    (o.instr = .launch d a b ∨ o.instr = .pinq d a ∨ o.instr = .reclaim d a b)

/-- That word writes `v` and is over; no other team changes. -/
def AnsweredOne (s t : State) (k : Nat) (d : Reg) (u : Team) (v : Nat) : Prop :=
  Holds t k { u.wr d 0 (BitVec.ofNat 32 v) with outs := [] } ∧ OthersStay s t k

/-- The same where a write of the Z4 goes with it, which waiters of other teams may see (R360, R160). -/
def AnsweredBeside (s t : State) (k : Nat) (d : Reg) (u : Team) (v : Nat) : Prop :=
  (∃ w, Holds t k w ∧ { w with unsettled := [] } = { u.wr d 0 (BitVec.ofNat 32 v) with outs := [], unsettled := [] }) ∧ OthersKeep s t k

/-- A grid of record `r` is accepted under the next handle: its place in context, partition and kin, and its pools. -/
def GridAccepted (s t : State) (r : LaunchRec) (ctx part depth : Nat) (parent : Option Nat) (inst : Option (Nat × Nat)) : Prop :=
  t.nextHandle = (if 2 ^ 32 - 1 ≤ s.nextHandle then 1 else s.nextHandle + 1) ∧ ∃ g, SMap.look t.grids s.nextHandle = some g ∧
    g.launch = r ∧ g.ctx = ctx ∧ g.part = part ∧ g.depth = depth ∧ g.parent = parent ∧ g.inst = inst ∧ g.hidden = false ∧
    g.crewsExited = 0 ∧ g.triggered = false ∧ (parent = none → g.ipool = r.ipool ∧ g.mpool = r.mpool) ∧
    (parent ≠ none → g.ipool = 0 ∧ g.mpool = 0)

/-- The packet of a refused launch (R509), first of those that wait for the host. -/
def refusal (part ctx reason kind target node parent stream : Nat) : BitVec 512 :=
  packFields [(0x08, 0x13), (0x09, part), (0x0A, ctx), (0x0C, reason), (0x0D, kind), (0x10, target), (0x18, node),
    (0x1C, parent), (0x20, stream)]

/-- One queue of the partition is registered and its head slot holds `pkt`; no record of LAUNCH waits. -/
def HeadReady (s : State) (part q ctx qa : Nat) (d : QueueDesc) (pkt : Nat) : Prop :=
  s.launches = [] ∧ s.queuesOf part = [q] ∧ s.queueHead part q = .ready ctx qa d pkt

/-- The slot is emptied and RIDX moves on by two writes (R206). -/
def Consumed (s t : State) (ctx qa : Nat) (d : QueueDesc) : Prop :=
  ∀ s1 s2, s.agentWrite ctx (d.base + 64 * (d.ridx % d.size)) (leBytes 8 0) = .ok s1 →
    s1.agentWrite ctx (qa + 0x10) (leBytes 8 ((d.ridx + 1) % 2 ^ 64)) = .ok s2 → t.dram = s2.dram ∧ t.l2 = s2.l2

/-- All work that stands at a cluster is of the partition that the cluster belongs to (R32). -/
def OfItsPartition (s : State) (c : Nat) : Prop :=
  (∀ b ∈ (s.clusterAt c).ccbs, (s.gridAt b.grid).part = s.partOfCluster c) ∧
  (∀ g ∈ (s.clusterAt c).groups, (s.gridAt g.grid).part = s.partOfCluster c) ∧
  ∀ p ∈ s.crews, clusterOfCore p.2.core = c → (s.gridAt p.2.grid).part = s.partOfCluster c

/-- Crew `k` may return to cluster `c`. -/
def MayReturn (s : State) (c k : Nat) : Prop :=
  ∃ x, SMap.look s.crews k = some x ∧ clusterOfCore x.core = c ∧ (s.gridAt x.grid).part = s.partOfCluster c ∧ s.backOf k ≠ []

/-- Crew `k` returns before crew `j` (R229): the higher priority, then the crew that is saved in part, then the one accepted first. -/
def ReturnsBefore (s : State) (k j : Nat) : Prop :=
  let prio := fun (x : Nat) => s.unitPrio (s.teamsOfCrew x)
  let whole := fun (x : Nat) => (s.savedOf x).length = (s.teamsOfCrew x).length
  prio j < prio k ∨ (prio j = prio k ∧ ((¬ whole k ∧ whole j) ∨ ((whole k ↔ whole j) ∧
    (s.crewAt k).acceptedAt < (s.crewAt j).acceptedAt ∧ (s.crewAt j).acceptedAt < 2 ^ 64)))

end Sys2Proof.Claims

/-- R50, R77, R207, R370, R371, R509: the record that LAUNCH handed over becomes a child grid whose handle is LAUNCH's result; a
record that breaks R37 to R39, or that cannot be read, is refused with result 0. -/
def Sys2Proof.Claims.LaunchedRecordsAreAccepted : Prop :=
  ∀ (s : State) (part : Nat) (q : LaunchReq) (d : Reg) (u : Team) (p : Grid), s.launches = [(part, q)] →
    SMap.look s.grids q.grid = some p → p.killed = false → AwaitsOne s q.team q.out d u →
    (∀ r, s.readRecord q.ctx q.addr = .ok r → ∃ t, exec (.acceptLaunchRecord part) s = .next t ∧ t.launches = [] ∧
      GridAccepted s t (r.withArgs q.args) q.ctx part (p.depth + 1) (some q.grid) none ∧
      AnsweredOne s t q.team d u s.nextHandle ∧ t.dram = s.dram) ∧
    (∀ e, s.readRecord q.ctx q.addr = .error e → s.heq.length < 256 → ∃ t, exec (.acceptLaunchRecord part) s = .next t ∧
      t.launches = [] ∧ t.grids = s.grids ∧ t.nextHandle = s.nextHandle ∧ AnsweredOne s t q.team d u 0 ∧ t.dram = s.dram ∧
      t.heq = s.heq ++ [refusal part q.ctx e 0 q.addr 0 q.grid (2 ^ 64 - 1)])

/-- R205 to R211, R509: a ready queue's packet is accepted as a grid or as a graph instance, or refused with its REASON; either
way it is consumed; behind a running SINGLE graph it waits with an entry of the wait-for table, whose lack is reported; a queue that cannot be read is reported once. -/
def Sys2Proof.Claims.LaunchPacketsAreAccepted : Prop :=
  ∀ (s : State) (part q ctx qa : Nat) (d : QueueDesc) (pkt : Nat),
    let kind := pkt / 2 ^ 128 % 256
    let ovr := pkt / 2 ^ 136 % 256
    let target := pkt / 2 ^ 64 % 2 ^ 64
    let args := if ovr.testBit 0 then some (BitVec.ofNat 64 (pkt / 2 ^ 192)) else none
    let illegal := 1 < kind ∨ 3 < ovr ∨ pkt / 2 ^ 144 % 2 ^ 48 ≠ 0 ∨ pkt / 2 ^ 384 % 2 ^ 128 ≠ 0 ∨ pkt / 2 ^ 256 % 2 ^ 64 % 8 ≠ 0 ∨
      (ovr.testBit 1 = true ∧ kind = 1)
    (∀ st, s.launches = [] → s.queuesOf part = [q] → s.queueHead part q = .bad ctx qa st → s.heq = [] →
      ∃ t, exec (.acceptLaunchPacket part) s = .next t ∧ t = { s with agenda := t.agenda, heq := t.heq, badQueues := (64 * part + q) :: s.badQueues } ∧
        t.heq = [refusal part ctx 5 0xFF qa 0 0 st]) ∧
    (s.singles = [] → exec (.singleInstanceAccept part q) s = .next s) ∧
    (HeadReady s part q ctx qa d pkt →
    let refused := fun (reason : Nat) => s.heq = [] → (s.reg 0x100).getLsbD 7 = false → ∃ t, exec (.acceptLaunchPacket part) s = .next t ∧
      t.grids = s.grids ∧ t.insts = s.insts ∧ SeesOnly s t ∧ t.singles = s.singles ∧ Consumed s t ctx qa d ∧
      t.heq = [refusal part ctx reason kind target 0 0 d.ridx]
    (illegal → refused 6) ∧
    (¬ illegal → s.partOfCtx ctx ≠ part → refused 2) ∧
    (¬ illegal → s.partOfCtx ctx = part → kind = 0 →
      (∀ e, s.readRecord ctx target = .error e → refused e) ∧
      (∀ r, s.readRecord ctx target = .ok r → ∃ t, exec (.acceptLaunchPacket part) s = .next t ∧ SeesOnly s t ∧
        Consumed s t ctx qa d ∧ GridAccepted s t { (r.withArgs args) with
          doneAddr := if ovr.testBit 1 then pkt / 2 ^ 256 % 2 ^ 64 else r.doneAddr,
          doneVal := if ovr.testBit 1 then BitVec.ofNat 64 (pkt / 2 ^ 320) else r.doneVal } ctx part 0 none none)) ∧
    (¬ illegal → s.partOfCtx ctx = part → kind = 1 → target % 128 ≠ 0 → refused 3) ∧
    (¬ illegal → s.partOfCtx ctx = part → kind = 1 → target % 128 = 0 →
      (∀ e, s.agentNat ctx target 128 = .error e → refused 1) ∧
      (∀ g, s.agentNat ctx target 128 = .ok g →
        let waits := g.testBit 64 = true ∧ g / 2 ^ 128 % 2 ^ 64 ≠ 0
        (waits → s.wftCount (s.launchDie part) < 4096 → exec (.acceptLaunchPacket part) s =
          .next { s with singles := s.singles ++ [⟨part, q, ctx, target, d.prio, true, false⟩] }) ∧
        (waits → 4096 ≤ s.wftCount (s.launchDie part) → s.wftRoom (s.launchDie part) = true → ∃ t,
          exec (.acceptLaunchPacket part) s = .next t ∧ t.singles = s.singles ++ [⟨part, q, ctx, target, d.prio, true, true⟩] ∧
          SeesOnly s t ∧ t.grids = s.grids ∧ t.insts = s.insts) ∧
        (waits → s.wftRoom (s.launchDie part) = false → s.heq = [] → ∃ t x, exec (.acceptLaunchPacket part) s = .next t ∧
          t.singles = s.singles ++ [⟨part, q, ctx, target, d.prio, false, false⟩] ∧ t.heq = [x] ∧ t.dram = s.dram ∧ t.l2 = s.l2 ∧
          t.teams = s.teams) ∧
        (¬ waits → (∀ e, s.readVersion ctx target = .error e → refused e) ∧
          ∀ block nodes, s.readVersion ctx target = .ok (block, nodes) → ∃ t x, exec (.acceptLaunchPacket part) s = .next t ∧
            SMap.look t.insts s.nextHandle = some x ∧ x.ctx = ctx ∧ x.part = part ∧ x.graph = target ∧ x.block = block ∧
            x.args = args ∧ x.doneAddr = pkt / 2 ^ 256 % 2 ^ 64 ∧ x.doneVal = BitVec.ofNat 64 (pkt / 2 ^ 320) ∧
            x.stream = d.ridx ∧ x.nodes = nodes ∧ x.refused = false ∧ SeesOnly s t ∧ t.grids = s.grids ∧
            ∀ j n, nodes[j]? = some n → n.npred = 0 → InFlight t (.nodeStart s.nextHandle j)))) ∧
    (∀ w, w.part = part → w.queue = q → w.ctx = ctx → HeadReady { s with singles := [] } part q ctx qa d pkt →
      exec (.singleInstanceAccept part q) { s with singles := [w] } = exec (.acceptLaunchPacket part) { s with singles := [] }))

/-- R209, R210, R509, R510: a node whose predecessors are over starts its record as a grid of depth 0; a node that cannot start
refuses the rest of its instance; a finished instance is dropped, its DONEVAL written, and what waited for its graph is looked
at again. -/
def Sys2Proof.Claims.InstancesRunTheirNodes : Prop :=
  ∀ (s : State) (i j : Nat) (x : Instance) (n : NodeState), SMap.look s.insts i = some x → x.nodes[j]? = some n → x.killed = false →
    let waits := ∃ m ∈ x.nodes, j ∈ m.succs ∧ m.released = false ∧ m.retired = false
    ((x.refused = true ∨ n.started = true ∨ waits) → exec (.nodeStart i j) s = .next s) ∧
    (x.refused = false → n.started = false → ¬ waits →
      (∀ r, s.readRecord x.ctx n.record = .ok r → r.graph = x.graph → r.node = j → ∃ t y, exec (.nodeStart i j) s = .next t ∧
        GridAccepted s t (r.withArgs x.args) x.ctx x.part 0 none (some (i, j)) ∧ SMap.look t.insts i = some y ∧
        y.nodes[j]? = some { n with started := true } ∧ (∀ m ≠ j, y.nodes[m]? = x.nodes[m]?) ∧ t.teams = s.teams ∧
        t.dram = s.dram) ∧
      (∀ e, (s.readRecord x.ctx n.record = .error e ∨ (e = 3 ∧ ∃ r, s.readRecord x.ctx n.record = .ok r ∧
          ¬ (r.graph = x.graph ∧ r.node = j))) → s.heq.length < 256 → ∃ t, exec (.nodeStart i j) s = .next t ∧
        SMap.look t.insts i = some { x with refused := true } ∧ t.grids = s.grids ∧ t.teams = s.teams ∧
        t.heq = s.heq ++ [refusal x.part x.ctx e 1 x.graph j 0 x.stream] ∧
        ((∀ m ∈ x.nodes, m.retired = true ∨ m.started = false) → InFlight t (.instanceComplete i)))) ∧
    ((∃ m ∈ x.nodes, m.retired = false ∧ (x.refused = false ∨ m.started = true)) → exec (.instanceComplete i) s = .next s) ∧
    ((∀ m ∈ x.nodes, m.retired = true) → ∃ t, exec (.instanceComplete i) s = .next t ∧ SMap.look t.insts i = none ∧
      (∀ k ≠ i, SMap.look t.insts k = SMap.look s.insts k) ∧ SeesOnly s t ∧ t.grids = s.grids ∧
      ∀ w ∈ s.singles, w.ctx = x.ctx → w.graph = x.graph → InFlight t (.singleInstanceAccept w.part w.queue)) ∧
    (∀ s1, (∀ m ∈ x.nodes, m.retired = true) → x.refused = false → x.doneAddr ≠ 0 →
      s.agentWrite x.ctx x.doneAddr (leBytes 8 x.doneVal.toNat) = .ok s1 →
      exec (.instanceComplete i) s =
        exec (.instanceComplete i) { s1 with insts := SMap.put s1.insts i { x with doneAddr := 0 } })

/-- R51, R52, R210: a grid retires when its crews have exited, its children are gone and none of its accesses is left: DONEVAL is written, the grid, its crews
and its barriers are forgotten, its pools go to its parent, and the nodes that follow it may start. -/
def Sys2Proof.Claims.GridsRetire : Prop :=
  ∀ (s : State) (h : Nat) (g : Grid), SMap.look s.grids h = some g →
    let ripe := g.crewsExited = g.launch.crews ∧ g.killed = false ∧ s.offspring h = false ∧
      ∀ p ∈ s.grids, p.2.parent ≠ some h
    let gone := fun (t : State) => SMap.look t.grids h = none ∧ (∀ p ∈ t.crews, p.2.grid ≠ h) ∧
      ∀ k c, SMap.look s.crews k = some c → c.grid ≠ h → (k, c) ∈ t.crews
    let quiet := s.accessesOpen h = false
    (¬ ripe → exec (.gridRetire h) s = .next s) ∧
    (ripe → ¬ quiet → exec (.gridRetire h) s = .next (s.send .free (.gridRetire h))) ∧
    (ripe → quiet → g.launch.doneAddr = 0 → g.inst = none → g.parent = none → ∃ t, exec (.gridRetire h) s = .next t ∧ gone t ∧
      t.teams = s.teams ∧ t.dram = s.dram ∧ t.agenda = s.agenda ∧ ∀ k ≠ h, SMap.look t.grids k = SMap.look s.grids k) ∧
    (∀ p u, ripe → quiet → g.launch.doneAddr = 0 → g.inst = none → g.parent = some p → g.hidden = false → p ≠ h →
      SMap.look s.grids p = some u → u.hidden = false → (s.dropGrid h).parkedOn p = [] → ∃ t, exec (.gridRetire h) s = .next t ∧
      gone t ∧ t.teams = s.teams ∧ t.dram = s.dram ∧ SMap.look t.grids p = some { u with
        ipool := min (u.ipool + g.ipool) (2 ^ 64 - 1), mpool := min (u.mpool + g.mpool) (2 ^ 64 - 1) }) ∧
    (∀ s1, ripe → quiet → g.launch.doneAddr ≠ 0 → s.agentWrite g.ctx g.launch.doneAddr (leBytes 8 g.launch.doneVal.toNat) = .ok s1 →
      g.inst = none → g.parent = none → ∃ t, exec (.gridRetire h) s = .next t ∧ gone t ∧ SeesOnly s t ∧ t.dram = s1.dram ∧ t.l2 = s1.l2) ∧
    (∀ i n x m, ripe → quiet → g.launch.doneAddr = 0 → g.inst = some (i, n) → g.parent = none → SMap.look s.insts i = some x →
      x.nodes[n]? = some m → ∃ t y, exec (.gridRetire h) s = .next t ∧ gone t ∧ t.teams = s.teams ∧ SMap.look t.insts i = some y ∧
        y.nodes[n]? = some { m with retired := true, released := true } ∧ (∀ j ≠ n, y.nodes[j]? = x.nodes[j]?) ∧
        (∀ j ∈ m.succs, InFlight t (.nodeStart i j)) ∧
        (x.killed = false → (∀ j n', j ≠ n → x.nodes[j]? = some n' → n'.retired = true) → InFlight t (.instanceComplete i)))

/-- R41, R45, R60, R88, R90, R213, R229, R512: the head block of a cluster goes to the core with room, its teams start as the record
says and draw their budgets, or wait for them; a block that fits nowhere strikes teams of lower priority of its cluster only; with
nothing to place, the cluster looks for donated work, and a team that an eviction chose and that is not parked stays. -/
def Sys2Proof.Claims.CrewsArePlaced : Prop :=
  ∀ (s : State) (c core : Nat) (b : Ccb), s.coresOf c ≠ [] → OfItsPartition s c → s.returning c = [] →
    ((s.clusterAt c).ccbs = [] → SMap.sortedFrom 0 s.teams = true → (∀ k u, Holds s k u → ∀ first, u.wait ≠ some (.budget first)) →
      ∃ t, exec (.crewPlace c) s = .next t ∧ t = { s with teams := t.teams, agenda := s.agenda ++ [⟨.free, 0, .stealRequest c⟩] } ∧
        ∀ k, SMap.look t.teams k = (SMap.look s.teams k).map fun u =>
          if (s.crewOf u).core ∈ s.coresOf c ∧ u.place = .resident then { u with evict := false } else u) ∧
    ((s.clusterAt c).ccbs.head? = some b → (s.gridAt b.grid).part = s.partOfCluster c → b.tasks = [] →
      let g := s.gridAt b.grid
      let r := g.launch
      let k := s.nextId
      let pool := s.gridAt (s.poolGrid b.grid)
      s.pickCore r c = some core → 1 ≤ r.crewTeams → r.crewTeams ≤ 16 → s.teams.all (fun p => decide (p.1 < 16 * k)) = true →
      (SMap.look s.grids (s.poolGrid b.grid)).isSome = true →
      ∃ t x, exec (.crewPlace c) s = .next t ∧ SMap.look t.crews k = some x ∧ x.grid = b.grid ∧ x.num = b.num ∧ x.ctx = g.ctx ∧
        x.core = core ∧ x.teams = r.crewTeams ∧ x.localBytes = r.localBytes ∧ x.accRows = r.accRows ∧ x.mem = [] ∧ x.acc = [] ∧
        core ∈ s.coresOf c ∧ s.coreFits r core = true ∧ (∀ o ∈ s.coresOf c, s.coreFits r o = true →
          s.freeBlocks o < s.freeBlocks core ∨ (s.freeBlocks o = s.freeBlocks core ∧ core ≤ o)) ∧ t.dram = s.dram ∧
        (∀ j < 16 * k, SMap.look t.teams j = SMap.look s.teams j) ∧
        ∀ i < r.crewTeams, ∃ u, SMap.look t.teams (16 * k + i) = some u ∧ u.crew = k ∧ u.idx = i ∧
          u.pc = BitVec.ofNat 32 r.entry ∧ u.lanes = r.lanes ∧ u.mask = BitVec.ofNat 1024 (2 ^ r.lanes - 1) ∧ u.stack = [] ∧
          u.window = r.vregs ∧ u.vregs = [] ∧ u.preds = [] ∧ u.readS 0 = r.args.setWidth 32 ∧
          u.readS 1 = r.args.extractLsb' 32 32 ∧ (∀ j, 2 ≤ j → u.readS j = 0) ∧ u.mode = 7 ∧ u.contpc = 0 ∧ u.gang = 0 ∧
          u.trap = {} ∧ u.pins = [] ∧ u.outs = [] ∧
          u.role = (if i < r.nload then 0 else if i < r.nload + r.ncomp then 1 else if i < r.nload + r.ncomp + r.nstore then 2
            else 3) ∧
          (r.ibudInit * r.crewTeams ≤ pool.ipool → r.mbudInit * r.crewTeams ≤ pool.mpool →
            u.ibud = r.ibudInit ∧ u.mbud = r.mbudInit ∧ u.wait = none) ∧
          (pool.ipool < r.ibudInit → u.wait = some (.budget true))) ∧
    ((s.clusterAt c).ccbs.head? = some b → (s.gridAt b.grid).part = s.partOfCluster c → s.pickCore (s.gridAt b.grid).launch c = none → s.evicting c = true →
      (∀ core ∈ s.coresOf c, s.chosenOn core = []) → (∀ p ∈ s.crews, p.2.taking = false) →
      exec (.crewPlace c) s = .next (s.send .free (.stealRequest c))) ∧
    ((s.clusterAt c).ccbs.head? = some b → (s.gridAt b.grid).part = s.partOfCluster c → s.pickCore (s.gridAt b.grid).launch c = none → s.evicting c = false →
      ∃ t, exec (.crewPlace c) s = .next t ∧ InFlight t (.stealRequest c) ∧
        ((∀ p ∈ s.teams, p.2.place ≠ .saved) → t.dram = s.dram) ∧
        let bare := fun (u : Team) => { u with unsettled := [] }
        ∀ k u, SMap.look s.teams k = some u → ∃ v, SMap.look t.teams k = some v ∧ (bare v = bare u ∨
          (bare v = bare { u with ibud := 0, mbud := 0, struck := u.struck || !u.yielded, evict := true } ∧
            s.effPrio k < (s.gridAt b.grid).launch.prio ∧ clusterOfCore (s.crewOf u).core = c)))

/-- R213, R229: of the crews that come back to a cluster the first of the order of R229 is restored first, where a core has room for
it, and before a block of the same or a lower priority; a block of a higher priority that fits is placed first. -/
def Sys2Proof.Claims.ReturningCrewsComeFirst : Prop :=
  ∀ (s : State) (c core k : Nat), s.coresOf c ≠ [] → OfItsPartition s c → SMap.sortedFrom 0 s.crews = true →
    MayReturn s c k → (∀ j, MayReturn s c j → j ≠ k → ReturnsBefore s k j) → s.unitPrio (s.teamsOfCrew k) ≤ 15 →
    s.restoreCore k c = some core →
    let prio := fun (b : Ccb) => (s.gridAt b.grid).launch.prio
    ((∀ b ∈ (s.clusterAt c).ccbs.head?, prio b ≤ s.unitPrio (s.teamsOfCrew k)) → s.returns k = false →
      exec (.crewPlace c) s = .next (s.send .free (.crewRestore k core))) ∧
    (∀ b dest, (s.clusterAt c).ccbs.head? = some b → s.unitPrio (s.teamsOfCrew k) < prio b →
      s.pickCore (s.gridAt b.grid).launch c = some dest → ∃ t x, exec (.crewPlace c) s = .next t ∧
        SMap.look t.crews s.nextId = some x ∧ x.grid = b.grid ∧ x.num = b.num ∧ x.core = dest)

/-- R55, R56, R77: a gathering window that is over closes its group: a hidden grid of one crew, of the spawning grid's record,
whose lanes are the tasks, is queued at the cluster. -/
def Sys2Proof.Claims.GatheringWindowsClose : Prop :=
  ∀ (s : State) (c : Nat) (g : TaskGroup), (s.clusterAt c).groups = [g] → (s.clusterAt c).ccbs = [] →
    (s.clk < g.since + 2048 → exec (.gatherWindowExpire c g.grid g.entry.toNat) s = .next s) ∧
    (g.since + 2048 ≤ s.clk → ∃ t y b, exec (.gatherWindowExpire c g.grid g.entry.toNat) s = .next t ∧
      (t.clusterAt c).groups = [] ∧ (t.clusterAt c).ccbs = [b] ∧ b.grid = s.nextHandle ∧ b.num = 0 ∧ b.tasks = g.tasks ∧
      SMap.look t.grids s.nextHandle = some y ∧ y.hidden = true ∧ y.parent = some g.grid ∧ y.depth = (s.gridAt g.grid).depth + 1 ∧
      y.launch.crews = 1 ∧ y.launch.crewTeams = 1 ∧ y.launch.lanes = g.tasks.length ∧ y.launch.entry = g.entry.toNat ∧
      y.launch.localBytes = 0 ∧ y.launch.accRows = 0 ∧ y.launch.doneAddr = 0 ∧
      (let r := (s.gridAt g.grid).launch
       y.launch.codebase = r.codebase ∧ y.launch.vregs = r.vregs ∧ y.launch.prio = r.prio ∧ y.launch.args = r.args ∧
       y.launch.ibudInit = r.ibudInit ∧ y.launch.mbudInit = r.mbudInit ∧ y.launch.iquant = r.iquant ∧
       y.launch.mquant = r.mquant) ∧
      InFlight t (.crewPlace c) ∧ t.teams = s.teams ∧ t.dram = s.dram)

/-- R57, R58: a cluster that can place nothing asks one that advertises more than 4 blocks; the victim ships half of its blocks,
at most 16, none of a NODONATE or KBAR grid; the thief queues what it is sent; an empty reply moves the round-robin on. -/
def Sys2Proof.Claims.WorkIsDonated : Prop :=
  ∀ (s : State) (thief victim : Nat),
    let x := s.clusterAt thief
    let y := s.clusterAt victim
    let part := s.partOfCluster thief
    let offers := fun (v : Nat) => v ≠ thief ∧ v < 64 ∧ s.partOfCluster v = part ∧ s.coresOf v ≠ [] ∧ 4 < (s.clusterAt v).ccbs.length
    ((x.stealing = true ∨ s.canPlace thief = true) → exec (.stealRequest thief) s = .next s) ∧
    (x.stealing = false → s.canPlace thief = false → s.coresOf thief ≠ [] → (∃ v, offers v) →
      ∃ t v, exec (.stealRequest thief) s = .next t ∧ offers v ∧ InFlight t (.stealRequestReceive thief v) ∧
        t.clusterAt thief = { x with stealing := true, stealNext := v, stealTasks := false } ∧
        (∀ c ≠ thief, t.clusterAt c = s.clusterAt c) ∧
        ∀ w, offers w → (v + 64 - x.stealNext % 64) % 64 ≤ (w + 64 - x.stealNext % 64) % 64) ∧
    (x.stealTasks = false → thief ≠ victim → s.nextDealt (s.partOfCluster victim) = none → ∃ t, ∃ out : List Ccb, exec (.stealRequestReceive thief victim) s = .next t ∧
      InFlight t (.stealReply thief ⟨out.map fun b => (b.grid, b.num, b.tasks), none⟩) ∧
      (∀ b ∈ out, b ∈ y.ccbs ∧ (s.gridAt b.grid).launch.nodonate = false ∧ (s.gridAt b.grid).launch.kbar = 0) ∧
      out.length = min (min 16 (y.ccbs.length / 2)) (y.ccbs.filter fun b =>
        !(s.gridAt b.grid).launch.nodonate && decide ((s.gridAt b.grid).launch.kbar = 0)).length ∧
      (∀ b ∈ out, ∀ a ∈ y.ccbs, a ∉ out → (s.gridAt a.grid).launch.nodonate = false → (s.gridAt a.grid).launch.kbar = 0 →
        a.since ≤ b.since) ∧
      (∀ b, b ∈ (t.clusterAt victim).ccbs ↔ b ∈ y.ccbs ∧ b ∉ out) ∧ t.clusterAt thief = x ∧ t.teams = s.teams) ∧
    (∀ b : Nat × Nat × List (List Word), x.ccbs = [] → (s.gridAt b.1).part = part → s.coresOf thief ≠ [] → ∃ t a, exec (.stealReply thief ⟨[b], none⟩) s = .next t ∧
      (t.clusterAt thief).ccbs = [a] ∧ a.grid = b.1 ∧ a.num = b.2.1 ∧ a.tasks = b.2.2 ∧ (t.clusterAt thief).stealing = false ∧
      t.teams = s.teams ∧ InFlight t (.crewPlace thief)) ∧
    (∀ g, x.stealTasks = true → thief ≠ victim → y.groups = [g] → ∃ t, exec (.stealRequestReceive thief victim) s = .next t ∧
      (t.clusterAt victim).groups = [] ∧ t.teams = s.teams ∧
      InFlight t (.stealReply thief ⟨[], some (g.grid, g.entry, g.since, g.tasks)⟩)) ∧
    (∀ g e n ts, x.groups = [] → (s.gridAt g).part = part → s.coresOf thief ≠ [] → ts.length ≤ 6144 → ∃ t, exec (.stealReply thief ⟨[], some (g, e, n, ts)⟩) s = .next t ∧
      (t.clusterAt thief).groups = [⟨g, e, n, ts⟩] ∧ (t.clusterAt thief).stealing = false ∧ t.teams = s.teams ∧
      ⟨.free, n + 2048, .gatherWindowExpire thief g e.toNat⟩ ∈ t.agenda) ∧
    (∃ t, exec (.stealReply thief ⟨[], none⟩) s = .next t ∧ t.clusterAt thief = { x with
      stealing := false, stealNext := (x.stealNext + 1) % 64 } ∧ InFlight t (.stealRequest thief) ∧ t.teams = s.teams)

/-- R230, R233, R234, R365, R367: a search that found the name pinned answers PINQ with 1 and defers a RECLAIM; one that found it
nowhere answers 0, and the name is appended to the free queue. -/
def Sys2Proof.Claims.SearchesEnd : Prop :=
  ∀ (s : State) (x : Search) (k out queue : Nat) (d : Reg) (u : Team), s.searches = [x] → AwaitsOne s k out d u →
    let pinned := x.held ≠ [] ∨ s.pptHolds x.name = true ∨ s.instancePins x.name = true
    let nowhere := x.held = [] ∧ x.seen = false ∧ s.pptHolds x.name = false ∧ s.instancePins x.name = false
    (x.kind = .pinq k out → (pinned ∨ nowhere) → ∃ t, exec (.sageSearchDone x.id) s = .next t ∧ t.searches = [] ∧ t.dram = s.dram ∧
      (pinned → AnsweredOne s t k d u 1) ∧ (nowhere → AnsweredOne s t k d u 0)) ∧
    (x.kind = .reclaim k out queue → nowhere → ∃ t f, exec (.sageSearchDone x.id) s = .next t ∧ t.searches = [] ∧
      t.dram = s.dram ∧ AnsweredOne s t k d u 0 ∧ t.frees = s.frees ++ [f] ∧ f.ctx = x.ctx ∧ f.queue = queue ∧ f.name = x.name ∧
      f.deferred = false ∧ f.slot = none ∧ InFlight t (.freeQueueRetry f.id)) ∧
    (x.kind = .reclaim k out queue → pinned →
      let base := s.ctxField x.ctx 0x20 8
      let cap := s.ctxField x.ctx 0x28 4
      (∀ e, 0 < cap → s.agentNat x.ctx base 64 = .ok e → e.testBit 128 = false → ∀ s1, s.agentWrite x.ctx base
          (leBytes 64 (queue + 2 ^ 64 * x.name.toNat + 2 ^ 112 * x.ctx + 2 ^ 128 + 2 ^ 192 * (s.clk % 2 ^ 64))) = .ok s1 →
        ∃ t, exec (.sageSearchDone x.id) s = .next t ∧ AnsweredBeside s t k d u 1 ∧ t.dram = s1.dram ∧ t.l2 = s1.l2 ∧
          ∀ h, SMap.get 0 t.filter h = SMap.get 0 s.filter h + (if h = pinBucket x.name then 1 else 0)) ∧
      (cap = 0 → ∃ t, exec (.sageSearchDone x.id) s = .next t ∧ AnsweredOne s t k d u 2 ∧ t.dram = s.dram ∧ t.filter = s.filter))

/-- R204, R234, R271, R481: a packet for a queue claims the slot that WIDX counts, and is written there, SEQ last, once the ring has
room; the host event queue is filled the same way, in the order of its packets, and a failure record that stands there ends its
packet, or counts its NMCMD as finished in its team's batch (R481). -/
def Sys2Proof.Claims.QueuesAreAppendedTo : Prop :=
  ∀ (s : State) (ctx qa : Nat) (d : QueueDesc) (pkt : BitVec 512) (f : FreeAppend) (p : BitVec 512) (rest : List (BitVec 512)),
    let slot := fun (i : Nat) => d.base + 64 * (i % d.size)
    let free := fun (q : FreeAppend) => packFields [(8, q.name.toNat), (0xE, q.ctx), (0x10, if q.deferred then 1 else 0), (0x18, s.clk % 2 ^ 64)]
    (s.queueDesc ctx qa = .ok d →
      (∀ i s2 s3, i < d.ridx + d.size → s.agentWrite ctx (slot i + 8) (leBytes 56 (pkt.toNat / 2 ^ 64)) = .ok s2 →
        s2.agentWrite ctx (slot i) (leBytes 8 (i + 1)) = .ok s3 → s.append ctx qa (some i) pkt = .done s3) ∧
      (∀ i, d.ridx + d.size ≤ i → s.append ctx qa (some i) pkt = .full s i) ∧
      (∀ s1, s.agentWrite ctx (qa + 0x80) (leBytes 8 ((d.widx + 1) % 2 ^ 64)) = .ok s1 →
        (d.ridx + d.size ≤ d.widx → s.append ctx qa none pkt = .full s1 d.widx) ∧
        ∀ s2 s3, d.widx < d.ridx + d.size → s1.agentWrite ctx (slot d.widx + 8) (leBytes 56 (pkt.toNat / 2 ^ 64)) = .ok s2 →
          s2.agentWrite ctx (slot d.widx) (leBytes 8 (d.widx + 1)) = .ok s3 → s.append ctx qa none pkt = .done s3)) ∧
    (s.frees = [f] →
      (∀ s1, s.append f.ctx f.queue f.slot (free f) = .done s1 → exec (.freeQueueRetry f.id) s =
        .next { s1 with frees := s1.frees.filter fun x => decide (x.id ≠ f.id) }) ∧
      (∀ s1 i, s.append f.ctx f.queue f.slot (free f) = .full s1 i → exec (.freeQueueRetry f.id) s =
        .next { s1 with frees := s1.frees.map fun x => if x.id = f.id then { x with slot := some i } else x })) ∧
    (s.heq = [] → exec .heqRetry s = .next s) ∧
    (s.heq = p :: rest → (s.reg 0x108).getLsbD 63 = false → exec .heqRetry s = .next s) ∧
    (s.heq = p :: rest → (s.reg 0x108).getLsbD 63 = true →
      let qa := canonOf ((s.reg 0x108).toNat / 2 ^ 8 % 2 ^ 49 * 256)
      let gone := fun (t : State) => exec .heqRetry s = .next t ∧ t.heq = rest ∧ t.heqSlot = none ∧ InFlight t .heqRetry
      (∀ s1, s.append 0 qa s.heqSlot p = .done s1 →
        ((rawField p 8 1 ≠ 0x11 ∨ s.recordEnds = []) → ∃ t, gone t ∧ t.recordEnds = s.recordEnds ∧ t.packets = s.packets ∧
          t.dram = s1.dram ∧ t.l2 = s1.l2) ∧
        (∀ pid pkt r, rawField p 8 1 = 0x11 → s.recordEnds = .packet pid :: r → s.packetAt pid = some pkt → ∃ t, gone t ∧
          t.recordEnds = r ∧ t.packets = s.packets.filter (fun x => decide (x.id ≠ pid)) ∧ ∀ x ∈ t.ranges, x.pid ≠ pid) ∧
        (∀ k batch r u, rawField p 8 1 = 0x11 → s.recordEnds = .command (some k) batch :: r → Holds s1 k u → ∃ t, gone t ∧
          t.recordEnds = r ∧ Holds t k (u.finishOp batch) ∧ InFlight t (.bwaityReactivate k))) ∧
      (∀ s1 i, s.append 0 qa s.heqSlot p = .full s1 i → exec .heqRetry s = .next { s1 with heqSlot := some i }))

/-- R233, R274: a rescan looks again at each deferred name of its bucket: one that nothing pins is freed, its entry removed and
the filter counted down; one that is still pinned stays, and so does one whose entry cannot be cleared, which is reported. -/
def Sys2Proof.Claims.DeferredNamesAreRescanned : Prop :=
  ∀ (s : State) (bucket ctx : Nat) (e : Nat),
    let base := s.ctxField ctx 0x20 8
    let name := BitVec.ofNat 48 (e / 2 ^ 64)
    let pinned := s.slotsWith name ≠ [] ∨ s.pptHolds name = true ∨ s.instancePins name = true
    (s.deferredContexts = [] → exec (.deferredRescan bucket) s = .next s) ∧
    (s.deferredContexts = [ctx] → s.ctxField ctx 0x28 4 = 1 → s.agentNat ctx base 64 = .ok e →
      ((e.testBit 128 = false ∨ pinBucket name ≠ bucket) → exec (.deferredRescan bucket) s = .next s) ∧
      (e.testBit 128 = true → pinBucket name = bucket → (s.reg 0x100).getLsbD 7 = false →
        (pinned → ∃ t, exec (.deferredRescan bucket) s = .next t ∧ t = { s with mgmt := t.mgmt }) ∧
        (¬ pinned → (∀ s1, s.agentWrite ctx (base + 0x10) (leBytes 1 0) = .ok s1 → ∃ t f, exec (.deferredRescan bucket) s = .next t ∧
            t.frees = s.frees ++ [f] ∧ f.name = name ∧ f.queue = e % 2 ^ 64 ∧ f.ctx = e / 2 ^ 112 % 65536 ∧ f.deferred = true ∧
            f.slot = none ∧ InFlight t (.freeQueueRetry f.id) ∧ SeesOnly s t ∧ t.dram = s1.dram ∧ t.l2 = s1.l2 ∧
            ∀ h, SMap.get 0 t.filter h = SMap.get 0 s.filter h - (if h = bucket then 1 else 0)) ∧
          ∀ x, s.agentWrite ctx (base + 0x10) (leBytes 1 0) = .error x → s.heq = [] → ∃ t p, exec (.deferredRescan bucket) s = .next t ∧
            t.heq = [p] ∧ rawField p 8 1 = 0x16 ∧ rawField p 0xC 1 = 1 ∧ t.frees = s.frees ∧ t.filter = s.filter ∧ t.dram = s.dram ∧
            t.l2 = s.l2 ∧ t.teams = s.teams)))

/-! ### The host's replies (R444, R476, R477, R495, R496, R501, R504, R506, R508, R514, R516) -/

namespace Sys2Proof.Claims

/-- The one escalation of function `fn` and tag `tag` is open. -/
def Open (s : State) (fn tag : Nat) (e : Escalation) : Prop := s.escs = [e] ∧ e.fn = fn ∧ e.tag = tag

/-- Team `k` is parked by that escalation. -/
def ParkedBy (s : State) (k fn tag : Nat) (u : Team) : Prop :=
  Holds s k u ∧ u.escals = [tag] ∧ u.wait = some (.host fn tag)

/-- The reply closes the escalation, and team `k`, parked by it, is parked no longer. -/
def Unparked (s t : State) (k : Nat) (u : Team) (how : Nat) : Prop :=
  t.escs = [] ∧ Holds t k { u with escals := [], noHolder := u.noHolder.drop 1, wait := none, admission := how } ∧ t.dram = s.dram ∧ t.agenda = s.agenda

/-- The crew of a team has been terminated: no team of it is left. -/
def CrewEnded (s t : State) (u : Team) : Prop :=
  t.escs = [] ∧ t.teamsOfCrew u.crew = [] ∧ t.dram = s.dram ∧
  ∀ j v, SMap.look s.teams j = some v → v.crew ≠ u.crew → v.escals = [] → SMap.look t.teams j = some v

end Sys2Proof.Claims

/-- R477, R495: a reply to a tag that is not open, or not of its function, does nothing. -/
def Sys2Proof.Claims.RepliesToNothingAreIgnored : Prop :=
  ∀ (s : State) (tag : Nat),
    let none' := fun (fn : Nat) => ∀ e ∈ s.escs, ¬ (e.fn = fn ∧ e.tag = tag)
    (none' 0 → ∀ i ∈ [Instr.pfrespRetry tag, .pfrespFail tag, .pfrespTerminate tag], exec i s = .next s) ∧
    (none' 1 → ∀ i ∈ [Instr.deadlkReexecute tag, .deadlkDeliver tag, .deadlkTerminate tag, .deadlkAdmit tag], exec i s = .next s) ∧
    (none' 2 → ∀ i ∈ [Instr.wftovfAdmitUntracked tag, .wftovfRetry tag, .wftovfTerminate tag], exec i s = .next s) ∧
    (none' 3 → ∀ i ∈ [Instr.pptRetry tag, .pptTerminate tag], exec i s = .next s) ∧
    (none' 4 → ∀ i ∈ [Instr.topupRefill tag, .topupLeaveParked tag, .topupTerminate tag], exec i s = .next s) ∧
    (none' 5 → ∀ i ∈ [Instr.fencePlace tag, .fenceTerminate tag], exec i s = .next s) ∧
    (none' 6 → ∀ i ∈ [Instr.collabtSendAbort tag, .collabtSendNothing tag], exec i s = .next s)

/-- R477: the reply to a translation fault sends the request again, fails it, or terminates the crew of its team. -/
def Sys2Proof.Claims.TranslationFaultReplies : Prop :=
  ∀ (s : State) (tag k out n : Nat) (e : Escalation) (q : HomeReq) (b : BadAccess) (u : Team), Open s 0 tag e →
    e.reqs = [(q, b)] → e.engines = [] → q.who = .team k out → out ≠ 0 → q.op = .load n → Holds s k u → u.escals = [] →
    SMap.sortedFrom 0 s.teams = true → (SMap.look s.crews u.crew).map Crew.exited = some false →
    (s.fills = [] → ∃ t, exec (.pfrespRetry tag) s = .next t ∧ t.escs = [] ∧ t.dram = s.dram ∧ Holds t k u ∧
      t.agenda = s.agenda ++ [⟨.path q.core (sliceOf q.va), 0, .homeRequest q⟩]) ∧
    (s.fills = [] → ∃ t, exec (.pfrespFail tag) s = .next t ∧ t.escs = [] ∧ t.dram = s.dram ∧ Holds t k u ∧
      InFlight t (.loadReply q [] none [] (some b))) ∧
    (s.fills = [(lineId q.ctx q.va, [q])] → (∃ t, exec (.pfrespRetry tag) s = .next t ∧ t.escs = [] ∧ t.dram = s.dram ∧
        InFlight t (.translateRequest q)) ∧
      ∃ t, exec (.pfrespFail tag) s = .next t ∧ t.escs = [] ∧ t.dram = s.dram ∧ InFlight t (.homeFillComplete q (.bad b))) ∧
    (s.fills = [] → u.place = .resident → (∀ j ∈ s.teamsOfCrew u.crew, (SMap.get default s.teams j).place = .resident) →
      ∃ t, exec (.pfrespTerminate tag) s = .next t ∧ CrewEnded s t u)

/-- R444, R476, R496, R498, R501, R504, R505: the replies to a wait that would deadlock, or that the wait-for table has no room for;
a team that another open escalation parks stays parked, and a held save admitted untracked stays held. -/
def Sys2Proof.Claims.WaitReplies : Prop :=
  ∀ (s : State) (tag k : Nat) (e : Escalation) (u : Team), SMap.sortedFrom 0 s.teams = true → e.teams = [k] →
    (SMap.look s.crews u.crew).map Crew.exited = some false →
    let ends := fun (i : Instr) => (∀ j ∈ s.teamsOfCrew u.crew, (SMap.get default s.teams j).place = .resident) →
      ∃ t, exec i s = .next t ∧ CrewEnded s t u
    (Open s 1 tag e → ParkedBy s k 1 tag u →
      (∃ t, exec (.deadlkReexecute tag) s = .next t ∧ Unparked s t k u u.admission) ∧
      (u.place = .resident → ∃ t, exec (.deadlkAdmit tag) s = .next t ∧ Unparked s t k u 1) ∧
      ends (.deadlkTerminate tag) ∧
      (u.trap.tvbase.getLsbD 0 = true → u.trap.inHandler = false → (s.crewAt u.crew).handler = none →
        ∃ t v, exec (.deadlkDeliver tag) s = .next t ∧ t.escs = [] ∧ Holds t k v ∧ v.trap.tcause = 0x0001000C ∧ v.trap.tpc = u.pc ∧
          v.trap.tnpc = u.pc ∧ v.trap.tinfo0 = BitVec.ofNat 32 e.key ∧ v.trap.tinfo1 = BitVec.ofNat 32 (e.key / 2 ^ 32) ∧
          v.trap.inHandler = true ∧ v.pc = u.trap.tvbase &&& 0xFFFFFFFC ∧ v.mode = 7 ∧ v.vregs = u.vregs ∧ v.sregs = u.sregs)) ∧
    (Open s 2 tag e → ParkedBy s k 2 tag u → u.place = .resident →
      (∃ t, exec (.wftovfRetry tag) s = .next t ∧ Unparked s t k u u.admission) ∧
      (∃ t, exec (.wftovfAdmitUntracked tag) s = .next t ∧ Unparked s t k u 2) ∧ ends (.wftovfTerminate tag)) ∧
    (∀ h, Open s 2 tag e → Holds s k u → u.escals = [] → u.place = .saving → u.wait = some (.pinBucket h) → ∃ t,
      exec (.wftovfAdmitUntracked tag) s = .next t ∧ t.escs = [] ∧ Holds t k { u with untracked := true } ∧ t.dram = s.dram) ∧
    (∀ fn other, Open s 1 tag e → Holds s k u → u.escals = [tag, other] → other ≠ tag → u.wait = some (.host fn other) → ∃ t,
      exec (.deadlkReexecute tag) s = .next t ∧ t.escs = [] ∧ Holds t k { u with escals := [other] } ∧ t.dram = s.dram)

/-- R496, R505, R506, R508, R514, R516, R517: the replies to a full parked-pin bucket, to empty pools, to a fenced core and to an
aborted collective. -/
def Sys2Proof.Claims.SchedulingReplies : Prop :=
  ∀ (s : State) (tag k : Nat) (e : Escalation) (u : Team), SMap.sortedFrom 0 s.teams = true → Holds s k u → u.escals = [] →
    (SMap.look s.crews u.crew).map Crew.exited = some false →
    let ends := fun (i : Instr) => (∀ j ∈ s.teamsOfCrew u.crew, (SMap.get default s.teams j).place = .resident) →
      ∃ t, exec i s = .next t ∧ CrewEnded s t u
    (Open s 3 tag e → e.teams = [k] → ends (.pptTerminate tag) ∧
      ∀ n name, let entry := pinEntry name (s.crewOf u).ctx (s.crewOf u).grid false n
        u.place = .saving → u.wait = some (.pinBucket e.key) → u.entries = [] → (s.crewAt u.crew).taking = false →
        u.pins = [(n, ⟨true, name⟩)] → e.key = pinBucket name → entry < 2 ^ 128 → s.pptxCap = 1 →
        entryValid (s.physNat (s.pptxEntry 0) 16) = false →
        s.spillHeld (s.ctxOf u) ≤ s.ctxField (s.ctxOf u) 0x18 8 → s.reg 0x300 = 0 → s.ctxOf u < 65536 → 2 ^ 22 ≤ s.pptxEntry 0 →
        ∃ t v, exec (.pptRetry tag) s = .next t ∧ t.escs = [] ∧ Holds t k v ∧ v.place = .saved ∧ SameProgram u v ∧
          t.physNat (s.pptxEntry 0) 16 = entry) ∧
    (Open s 4 tag e → s.poolGrid e.key = e.key → (s.closeEsc tag).parkedOn e.key = [] → (SMap.look s.grids e.key).isSome = true →
      (∃ t, exec (.topupRefill tag) s = .next t ∧ t.escs = [] ∧ t.dram = s.dram ∧ Holds t k u ∧
        (t.gridAt e.key).ipool = min ((s.gridAt e.key).ipool + (s.reg 0x618).toNat) (2 ^ 64 - 1) ∧
        (t.gridAt e.key).mpool = min ((s.gridAt e.key).mpool + (s.reg 0x620).toNat) (2 ^ 64 - 1) ∧
        ∀ h ≠ e.key, t.gridAt h = s.gridAt h)) ∧
    (Open s 4 tag e → exec (.topupLeaveParked tag) s = .next (s.closeEsc tag)) ∧
    (Open s 4 tag e → (s.crewAt u.crew).grid = e.key → (∀ c ∈ s.crews, c.1 ≠ u.crew → c.2.grid ≠ e.key) →
      SMap.sortedFrom 0 s.crews = true → ends (.topupTerminate tag)) ∧
    (Open s 5 tag e → e.teams = [k] → ends (.fenceTerminate tag) ∧
      ∃ t, exec (.fencePlace tag) s = .next t ∧ t.escs = [] ∧ Holds t k u ∧ t.dram = s.dram ∧
        t.agenda = s.agenda ++ [⟨.free, 0, .crewPlace (e.key / 4)⟩]) ∧
    (Open s 6 tag e →
      (∃ t, exec (.collabtSendAbort tag) s = .next t ∧ t.escs = [] ∧ Holds t k u ∧ t.dram = s.dram ∧ t.agenda = s.agenda ∧
        ∃ more, t.peerOut = s.peerOut ++ more ∧ ∀ m, m ∈ more ↔ ∃ p < 16, p ∉ s.portsDown ∧ m = PeerMsg.abort p e.key) ∧
      (∃ t, exec (.collabtSendNothing tag) s = .next t ∧ t.escs = [] ∧ Holds t k u ∧ t.dram = s.dram ∧ t.agenda = s.agenda ∧
        t.peerOut = s.peerOut))

/-! ### The host link, the peer ports and memory errors (R142, R256 to R261, R273, R490 to R494, R514) -/

namespace Sys2Proof.Claims

/-- The bridge waits for the host's answer to `r` alone. -/
def Asked (s : State) (r : BridgeReq) : Prop := s.bridge = [r]

/-- The bytes of an answer as a number, lowest first (R3). -/
def answerNat (bytes : List Nat) : Nat := leNat (bytes.map (BitVec.ofNat 8))

/-- No aperture is valid. -/
def NoAperture (s : State) : Prop := ∀ i < 256, (s.reg (0x1000 + 32 * i)).getLsbD 63 = false

end Sys2Proof.Claims

/-- R142, R258 to R261: what the host answers becomes a half of the host-facing cache, and with the second half the line is filled;
it acknowledges the store, brings the old value of an atomic, or goes on with the compare-and-swap loop, which RETRYLIM ends. -/
def Sys2Proof.Claims.HostAnswersAreTaken : Prop :=
  ∀ (s : State) (r : BridgeReq) (bytes : List Nat), Asked s r →
    let go := fun (t : State) => exec (.hostCompletion r.id 0 bytes) s = .next t
    let v := answerNat bytes
    let base := r.pa / 128 * 2
    (∀ id st, id ≠ r.id → exec (.hostCompletion id st bytes) s = .next s) ∧
    (∀ d, r.stage = 0 → r.fill = some d → r.done < 2 → s.halves.length < 131072 → ∃ t, go t ∧ t.dram = s.dram ∧ t.teams = s.teams ∧
      (∀ h, t.halfAt h = if h = base + r.done then ⟨if wantsOwn r.q then 2 else 1, BitVec.ofNat 512 v, false, 0⟩ else s.halfAt h) ∧
      (r.done = 0 → (if wantsOwn r.q then (s.halfAt (base + 1)).state ≠ 2 else (s.halfAt (base + 1)).state = 0) →
        t.bridge = [{ r with done := 1, fill := some { d with data := setHalf d.data 0 (BitVec.ofNat 512 v) } }] ∧
        t.agenda = s.agenda) ∧
      (r.done = 1 ∨ (if wantsOwn r.q then (s.halfAt (base + 1)).state = 2 else (s.halfAt (base + 1)).state ≠ 0) → t.bridge = [] ∧
        ∃ line bad, InFlight t (.homeFillComplete r.q (.filled { d with data := line, poison := bad })) ∧
          ((t.halfAt base).poison = 0 → (t.halfAt (base + 1)).poison = 0 → bad = 0) ∧ ∀ o < 128,
          (t.halfAt (base + o / 64)).state ≠ 0 →
          lineByte line o = ((t.halfAt (base + o / 64)).data.extractLsb' (8 * (o % 64)) 8 : BitVec 8))) ∧
    (r.stage = 2 → s.fills = [] → ∃ t, go t ∧ t.bridge = [] ∧ t.dram = s.dram ∧ t.teams = s.teams ∧
      InFlight t (.writerAck r.q [] none)) ∧
    (∀ op b a, r.q.op = .atom op b → r.q.accs = [a] → r.done = 0 → r.vals = [] → r.bad = none → s.fills = [] →
      (r.stage = 3 → ∃ t, go t ∧ t.bridge = [] ∧ t.dram = s.dram ∧
        InFlight t (.writerAck r.q (atomLanes op (BitVec.ofNat 32 v) (BitVec.ofNat 32 v) none [a]).1 none)) ∧
      (r.stage = 4 → ∃ t, go t ∧ t.bridge = [{ r with stage := 5, old := v % 2 ^ 32 }] ∧ t.dram = s.dram ∧ t.agenda = s.agenda) ∧
      (r.stage = 5 → v % 2 ^ 32 = r.old → ∃ t, go t ∧ t.bridge = [] ∧
        InFlight t (.writerAck r.q (atomLanes op (BitVec.ofNat 32 r.old) (BitVec.ofNat 32 r.old) none [a]).1 none)) ∧
      (r.stage = 5 → v % 2 ^ 32 ≠ r.old → r.tries + 1 ≠ (s.reg 0x18).toNat % 65536 → ∃ t, go t ∧
        t.bridge = [{ r with tries := r.tries + 1, old := v % 2 ^ 32 }] ∧ t.dram = s.dram) ∧
      (r.stage = 5 → v % 2 ^ 32 ≠ r.old → r.tries + 1 = (s.reg 0x18).toNat % 65536 → (s.reg 0x100).toNat = 0 →
        ∃ t, go t ∧ t.bridge = [] ∧ InFlight t (.homeFillComplete r.q (.bad ⟨0x0B, 3, 8, r.q.va⟩))))

/-- R490: an answer of error or poison, none within 10 ms, and a lost link all fail the request; requests made later fail too
until the link is up again. -/
def Sys2Proof.Claims.HostFailuresFault : Prop :=
  ∀ (s : State) (r : BridgeReq) (n : Nat) (bytes : List Nat), Asked s r → r.stage = 0 → r.q.op = .load n → s.hostMode 0 = false →
    let failed := fun (t : State) (b : BadAccess) => t.bridge = [] ∧ t.dram = s.dram ∧ t.teams = s.teams ∧
      InFlight t (.homeFillComplete r.q (.bad b))
    (∃ t, exec (.hostCompletion r.id 1 bytes) s = .next t ∧ failed t ⟨0x0B, 3, 0xA, r.q.va⟩) ∧
    (∃ t, exec (.hostCompletion r.id 2 bytes) s = .next t ∧ failed t ⟨0x0D, 3, 2, r.q.va⟩) ∧
    (∃ t, exec (.hostCompletionTimeout r.id) s = .next t ∧ failed t ⟨0x0B, 3, 0xA, r.q.va⟩) ∧
    (∃ t, exec .linkDown s = .next t ∧ failed t ⟨0x0B, 3, 0xA, r.q.va⟩ ∧ t.linkUp = false) ∧
    (∀ id, id ≠ r.id → exec (.hostCompletionTimeout id) s = .next s) ∧
    exec .hostLinkUp s = .next { s with linkUp := true }

/-- R142, R259: a snoop takes away, or shares, a half that the bridge holds; the bytes that the device has changed go back to the
host, and a line that lost a half leaves the device's caches. -/
def Sys2Proof.Claims.HostSnoopsAreAnswered : Prop :=
  ∀ (s : State) (half lid : Nat) (excl : Bool) (x : L2Line),
    let mine := s.halfAt half
    let sent := fun (t : State) (o : Nat) (b : Byte) => ∃ r ∈ t.bridge, r.pa / 128 = half / 2 ∧ ∃ a ∈ r.q.accs,
      a.va % 128 = 64 * (half % 2) + o ∧ a.data = b.toNat
    let dirty := fun (o : Nat) => x.dirty.getLsbD (64 * (half % 2) + o)
    (mine.state = 0 → exec (.hostSnoop half excl) s = .next s) ∧
    (mine.state ≠ 0 → s.linesOfHalf half = [] → mine.dirty = false → exec (.hostSnoop half excl) s =
      .next { s with halves := SMap.set {} s.halves half (if excl then {} else { mine with state := 1 }) }) ∧
    (mine.state ≠ 0 → s.linesOfHalf half = [lid] → SMap.look s.l2 lid = some x → x.host = true → x.pa = half / 2 * 128 →
      ∃ t, exec (.hostSnoop half excl) s = .next t ∧ t.teams = s.teams ∧ t.dram = s.dram ∧
      (t.halfAt half).state = (if excl then 0 else 1) ∧ (t.halfAt half).dirty = false ∧
      (∀ h ≠ half, (t.halfAt h).state = (s.halfAt h).state) ∧ (∀ h, h / 2 ≠ half / 2 → t.halfAt h = s.halfAt h) ∧
      SMap.look t.l2 lid = (if excl then none else some { x with dirty := 0 }) ∧
      (∀ k ≠ lid, SMap.look t.l2 k = SMap.look s.l2 k) ∧
      (∀ o < 64, dirty o = true → sent t o (lineByte x.data (64 * (half % 2) + o))) ∧
      (mine.dirty = true → ∀ o < 64, dirty o = false → sent t o (mine.data.extractLsb' (8 * o) 8)))

/-- R131, R256 to R258, R262, R268, R490: a host access of memory is made at the address that its decoder gives: outside every
aperture at the controller, in one at the home slice of its virtual address, and an access that crosses a line is its parts; a
register of BAR0 is read and written; with the link down, after a failed boot, or outside the decoder's range, it is dropped. -/
def Sys2Proof.Claims.HostAccessesArePerformed : Prop :=
  ∀ (s : State) (r : HostReq) (i d off : Nat),
    let ctl := (s.reg (0x1000 + 32 * i)).toNat
    let base := (s.reg (0x1008 + 32 * i)).toNat / 2 ^ 16 % 2 ^ 36 * 2 ^ 16
    let size := (s.reg (0x1018 + 32 * i)).toNat / 2 ^ 16 * 2 ^ 16
    let pa := d * 2 ^ 40 + off
    let va := canonOf ((s.reg (0x1010 + 32 * i)).toNat / 2 ^ 16 % 2 ^ 41 * 2 ^ 16 + (pa - base))
    let n := (r.write.map List.length).getD r.len
    let read := (List.range r.len).map fun o => (s.dram.byte (pa + o)).toNat
    let inside := (d = 0 ∧ off + n ≤ 12 * 2 ^ 36) ∨ (d = 1 ∧ off + n ≤ 2 ^ 40)
    let aperture := i < 256 ∧ (∀ j < 256, j ≠ i → (s.reg (0x1000 + 32 * j)).getLsbD 63 = false) ∧ ctl.testBit 63 = true ∧
      base ≤ pa ∧ pa < base + size
    (s.linkUp = false → exec (.hostAccess r) s = .next s) ∧
    (r.target = .memory d off → (s.bootFailed = true ∨ ¬ inside) → exec (.hostAccess r) s = .next s) ∧
    (r.target = .memory d off → s.linkUp = true → s.bootFailed = false → inside →
      (0 < n → pa % 128 + n ≤ 128 → NoAperture s → (s.reg 0x100).toNat = 0 → ∃ t, exec (.hostAccess r) s = .next t ∧
        (r.write = none → s.poison = [] → t = { s with mgmt := t.mgmt, hostOut := s.hostOut ++ [(r.tag, read)] }) ∧
        (∀ bs, r.write = some bs →
          t = { s with dram := t.dram, poison := t.poison, mgmt := t.mgmt, hostOut := s.hostOut ++ [(r.tag, [])] } ∧
          ∀ a, t.dram.byte a = if pa ≤ a ∧ a < pa + n then BitVec.ofNat 8 (bs.getD (a - pa) 0) else s.dram.byte a)) ∧
      (0 < n → pa % 128 + n ≤ 128 → aperture →
        (r.write = none → exec (.hostAccess r) s =
          .next (s.send .free (.homeRequest ⟨.host r.tag, 0, ctl % 65536, va, .load r.len, [⟨0, va, 0, 0⟩]⟩))) ∧
        (∀ bs, r.write = some bs → exec (.hostAccess r) s =
          .next (s.send .free (.homeWrite ⟨.host r.tag, 0, ctl % 65536, va, .store n, [⟨0, va, answerNat bs, 0⟩]⟩)))) ∧
      (∀ m t, 0 < m → m < n → (pa + m) % 128 = 0 →
        exec (.hostAccess ⟨r.tag, r.target, r.write.map (List.take m), m⟩) s = .next t →
        exec (.hostAccess r) s = exec (.hostAccess ⟨r.tag, .memory d (off + m), r.write.map (List.drop m), n - m⟩) t)) ∧
    (r.target = .bar0 off → s.linkUp = true → off % 8 = 0 → off < 2 ^ 22 → n = 8 →
      (r.write = none → s.bootFailed = false → ∃ u, Counted s u off ∧ exec (.hostAccess r) s =
        .next { u with hostOut := s.hostOut ++ [(r.tag, (List.range 8).map fun o => ((u.reg off).toNat / 256 ^ o) % 256)] }) ∧
      (∀ bs t, r.write = some bs → exec (.managementWrite off (BitVec.ofNat 64 (answerNat bs))) s = .next t →
        exec (.hostAccess r) s = .next { t with hostOut := t.hostOut ++ [(r.tag, [])] }))

/-- R267, R491, R514: a port that goes down fails the packets on their way through it, and aborts the group of a step at every
peer, or, with COLLABT host-assisted, asks the host whether to; a port that comes up takes packets again. -/
def Sys2Proof.Claims.PeerPortsGoDownAndUp : Prop :=
  ∀ (s : State) (port : Nat) (p : Packet), s.packets = [p] →
    (exec (.peerPortUp port) s = .next { s with portsDown := s.portsDown.filter (· ≠ port) }) ∧
    (p.accepted = true → p.route.map Prod.fst = some port → ∃ t x, exec (.peerPortDown port) s = .next t ∧ port ∈ t.portsDown ∧
      t.packets = [x] ∧ x.failed = some (p.failed.getD ⟨8, 0, 2, 0⟩) ∧ InFlight t p.event ∧ t.teams = s.teams ∧
      (p.kind ≠ 5 → t.peerOut = s.peerOut ∧ t.aborts = s.aborts) ∧
      (p.kind = 5 → p.d 0 8 ∈ t.aborts ∧ x.aborted = true ∧
        (s.hostMode 6 = false → ∀ j < 16, j ∉ s.portsDown → j ≠ port → PeerMsg.abort j (p.d 0 8) ∈ t.peerOut) ∧
        (s.hostMode 6 = true → t.peerOut = s.peerOut ∧ ∃ e ∈ t.escs, e.fn = 6 ∧ e.ctx = p.ctx ∧ e.key = p.d 0 8 ∧ e.tag = s.nextTag))) ∧
    ((p.accepted = false ∨ p.route.map Prod.fst ≠ some port) → ∃ t, exec (.peerPortDown port) s = .next t ∧
      t = { s with portsDown := t.portsDown } ∧ port ∈ t.portsDown)

/-- R273, R492 to R494: a corrected error is counted; an uncorrectable one poisons the sector it strikes, drops a clean line, or
poisons an accumulator; an SRAM error stops its unit and is reported, or fails a packet of its Drover engine (which unit a kind 8
names: log entry 117). -/
def Sys2Proof.Claims.ErrorsPoisonOrStop : Prop :=
  ∀ (s : State) (c key lid sector e n : Nat),
    ((s.reg 0x100).toNat = 0 → ∃ t, exec (.correctableError c) s = .next t ∧ t = { s with mgmt := t.mgmt } ∧
      ∀ j < 4, (t.reg (0x120000 + 0x80 * c + 8 * j)).toNat % 2 ^ 48 = ((s.reg (0x120000 + 0x80 * c + 8 * j)).toNat +
        (if (s.reg (0x1A0000 + 0x80 * c + 8 * j)).toNat % 256 = 6 then 1 else 0)) % 2 ^ 48) ∧
    (∃ t, exec (.uncorrectableError 0 key) s = .next t ∧ t = { s with poison := t.poison } ∧
      ∀ h, h ∈ t.poison ↔ h ∈ s.poison ∨ h = 2 * key ∨ h = 2 * key + 1) ∧
    (∀ x, sector < 4 → SMap.look s.l2 lid = some x → ∃ t, exec (.uncorrectableError 1 (4 * lid + sector)) s = .next t ∧
      t.dram = s.dram ∧ t.teams = s.teams ∧ (∀ k ≠ lid, SMap.look t.l2 k = SMap.look s.l2 k) ∧
      (x.dirty = 0 → SMap.look t.l2 lid = none) ∧
      ((∃ o < 32, x.dirty.getLsbD (32 * sector + o) = true) → SMap.look t.l2 lid =
        some { x with poison := x.poison ||| BitVec.ofNat 8 (3 * 2 ^ (2 * sector)) }) ∧
      (x.dirty ≠ 0 → (∀ o < 32, x.dirty.getLsbD (32 * sector + o) = false) → t = s)) ∧
    (n < 16 → ∃ t, exec (.uncorrectableError 2 (16 * e + n)) s = .next t ∧ t = { s with chans := t.chans } ∧
      t.engineAt e = { s.engineAt e with poison := (s.engineAt e).poison ||| BitVec.ofNat 16 (2 ^ n) } ∧
      ∀ e' ≠ e, t.engineAt e' = s.engineAt e') ∧
    (∀ die kind unit, kind ≠ 6 → s.heq.length < 256 → ∃ t, exec (.unitSramError die kind unit) s = .next t ∧
      t = { s with stopped := t.stopped, heq := t.heq, agenda := t.agenda } ∧
      (∀ u, u ∈ t.stopped ↔ u ∈ s.stopped ∨ u = (kind, if kind = 0 ∨ kind = 5 ∨ 7 ≤ kind then unit else die)) ∧
      t.heq = s.heq ++ [packFields [(0x08, 0x12), (0x09, if kind = 5 then unit % 4 else 0), (0x0A, 0), (0x0C, die), (0x0D, kind),
        (0x0E, if kind = 0 ∨ (5 ≤ kind ∧ kind < 8) then unit else 0)]]) ∧
    (∀ die unit p, s.packets = [p] → p.engine = unit → p.accepted = true → ∃ t x, exec (.unitSramError die 6 unit) s = .next t ∧
      t.packets = [x] ∧ x.failed = some (p.failed.getD ⟨0x0D, 0, 0, p.src⟩) ∧ t.stopped = s.stopped ∧ InFlight t p.event)

/-! ### Management (R32, R36, R129, R262 to R271, R445, R446, R514 to R517) -/

namespace Sys2Proof.Claims

/-- Management registers that a write only stores into, with the bits that software writes; the other bits keep their value
(R5, R6, R257, R262 to R265, R267, R270, R495, R500, R502, R506). -/
def storedRegs : List (Nat × Nat) :=
  [(0x008, 0xFFFF), (0x010, 1), (0x018, 0xFFFF), (0x030, 2 ^ 48 - 1), (0x100, 0xFF), (0x300, 2 ^ 52 - 2 ^ 22),
   (0x400, 2 ^ 57 - 2 ^ 20), (0x508, 2 ^ 63 + 2 ^ 62 + (2 ^ 57 - 1)), (0x510, 2 ^ 57 - 1), (0x618, 2 ^ 64 - 1), (0x620, 2 ^ 64 - 1),
   (0x700, 2 ^ 57 - 2 ^ 9), (0x1000, 2 ^ 63 + 0xFFFF), (0x1008, 2 ^ 52 - 2 ^ 16), (0x1010, 2 ^ 57 - 2 ^ 16),
   (0x2FF8, 2 ^ 64 - 2 ^ 16),
   (0x15000, 2 ^ 57 - 2 ^ 17), (0x15008, 2 ^ 64 - 2 ^ 16), (0x16000, 2 ^ 64 - 1), (0x16018, 2 ^ 64 - 1), (0x180000, 0xFF),
   (0x1B0000, 0xFF)]

/-- Registers that software cannot write, and offsets with no register (R262). -/
def deafRegs : List Nat := [0x000, 0x020, 0x028, 0x038, 0x110, 0x310, 0x16028, 0x17000, 0x17008, 0x17010, 0x17018, 0x20000, 0x200000]

/-- Every register but one holds what it held. -/
def OtherRegs (s t : State) (off : Nat) : Prop := ∀ o ≠ off, t.reg o = s.reg o

/-- The remap-filter entry that REMAPDATA0 and REMAPDATA1 describe (R265). -/
def filterEntry (d0 d1 : BitVec 64) : RemapEntry where
  valid := d0.getLsbD 63
  big := d0.getLsbD 62
  aliasPage := d0.toNat / 2 ^ 16 % 2 ^ 41
  actx := d0.toNat % 65536
  primPage := d1.toNat / 2 ^ 16 % 2 ^ 41
  pctx := d1.toNat % 65536

/-- Cluster `c`'s field of a partition map. -/
def mapField (v : BitVec 64) (c : Nat) : Nat := v.toNat / 2 ^ (2 * (c % 32)) % 4

end Sys2Proof.Claims

/-- R262, R263, R268, R274: a write stores into the writable bits of its register and nothing else; read-only registers and
offsets without a register ignore it; a counter takes the value and clears OVF by a one; registers that start an operation do
what their own events do. -/
def Sys2Proof.Claims.ManagementWrites : Prop :=
  ∀ (s : State) (off : Nat) (v : BitVec 64),
    let go := exec (.managementWrite off v) s
    ((off % 8 ≠ 0 ∨ 2 ^ 22 ≤ off) → go = .next s) ∧
    (off ∈ deafRegs → go = .next s) ∧
    (s.bootFailed = true → 0x30 < off → ¬ (0x16000 ≤ off ∧ off ≤ 0x16028) → go = .next s) ∧
    (∀ m, (off, m) ∈ storedRegs → s.bootFailed = false → ¬ countsTime s (off - 0x80000) → ∃ t, go = .next t ∧ t = { s with mgmt := t.mgmt } ∧ OtherRegs s t off ∧
      t.reg off = (s.reg off &&& ~~~BitVec.ofNat 64 m) ||| (v &&& BitVec.ofNat 64 m)) ∧
    (∀ cls unit n, off = 0x100000 + 0x10000 * cls + 0x80 * unit + 8 * n → cls < 5 → counterExists cls unit n = true →
      s.bootFailed = false → ∀ i, (i = .managementWrite off v ∨ i = .counterValueWrite off v) → ∃ t, exec i s = .next t ∧
        t = { s with mgmt := t.mgmt } ∧ OtherRegs s t off ∧ (t.reg off).toNat = v.toNat % 2 ^ 48 +
          (if v.getLsbD 63 then 0 else (s.reg off).toNat / 2 ^ 63 * 2 ^ 63)) ∧
    (s.bootFailed = false →
      (off = 0x108 → ∃ t, go = .next t ∧ t = { s with mgmt := t.mgmt, agenda := t.agenda, heqSlot := t.heqSlot } ∧
        OtherRegs s t off ∧ InFlight t .heqRetry ∧
        t.heqSlot = (if (t.reg off).toNat / 2 ^ 8 % 2 ^ 49 = (s.reg off).toNat / 2 ^ 8 % 2 ^ 49 then s.heqSlot else none) ∧
        t.reg off = (s.reg off &&& ~~~BitVec.ofNat 64 (2 ^ 63 + (2 ^ 57 - 2 ^ 8))) ||| (v &&& BitVec.ofNat 64 (2 ^ 63 + (2 ^ 57 - 2 ^ 8)))) ∧
      (∀ n m, n < 0x500 → ((off = 0x10000 + 16 * n ∧ m = 2 ^ 57 - 2 ^ 8) ∨ (off = 0x10008 + 16 * n ∧ m = 2 ^ 63 + 0xFFFF)) →
        ∃ t, go = .next t ∧ t = { s with mgmt := t.mgmt, badQueues := t.badQueues, singles := t.singles } ∧ OtherRegs s t off ∧
        t.reg off = (s.reg off &&& ~~~BitVec.ofNat 64 m) ||| (v &&& BitVec.ofNat 64 m) ∧
        t.badQueues = s.badQueues.filter (· ≠ n) ∧
        t.singles = s.singles.filter fun w => decide (64 * w.part + w.queue ≠ n)) ∧
      (off = 0x200 → go = exec (.partmapWrite false v) s) ∧ (off = 0x208 → go = exec (.partmapWrite true v) s) ∧
      (off = 0x308 → go = exec (.tlbinv v) s) ∧ (off = 0x660 → go = exec (.ctxkill v) s) ∧
      (off = 0x668 → go = exec (.abtclr v) s) ∧ (off = 0x16020 → go = exec (.attgo v) s) ∧
      (off = 0x500 → go = exec (.remapWrite v) s) ∧
      (∀ tag : Nat, tag < 2 ^ 32 → off = 0x600 →
        (v = BitVec.ofNat 64 (2 ^ 63 + tag) → go = exec (.pfrespRetry tag) s) ∧
        (v = BitVec.ofNat 64 (2 ^ 63 + 2 ^ 32 + tag) → go = exec (.pfrespFail tag) s) ∧
        (v = BitVec.ofNat 64 (2 ^ 63 + 2 * 2 ^ 32 + tag) → go = exec (.pfrespTerminate tag) s)) ∧
      (∀ tag : Nat, tag < 2 ^ 32 → off = 0x610 →
        (v = BitVec.ofNat 64 (2 ^ 63 + 2 ^ 56 + 3 * 2 ^ 32 + tag) → go = exec (.deadlkAdmit tag) s) ∧
        (v = BitVec.ofNat 64 (2 ^ 63 + 4 * 2 ^ 56 + tag) → go = exec (.topupRefill tag) s) ∧
        (v = BitVec.ofNat 64 (2 ^ 63 + 6 * 2 ^ 56 + 3 * 2 ^ 32 + tag) → go = .next s)))

/-- R129, R263, R523: TLBINV with GO forgets every translation of its context, those recorded on held lines and on fills under way
too, and sets DONE; other contexts keep theirs. -/
def Sys2Proof.Claims.TranslationsAreInvalidated : Prop :=
  ∀ (s : State) (v : BitVec 64) (c : Nat),
    let ctx := v.toNat % 65536
    (v.getLsbD 63 = true → ∃ t, exec (.tlbinv v) s = .next t ∧ t.dram = s.dram ∧ t.teams = s.teams ∧
      t.reg 0x308 = BitVec.ofNat 64 (ctx + 2 ^ 62) ∧ (∀ p, p ∈ t.tlb ↔ p ∈ s.tlb ∧ p.1 ≠ ctx) ∧
      (∀ k x, SMap.look s.l2 k = some x → SMap.look t.l2 k =
        some (if lineCtx k = ctx then { x with rd := false, wr := false, ex := false } else x)) ∧
      (∀ k x, s.l1Line c k = some x → t.l1Line c k =
        some (if lineCtx k = ctx then { x with rd := false, wr := false } else x)) ∧
      (∀ p, p ∈ (t.coreAt c).icache ↔ p ∈ (s.coreAt c).icache ∧ lineCtx p.1 ≠ ctx) ∧
      (∀ q d, q.ctx = ctx → ¬ InFlight t (.homeFillComplete q (.filled d))) ∧
      (∀ q vals d u bad, q.ctx = ctx → ¬ InFlight t (.loadReply q vals (some d) u bad)) ∧
      (∀ r ∈ t.bridge, r.q.ctx = ctx → r.stage ≠ 0 ∧ r.stage ≠ 8) ∧ ∀ r, r.q.ctx ≠ ctx → (r ∈ t.bridge ↔ r ∈ s.bridge)) ∧
    (v.getLsbD 63 = false → ∃ t, exec (.tlbinv v) s = .next t ∧ t = { s with mgmt := t.mgmt } ∧ OtherRegs s t 0x308 ∧
      t.reg 0x308 = BitVec.ofNat 64 ctx ||| (s.reg 0x308 &&& BitVec.ofNat 64 (2 ^ 62)))

/-- R265: REMAPIDX with GO reads an entry of a core's filter into the data registers, or writes it from them, in one core or in
all; without GO nothing happens. -/
def Sys2Proof.Claims.RemapFiltersAreLoaded : Prop :=
  ∀ (s : State) (v : BitVec 64),
    let core := v.toNat / 2 ^ 12 % 256
    let idx := v.toNat % 4096
    let d0 := s.reg 0x508
    let d1 := s.reg 0x510
    let e := filterEntry d0 d1
    let written := fun (t : State) (cs : Nat → Prop) => t = { s with cores := t.cores } ∧ ∀ c,
      (cs c → ∀ i, SMap.get default (t.coreAt c).remap i = if i = idx then e else SMap.get default (s.coreAt c).remap i) ∧
      (¬ cs c → (t.coreAt c).remap = (s.coreAt c).remap) ∧ (t.coreAt c).l1 = (s.coreAt c).l1 ∧ (t.coreAt c).icache = (s.coreAt c).icache
    (∀ i ∈ [Instr.remapRead v, .remapWrite v, .remapWriteAll v], (v.getLsbD 63 = false → exec i s = .next s) ∧
      (v.getLsbD 63 = true → v.getLsbD 62 = true → ∃ t, exec i s = .next t ∧
        written t fun c => if v.getLsbD 61 then c < 256 else c = core) ∧
      (v.getLsbD 63 = true → v.getLsbD 62 = false → ∃ t, exec i s = .next t ∧ t = { s with mgmt := t.mgmt } ∧
        let x := SMap.get default (s.coreAt core).remap idx
        (∀ o, o ≠ 0x508 → o ≠ 0x510 → t.reg o = s.reg o) ∧
        (t.reg 0x508).toNat = (x.actx + x.aliasPage * 2 ^ 16 + (if x.big then 2 ^ 62 else 0) + (if x.valid then 2 ^ 63 else 0)) % 2 ^ 64 ∧
        (t.reg 0x510).toNat = (x.pctx + x.primPage * 2 ^ 16) % 2 ^ 64))

/-- R32, R263: a partition map takes effect for the clusters with no resident work; the others keep their partition, and a crew with
a team that is not saved keeps its core. -/
def Sys2Proof.Claims.PartitionsAreReassigned : Prop :=
  ∀ (s : State) (index : Bool) (v : BitVec 64), ∃ t, exec (.partmapWrite index v) s = .next t ∧ t.teams = s.teams ∧
    (∀ k c, SMap.look s.crews k = some c → (∃ j ∈ s.teamsOfCrew k, (SMap.get default s.teams j).place ≠ .saved) →
      SMap.look t.crews k = some c) ∧
    t.dram = s.dram ∧ t.l2 = s.l2 ∧ OtherRegs s t (if index then 0x208 else 0x200) ∧ ∀ c < 64,
      t.partOfCluster c = if (decide (32 ≤ c) = index) ∧ s.clusterBusy c = false then mapField v c else s.partOfCluster c

/-- R443, R514, R515: killing a context ends every team of it and no other, forgets its grids and instances, discards what has
not started, stops its packets, and, once the last of them has stopped, hands on its locks, aborts its collectives and sets DONE; ABTCLR takes
a group out of the abort filter. -/
def Sys2Proof.Claims.ContextsAreKilled : Prop :=
  ∀ (s : State) (v : BitVec 64) (p : Packet),
    let ctx := v.toNat % 65536
    let bare := fun (u : Team) => { u with unsettled := [], outs := u.outs.filter fun o => !isFetch o }
    (v.getLsbD 63 = true → s.kills = [] → s.packets = [] → s.chans = [] → SMap.sortedFrom 0 s.teams = true →
      (∀ k u, SMap.look s.teams k = some u → (SMap.look s.crews u.crew).map Crew.exited = some false) →
      ∃ t, exec (.ctxkill v) s = .next t ∧ ctx ∈ t.killed ∧ t.reg 0x660 = BitVec.ofNat 64 (ctx + 2 ^ 62) ∧
        (∀ k u, SMap.look s.teams k = some u → (SMap.look t.teams k).map bare = if s.ctxOf u = ctx then none else some (bare u)) ∧
        (∀ h g, SMap.look s.grids h = some g → g.ctx = ctx → SMap.look t.grids h = none) ∧
        (∀ h x, SMap.look s.insts h = some x → x.ctx = ctx → SMap.look t.insts h = none) ∧
        (∀ c, ∀ b ∈ (t.clusterAt c).ccbs, (s.gridAt b.grid).ctx ≠ ctx) ∧
        (∀ c, ∀ g ∈ (t.clusterAt c).groups, (s.gridAt g.grid).ctx ≠ ctx) ∧
        ∀ k u, SMap.look s.teams k = some u → s.ctxOf u = ctx → ∀ h ∈ u.holdings, h.isLock = true → h.released = false →
          InFlight t (.unlockAtHome ⟨.nobody, 0, ctx, h.va, .unlock, [⟨0, h.va, 0, 0⟩]⟩)) ∧
    (v.getLsbD 63 = true → s.kills = [] → s.packets = [p] → p.ctx = ctx → p.team = none → s.chans = [] →
      ∃ t, exec (.ctxkill v) s = .next t ∧
      (p.accepted = false → t.packets = [] ∧ t.reg 0x660 = BitVec.ofNat 64 (ctx + 2 ^ 62)) ∧
      (p.accepted = true → t.packets = [{ p with stop := true, started := true, waiting := false }] ∧ InFlight t p.event ∧
        t.reg 0x660 = BitVec.ofNat 64 ctx ∧ ∃ x ∈ t.kills, x.1 = ctx)) ∧
    (∀ pid groups locks, s.packets = [] → s.kills = [(ctx, groups, locks)] → ∃ t, exec (.packetComplete pid) s = .next t ∧
      t.kills = [] ∧ ((s.reg 0x660).toNat % 65536 = ctx → t.reg 0x660 = BitVec.ofNat 64 (ctx + 2 ^ 62)) ∧
      (∀ va ∈ locks, InFlight t (.unlockAtHome ⟨.nobody, 0, ctx, va, .unlock, [⟨0, va, 0, 0⟩]⟩)) ∧
      ∀ g ∈ groups, s.hostMode 6 = false → ∀ j < 16, j ∉ s.portsDown → PeerMsg.abort j g ∈ t.peerOut) ∧
    (v.getLsbD 63 = false → ∃ t, exec (.ctxkill v) s = .next t ∧ t = { s with mgmt := t.mgmt } ∧ OtherRegs s t 0x660) ∧
    (∃ t, exec (.abtclr v) s = .next t ∧ t = { s with aborts := t.aborts } ∧ ∀ g, g ∈ t.aborts ↔ g ∈ s.aborts ∧ g ≠ v.toNat)

/-- R443, R445, R446, R516: a fenced core's crews are saved, or terminated when their image is poisoned; the core's bit stands in
FENCEMAP, and a core that is fenced already is left alone and issues nothing. -/
def Sys2Proof.Claims.CoresAreFenced : Prop :=
  ∀ (s : State) (core k : Nat) (bad : List Nat) (u : Team), core < 256 →
    ((s.reg (0x17000 + 8 * (core / 64))).getLsbD (core % 64) = true → exec (.coreFence core bad) s = .next s ∧
      (Holds s k u → (s.crewOf u).core = core → s.readyWord k u = none)) ∧
    ((s.reg (0x17000 + 8 * (core / 64))).getLsbD (core % 64) = false → s.crewsToMove core = [u.crew] → s.teamsOfCrew u.crew = [k] →
      Holds s k u → u.place = .resident → (SMap.look s.crews u.crew).map Crew.exited = some false → SMap.sortedFrom 0 s.teams = true →
      u.gang = 0 → u.halted = false → u.reissue = none → ∃ t, exec (.coreFence core bad) s = .next t ∧
        (t.reg (0x17000 + 8 * (core / 64))).getLsbD (core % 64) = true ∧ t.dram = s.dram ∧
        InFlight t (.crewPlace (clusterOfCore core)) ∧
        (u.crew ∈ bad → SMap.look t.teams k = none ∧ t.teamsOfCrew u.crew = []) ∧
        (u.crew ∉ bad → ∃ v, Holds t k v ∧ v.place = .saving ∧ InFlight t (.teamSave k) ∧ OthersStay s t k ∧
          SameProgram (if u.yielded then u else
            { u with pc := if u.contpc.getLsbD 0 then u.contpc &&& 0xFFFFFFFC else u.pc, contpc := 0 }) v ∧
          (t.hostMode 5 = true → ∃ e ∈ t.escs, e.fn = 5 ∧ e.teams = [k] ∧ e.key = core)))

/-- R36, R269: THERMSTAT shows each die's reading with WARN and STOP, which clear at 95 degrees; a die that passes a limit is
reported, and one above 110 degrees stops issue; a trip takes the power away, and no state is kept but the OTP counter. -/
def Sys2Proof.Claims.HotDiesAreStopped : Prop :=
  ∀ (s : State) (temp : Int) (temps : List Int) (die d : Nat),
    let old := (s.reg 0x28).toNat / 2 ^ (16 * d) % 2 ^ 16
    let first := (s.reg 0x28).toNat % 2 ^ 16
    (d < 4 → ∃ t, exec (.thermalSample temps) s = .next t ∧ t.dram = s.dram ∧
      (t.reg 0x28).toNat / 2 ^ (16 * d) % 2 ^ 16 = (match temps[d]? with
        | none => old
        | some x => (x % 256).toNat + (if 100 < x ∨ (old.testBit 15 = true ∧ 95 < x) then 2 ^ 15 else 0) +
          (if 110 < x ∨ (old.testBit 14 = true ∧ 95 < x) then 2 ^ 14 else 0))) ∧
    (s.heq = [] → s.teams = [] → ∃ t, exec (.thermalSample [temp]) s = .next t ∧
      t.heq = (if 100 < temp ∧ first.testBit 15 = false then
          [packFields [(0x08, 0x14), (0x09, 0), (0x0A, 0), (0x0C, 0), (0x0D, 1), (0x0E, (temp % 65536).toNat)]] else []) ++
        (if 110 < temp ∧ first.testBit 14 = false then
          [packFields [(0x08, 0x14), (0x09, 0), (0x0A, 0), (0x0C, 0), (0x0D, 2), (0x0E, (temp % 65536).toNat)]] else []) ∧
      (110 < temp → first.testBit 14 = false → 0 ∈ t.hot) ∧
      (first.testBit 14 = true → temp ≤ 95 → 0 ∉ t.hot ∧ ∀ c < 16, InFlight t (.crewPlace c))) ∧
    (∃ t, exec (.thermalTrip die) s = .next t ∧ t.powered = false ∧ t.teams = [] ∧ t.dram = [] ∧ t.l2 = [] ∧ t.mgmt = State.reset.mgmt ∧
      t.leaf = s.leaf ∧ t.otp = s.otp)

/-- R34, R268, R269: reset starts every state anew but the fuses; a boot image passes that can be read, whose LMS key has an
accepted type and, for the first, the fused digest, and verifies its signature; each is measured before it runs, and the first that
fails leaves the device boot-failed with its reason (with two at once, which one is the model's choice, log entry 52). A write of
ATTGO then reports nothing, and otherwise writes the body and its signature, whose path leads from the leaf to the root of the one
identity key, and consumes a leaf. -/
def Sys2Proof.Claims.ResetBootsAndAttests : Prop :=
  ∀ (s : State) (xs : List BootStage) (x : BootStage) (v : BitVec 64),
    let cold := fun (t : State) => t.teams = [] ∧ t.crews = [] ∧ t.grids = [] ∧ t.dram = [] ∧ t.l2 = [] ∧ t.cores = [] ∧ t.clk = 0 ∧
      t.nextHandle = 1 ∧ t.powered = true ∧ t.leaf = s.leaf ∧ t.otp = s.otp
    let reason := fun (i : Nat) (y : BootStage) =>
      if y.bad then 4
      else if i = 0 ∧ sha256 y.key ≠ s.otp then 1
      else if (keyTypes y.key).1 ∉ [6, 7, 8, 9] ∨ (keyTypes y.key).2 ∉ [3, 4] then 3
      else if lmsVerifies y.key y.sig y.image = false then 2
      else 0
    ((∀ i y, (x :: xs)[i]? = some y → reason i y = 0) → ∃ t, exec (.reset x xs) s = .next t ∧ cold t ∧ t.bootFailed = false ∧
      t.mgmt = State.reset.mgmt ∧ ∀ i y, i < 7 → (x :: xs)[i]? = some y →
        SMap.get 0 t.meas i = sha256 (leBytes 32 0 ++ leBytes 32 (sha256 y.image).toNat)) ∧
    ((∀ i y, xs[i]? = some y → reason i y = 0) → reason xs.length x ≠ 0 → ∀ y ys zs, xs ++ x :: zs = y :: ys → ∃ t, exec (.reset y ys) s = .next t ∧
      cold t ∧ t.bootFailed = true ∧ t.reg 0x20 = BitVec.ofNat 64 (2 ^ 63 + 256 * reason xs.length x + xs.length % 256) ∧
      ∀ i < 8, xs.length ≤ i → SMap.get 0 t.meas i = 0) ∧
    (s.bootFailed = true → ∃ t, exec (.attgo v) s = .next t ∧ t = { s with mgmt := t.mgmt } ∧ OtherRegs s t 0x16028 ∧
      t.reg 0x16028 = s.reg 0x16028 ||| 4) ∧
    (s.bootFailed = false → v.getLsbD 63 = true →
      let dest := v.toNat / 2 ^ 11 % 2 ^ 46 * 2 ^ 11
      (32768 ≤ s.leaf → ∃ t, exec (.attgo v) s = .next t ∧ t = { s with mgmt := t.mgmt } ∧ t.reg 0x16028 = s.reg 0x16028 ||| 2) ∧
      (∀ s1, s.leaf < 32768 → (s.setReg 0x16020 (BitVec.ofNat 64 dest)).agentWrite 0 (canonOf dest) (s.reportBody ++ s.signReport) =
          .ok s1 →
        ∃ t, exec (.attgo v) s = .next t ∧ t = { s1 with leaf := s.leaf + 1, mgmt := t.mgmt } ∧
          t.reg 0x16028 = s1.reg 0x16028 ||| 1)) ∧
    (s.leaf < 2 ^ 32 → s.reportBody.length = 336 ∧ leNat (s.reportBody.take 8) = 1 + s.leaf * 2 ^ 32 ∧
      (∀ i < 4, leNat ((s.reportBody.drop (8 + 8 * i)).take 8) = (s.reg (0x16000 + 8 * i)).toNat) ∧
      (∀ i < 8, leNat ((s.reportBody.drop (0x28 + 32 * i)).take 32) = (SMap.get 0 s.meas i).toNat) ∧
      leNat ((s.reportBody.drop 0x128).take 32) =
        (sha256 ([0x200, 0x208, 0x100, 0x10].flatMap fun o => leBytes 8 (s.reg o).toNat)).toNat ∧
      leNat (s.reportBody.drop 0x148) = Config.serialNumber.toNat ∧
      s.signReport.length = 1612 ∧ leNat (s.signReport.take 4).reverse = s.leaf ∧
      leNat ((s.signReport.drop 4).take 4).reverse = 4 ∧ leNat ((s.signReport.drop 1128).take 4).reverse = 7 ∧
      let id := leBytes 16 Config.identityId.toNat
      let path := (List.range 15).map (lmsPath id Config.identitySecret s.leaf)
      s.signReport.drop 1132 = path.flatMap digestBytes ∧
      (s.leaf < 32768 → climb id path (2 ^ 15 + s.leaf) (lmsNode id Config.identitySecret 0 (2 ^ 15 + s.leaf)) = identityRoot))

/-! ### Where the words of control, order, gangs and the accumulator store complete -/

namespace Sys2Proof.Claims

/-- `i` completes: execution answers a next state in which the team stands at the next word with `i` charged, device memory and the
other teams as they were but for `k`, and `post` holds. -/
def Completes (s : State) (i : Instr) (post : State → Prop) : Prop :=
  ∃ t, exec i s = .next t ∧ t.me.pc = s.me.pc + 4 ∧ t.me.ibud = chargeTo s.me.ibud (issueCharge i s.me) ∧ t.dram = s.dram ∧
    t.me.vregs = s.me.vregs ∧ (∀ k ≠ s.cur, SMap.look t.teams k = SMap.look s.teams k) ∧ post t

/-- `i` completes in the handler that the team has installed, with cause word `cause` and detail `info`, to resume at the next
word. -/
def EntersHandler (s : State) (i : Instr) (cause info : Word) : Prop :=
  ∃ t, exec i s = .next t ∧ t.me.pc = s.me.trap.tvbase &&& 0xFFFFFFFC ∧ t.me.mode = 7 ∧ t.me.trap.tcause = cause ∧
    t.me.trap.tpc = s.me.pc ∧ t.me.trap.tnpc = s.me.pc + 4 ∧ t.me.trap.tinfo0 = info ∧ t.me.trap.tmode = s.me.mode ∧
    t.me.trap.inHandler = true ∧ t.me.ibud = chargeTo s.me.ibud (issueCharge i s.me) ∧ t.dram = s.dram

end Sys2Proof.Claims

/-- R309, R357, R399, R440, R441: PHASE, PUB, ACQ and EFENCE complete in every state in which they issue, TRAP and SYSCALL wherever
the team has a handler and its crew runs none, RETT in a handler with no other fault of its crew to deliver. -/
def Obligations.ControlAndOrderWordsComplete : Prop :=
  ∀ (s : State) (imm : BitVec 16) (a : Reg),
    let fence := fun (i : Instr) (post : OrderHold → Prop) => Issues i s → Completes s i fun t =>
      t.me.sregs = s.me.sregs ∧ ∃ h, t.me.holds = s.me.holds ++ [h] ∧ h.id = s.me.nextOut ∧ post h
    let handled := s.me.trap.tvbase.getLsbD 0 = true ∧ s.me.trap.inHandler = false ∧ s.myCrew.handler = none ∧
      SMap.look s.teams s.cur = some s.me ∧ (SMap.look s.crews s.me.crew).isSome = true
    let lanes := s.me.trap.restart &&& s.me.mask
    fence .phase (fun h => h.phase = true ∧ h.rel = true ∧ h.acq = true) ∧
    fence .pub (fun h => h.phase = false ∧ h.rel = true ∧ h.acq = false) ∧
    fence .acq (fun h => h.phase = false ∧ h.rel = false ∧ h.acq = true) ∧
    fence .efence (fun h => h.phase = false ∧ h.rel = false ∧ h.acq = false ∧ h.asyncs = true) ∧
    (Issues (.trap imm) s → handled → EntersHandler s (.trap imm) 0x00010004 (imm.setWidth 32)) ∧
    (Issues (.syscall a) s → handled → EntersHandler s (.syscall a) 0x00010005 (rdl s a 0)) ∧
    (Issues .rett s → (SMap.look s.teams s.cur).isSome = true → SMap.sortedFrom 0 s.teams = true → s.me.halted = false →
      s.me.heldStop = none → (∀ k ∈ s.teamsOfCrew s.me.crew, (SMap.get default s.teams k).pending = []) →
      ∃ t, exec .rett s = .next t ∧ t.me.mode = s.me.trap.tmode ∧ t.me.trap.inHandler = false ∧ t.dram = s.dram ∧
        t.me.vregs = s.me.vregs ∧ t.me.sregs = s.me.sregs ∧
        (if s.me.trap.tcause.getLsbD 17 = true ∧ lanes ≠ 0 then t.me.pc = s.me.trap.tpc ∧ t.me.reissue = some lanes
         else t.me.pc = s.me.trap.tnpc ∧ t.me.reissue = none))

/-- R380, R384 to R386, R391, R395: GANG completes for the member that arrives last; ACCALLOC, ACCWIN and ACCFREE, ACCRD, ACCWR and
ACCZERO, and SCLD complete for every operand within their limits; MMA and MDRAIN of a team in no gang where no limit of R390
and R395 is broken. -/
def Obligations.MatrixAndAccumulatorWordsComplete : Prop :=
  ∀ (s : State) (d a b : Reg) (f : BitVec 64) (key : ChainKey),
    let x := (rdl s a 0).toNat
    let y := (rdl s b 0).toNat
    let mask : BitVec 16 := (rdl s a 0).extractLsb' 0 16
    let elements := fun (i : Instr) => ∀ l ∈ s.me.actLanes i, (s.me.rd a l).toNat < s.me.accLim ∧ (s.me.rd b l).toNat < 256
    let hands := fun (t : State) (o : AccOp) => (t.coreAt s.myCore).jobs = (s.coreAt s.myCore).jobs ++ [o]
    (SMap.look s.crews s.me.crew).isSome = true →
    (Issues (.gang a) s → Listed s → s.me.wait = none → (∀ k ∈ s.teamsOfCrew s.me.crew, (SMap.get default s.teams k).reissue = none) →
      mask ≠ 0 → s.me.gang = 0 → mask.getLsbD s.me.idx = true → 2 ≤ countBits mask.toNat 16 → x < 65536 →
      x < 2 ^ s.myGrid.launch.crewTeams →
      (∀ j < 16, mask.getLsbD j = true → j ≠ s.me.idx → (mask, 16 * s.me.crew + j) ∈ s.myCrew.rendezvous) →
      ∃ t, exec (.gang a) s = .next t ∧ t.me.pc = s.me.pc + 4 ∧ t.me.gang = gangWord mask s.me.idx ∧ t.dram = s.dram) ∧
    (Issues (.accalloc d a) s → (∀ p ∈ s.myCrew.owner, p.2 ≠ s.me.idx + 1) → 1 ≤ x → x ≤ 512 → isVec d = false →
      Completes s (.accalloc d a) fun t =>
        (∀ r, rowsFree s.myCrew r x → (∀ q < r, ¬ rowsFree s.myCrew q x) → t.me.accBase = r ∧ t.me.accLim = x ∧
          hands t (.zero s.me.crew s.cur r x)) ∧
        ((∀ r, ¬ rowsFree s.myCrew r x) → d ≠ .s 63 → t.me.rd d 0 = 0xFFFFFFFF)) ∧
    (Issues (.accwin a b) s → x + y ≤ s.myCrew.accRows →
      Completes s (.accwin a b) fun t => t.me.accBase = x % 512 ∧ t.me.accLim = y ∧ t.me.sregs = s.me.sregs) ∧
    (Issues .accfree s → Completes s .accfree fun t => t.me.accBase = 0 ∧ t.me.accLim = 0 ∧
      ∀ p, p ∈ (t.crewAt s.me.crew).owner ↔ p ∈ s.myCrew.owner ∧ p.2 ≠ s.me.idx + 1) ∧
    (Issues (.accrd d a b) s → elements (.accrd d a b) → Completes s (.accrd d a b) fun t => t.me.sregs = s.me.sregs ∧
      (s.me.actLanes (.accrd d a b) ≠ [] → hands t (.read s.me.crew s.cur s.me.nextOut ((s.me.actLanes (.accrd d a b)).map fun l =>
        (l, s.me.accBase + (s.me.rd a l).toNat, (s.me.rd b l).toNat))))) ∧
    (Issues (.accwr d a b) s → elements (.accwr d a b) → Completes s (.accwr d a b) fun t => t.me.sregs = s.me.sregs ∧
      (s.me.actLanes (.accwr d a b) ≠ [] → hands t (.write s.me.crew s.cur ((s.me.actLanes (.accwr d a b)).map fun l =>
        (s.me.accBase + (s.me.rd a l).toNat, (s.me.rd b l).toNat, s.me.rd d l))))) ∧
    (Issues (.acczero a b) s → 1 ≤ y → x + y ≤ s.me.accLim → Completes s (.acczero a b) fun t => t.me.sregs = s.me.sregs ∧
      hands t (.zero s.me.crew s.cur (s.me.accBase + x) y)) ∧
    (Issues (.scld d a b) s → s.me.addr a 0 % 128 = 0 → y % 512 < s.me.accLim → y / 512 % 128 = 0 → y < 2 ^ 18 →
      y / 2 ^ 16 ≠ 3 → (∀ n ∈ scaleChunks (y / 2 ^ 16), s.laneFault (s.me.addr a 0 + n.2.1) n.2.2 false = none) →
      ∃ t o, exec (.scld d a b) s = .next t ∧ t.me.pc = s.me.pc + 4 ∧ t.dram = s.dram ∧ o.instr = .scld d a b ∧ o ∈ t.me.outs ∧
        hands t (.scale s.me.crew s.cur o.id (s.me.accBase + y % 512) (y / 2 ^ 16))) ∧
    (Issues (.mma d a b) s → s.gangOf s.me = none → s.me.fmtWords b ≠ [] → (∀ g ∈ s.me.fmtWords b, g = f) →
      s.matrixLimit [s.mmaCopy d a b] (some f) = none →
      ∃ t j, exec (.mma d a b) s = .next t ∧ t.me.pc = s.me.pc + 4 ∧ t.dram = s.dram ∧ j.fmt = f ∧ hands t (.mma j)) ∧
    (Issues (.mdrain d a) s → s.gangOf s.me = none → s.me.chain.openKey = none → s.me.chain.closed = some key →
      drainLimit s.me.chain (rdl s d 0).toNat s.me.accLim = none → Completes s (.mdrain d a) fun t =>
        hands t (.drain s.me.crew [s.cur] (rdl s d 0) (rdl s a 0) key s.me.accBase))

/-! ### The machine as a whole -/

/-- R275: when a team is chosen to issue, the word is the one its core holds at the team's PC; a word that decodes is executed
by its instruction's meaning, and one that does not traps with cause 0x01, the SUB of its refusal, and the word in TINFO0; then
the core asks for the next sequential line where this word was the last of its line (R33), and the team counts the issue if a halt
has reached it. -/
def Obligations.StepsRunTheDecodedWord : Prop :=
  ∀ (s : State) (k : Nat) (w : Word), s.begin.choose = some (.issue k w) →
    s.begin.wordAtPc (SMap.get default s.begin.teams k) = some (.ok w) ∧
    (s.begin.issuing k).cur = k ∧
    (∀ i, decode w = .ok i → step s = mapNext (fun u => u.ranWord k (some i) (s.begin.issuing k).me) (exec i (s.begin.issuing k))) ∧
    (∀ e, decode w = .error e →
      step s = .next (((s.begin.issuing k).trap (preciseTrap 0x01 e.sub w.toNat 0)).ranWord k none (s.begin.issuing k).me))

/-- R216, R148, R344: a team that is not resident, is halted, has an undelivered fault, or whose next instruction names a
register that an outstanding instruction has still to write, issues nothing. -/
def Sys2Proof.Claims.TeamsWaitForTheirOperands : Prop :=
  ∀ (s : State) (k : Nat) (t : Team),
    (t.place ≠ .resident ∨ t.halted = true ∨ t.pending ≠ [] ∨ s.coreRuns (s.crewOf t).core = false →
      s.readyWord k t = none) ∧
    (t.reissue = none → t.ibud ≤ 0 ∨ t.mbud ≤ 0 → s.readyWord k t = none) ∧
    (∀ w i r, ∀ o ∈ t.outs, s.wordAtPc t = some (.ok w) → decode w = .ok i → (∀ h f n, i ≠ .sink h f n) →
      (∀ d a b, i ≠ .mma d a b) → r ∈ o.regs → r ∈ regsRead i t ++ regsWritten i → s.readyWord k t = none)

/-- R275, R450: a word that breaks a rule at issue takes the undefined-instruction trap, for every instruction that has a word:
cause 0x01 with the SUB that the check answers, the word in TINFO0 and 0 in TINFO1; no part of the instruction executes and nothing
is charged. -/
def Obligations.RefusedWordsTrap : Prop :=
  ∀ (s : State) (i : Instr) (w : Word) (r : TrapRec), encode i = some w → decodeCheck i s.me = some r →
    r = preciseTrap 0x01 r.sub w.toNat 0 ∧ r.sub ≤ 10 ∧ exec i s = .next (s.trap r)

/-- R284 and the formats of R275 to R282: a few words, written from the encoding tables, decode to their instructions; an
opcode that the map does not assign is refused, and so is a nonzero bit of a field that must be zero. -/
def Obligations.WordsDecodeAsEncoded : Prop :=
  decode 0x23030405 = .ok (.add (.v 3) (.v 4) (.v 5)) ∧
  decode 0x21C18000 = .ok (.movi (.s 1) 0x8000) ∧
  decode 0x02FFFFFE = .ok (.br 0xFFFFFE) ∧
  decode 0x427100C1 = .ok (.cmp 3 2 1 (.v 0) (.s 1)) ∧
  decode 0x50BFC0FF = .ok (.fadd (.v 191) (.s 0) (.s 63)) ∧
  decode 0x60010265 = .ok (.cvt (.v 1) (.v 2) 6 5) ∧
  decode 0x7C0102C4 = .ok (.ld32 (.v 1) (.v 2) (.s 4)) ∧
  decode 0x00000001 = .error .mustBeZero ∧
  (∀ w : Word, decode w = .error .unassigned ↔
    (0x15 < w.toNat / 2 ^ 24 ∧ w.toNat / 2 ^ 24 < 0x20) ∨ (0x4A < w.toNat / 2 ^ 24 ∧ w.toNat / 2 ^ 24 < 0x50) ∨
    (0x64 < w.toNat / 2 ^ 24 ∧ w.toNat / 2 ^ 24 < 0x68) ∨ (0x74 < w.toNat / 2 ^ 24 ∧ w.toNat / 2 ^ 24 < 0x78) ∨
    (0x8E < w.toNat / 2 ^ 24 ∧ w.toNat / 2 ^ 24 < 0xA0) ∨ (0xAA < w.toNat / 2 ^ 24 ∧ w.toNat / 2 ^ 24 < 0xB0) ∨
    (0xCB < w.toNat / 2 ^ 24 ∧ w.toNat / 2 ^ 24 < 0xD0) ∨ (0xDB < w.toNat / 2 ^ 24 ∧ w.toNat / 2 ^ 24 < 0xE0) ∨
    (0xE9 < w.toNat / 2 ^ 24 ∧ w.toNat / 2 ^ 24 < 0xF0) ∨ 0xF3 < w.toNat / 2 ^ 24)

/-- Decode and encode agree, for every instruction that has a word and every word that decodes, with every operand at every
value its field admits (R275 to R284). -/
def Obligations.DecodeAndEncodeAgree : Prop :=
  (∀ (i : Instr) (w : Word), encode i = some w → decode w = .ok i) ∧
  (∀ (w : Word) (i : Instr), decode w = .ok i → encode i = some w)

/-- The device right after reset (R77, R78, R261, R263): no work anywhere, clk 0, the next handle 1, RETRYLIM 256, the
identification of R263 with the stepping of Config, every other management register 0; device memory in its canonical form and
the hard-wired registers as the rules say. That the management registers without a stated reset value are 0 is the model's
choice (log entry 5), as is the blank OTP digest, and so is what unlisted memory reads as (log entry 1). -/
def Obligations.ResetLeavesNoWork : Prop :=
  State.reset.teams = [] ∧ State.reset.crews = [] ∧ State.reset.grids = [] ∧ State.reset.insts = [] ∧ State.reset.agenda = [] ∧
  State.reset.inputs = [] ∧ State.reset.heq = [] ∧ State.reset.l2 = [] ∧ State.reset.tlb = [] ∧ State.reset.rct = [] ∧
  State.reset.cores = [] ∧ State.reset.clusters = [] ∧ State.reset.bars = [] ∧ State.reset.packets = [] ∧ State.reset.chans = [] ∧
  State.reset.launches = [] ∧ State.reset.singles = [] ∧ State.reset.searches = [] ∧ State.reset.frees = [] ∧
  State.reset.pinDrops = [] ∧ State.reset.fills = [] ∧ State.reset.writes = [] ∧ State.reset.waiters = [] ∧
  State.reset.ranges = [] ∧ State.reset.escs = [] ∧ State.reset.recordEnds = [] ∧ State.reset.kills = [] ∧
  State.reset.bridge = [] ∧ State.reset.halves = [] ∧ State.reset.inbound = [] ∧ State.reset.peerOut = [] ∧
  State.reset.stopped = [] ∧ State.reset.hot = [] ∧
  State.reset.clk = 0 ∧ State.reset.nextHandle = 1 ∧ State.reset.powered = true ∧ State.reset.bootFailed = false ∧
  State.reset.leaf = 0 ∧ State.reset.otp = 0 ∧ State.reset.reg 0x18 = 256 ∧
  State.reset.reg 0 = 0x07680200 ||| Config.stepping.zeroExtend 64 ∧
  (∀ o, o ≠ 0 → o ≠ 0x18 → State.reset.reg o = 0) ∧
  State.reset.memOk = true ∧ State.reset.hardWired = true ∧ ∀ a, Mem.byte State.reset.dram a = 0

/-- The spec gives every word and every event of the opcode table an effect: none ends in a fault or a refusal, and every step
goes on, from every state. -/
def Obligations.EveryStepGoesOn : Prop :=
  (∀ (i : Instr) (s : State), ∃ t, exec i s = .next t) ∧ ∀ s : State, GoesOn s

/-- Device memory and every crew's local memory keep their one canonical form through every step, from every state that has
it: equal contents stay equal data. The form is the model's (log entry 1). -/
def Obligations.EveryStepKeepsMemoryCanonical : Prop :=
  ∀ s t : State, s.memOk = true → step s = .next t → t.memOk = true

/-! ### The statements -/

/-- MOV, MOVI, MOVHI, ADD64, SUB64, MAD64 and LEA complete with the values of R311 and R318. -/
def Obligations.MovesAndPairs : Prop :=
  Claims.MovesGiveTheirSource ∧ Claims.PairArithmetic

/-- ADD, ADDI, SUB, MUL, MAD, MULHI, MULHU, MIN, MAX, MINU, MAXU, ABS and NEG complete with the results of R312 to R314 in
each format, with SAT or not. -/
def Obligations.IntegerArithmetic : Prop :=
  Claims.WordArithmeticWraps ∧ Claims.WordArithmeticSaturates ∧ Claims.PackedArithmeticPerElement ∧
  Claims.ExtremesAndHighProducts

/-- AND, OR, XOR, ANDN, NOT, POPC, CLZ, BREV, the shifts by any amount, BFX and BFI complete with the results of R315 to R317.
-/
def Obligations.LogicShiftsAndBitFields : Prop :=
  Claims.LogicAndBitCounts ∧ Claims.ShiftsByAnyAmount ∧ Claims.BitFieldsBitByBit

/-- CMP, CMPU, SEL, PAND, POR, PXOR, PNOT, PTOV and VTOP complete with the results of R319 to R321. -/
def Obligations.ComparesAndSelection : Prop :=
  Claims.ComparesIntoPredicates ∧ Claims.SelectionAndPredicates

/-- The functions on finite operands, NaNs and the special operands, FABS, FNEG, FCLASS, FMIN, FMAX and FCMP. -/
def Obligations.FloatSpecialsAndOrder : Prop :=
  Claims.FunctionsRoundTheirValues ∧ Claims.FloatSpecialOperands ∧ Claims.FloatSignsAndClasses ∧ Claims.FloatOrder ∧
  Claims.FloatComparesIntoPredicates

/-- CVT, PACK and UNPACK complete with their conversions; a float becomes the nearest integer. -/
def Obligations.ConversionsRoundOnce : Prop :=
  Claims.Conversions ∧ Claims.FloatToIntegerRoundsToNearest

/-- The shuffles, BCAST, RDFL, RDLANE, WRLANE, VOTE, RED and SCAN complete across the lanes. It rests on what the model chose
or read: log entry 106. -/
def Obligations.LaneMovesVotesAndReductions : Prop :=
  Claims.ShufflesReadTheirSourceLane ∧ Claims.SingleLaneMoves ∧ Claims.VoteCountsActiveLanes ∧ Claims.ReductionsAndPrefixes

/-- MOVSR and MOVRS complete with the special registers, latch CLOCKH, and trap where the register may not be named. -/
def Obligations.SpecialRegisters : Prop :=
  Claims.SpecialRegistersAreRead ∧ Claims.SpecialRegistersAreWritten ∧ Claims.SpecialRegisterTraps

/-- BR, BRI, CALL, CALLI and RET complete at their target when the guard holds and at the next word otherwise. -/
def Obligations.BranchesAndGuards : Prop :=
  Claims.ControlTransfers ∧ Claims.GuardOfTheScalarDatapath

/-- SPLIT, FLIP, JOIN, LBEGIN, LEND and LBRK complete with the masks and stack entries of their rules, and trap on an empty or
wrong stack. -/
def Obligations.MaskStackWords : Prop :=
  Claims.MaskStack ∧ Claims.MaskStackBreaksAndSpills

/-- NOP, SETMODE, CONT, IFENCE, SLEEP, EXIT, TRIGGER, YIELD and ICINV complete with their effect on the team. -/
def Obligations.TeamControl : Prop :=
  Claims.TeamControlWords ∧ Claims.ExitEndsTheTeam ∧ Claims.TriggerAndYield ∧ Claims.IcinvInvalidatesItsRange

/-- TRAP and SYSCALL complete by entering the handler with the saved registers; RETT restores them. -/
def Obligations.TrapsEnterAndReturn : Prop :=
  Claims.TrapEntersTheHandler ∧ Claims.RettReturns ∧ Claims.SyscallEntersTheHandler

/-- LD8 to LD128 complete: at once from L1, or as one request for each line of each pass. -/
def Obligations.LoadsHitOrTravel : Prop :=
  Claims.LoadsHitInL1 ∧ Claims.LoadsThatMissTravel

/-- ST4 to ST128, PREFETCH and DISCARD complete as requests to the home slices. -/
def Obligations.StoresAndHints : Prop :=
  Claims.StoresTravelHome ∧ Claims.PrefetchAndDiscard

/-- Misaligned accesses, non-canonical addresses and row operands outside their limits raise their traps. -/
def Obligations.AccessesThatTrap : Prop :=
  Claims.MisalignedAccessesTrap ∧ Claims.NonCanonicalAccessesFault ∧ Claims.RowLimitsTrap

/-- LDL32, LDL128, STL32 and STL128 complete on the crew's local memory and, with X = 1, on a partner's, and trap outside it.
-/
def Obligations.LocalAccesses : Prop :=
  Claims.LocalMemory ∧ Claims.LocalMemoryLimits

/-- The atomics and ROWLD, ROWST and ROWADD complete: as requests home, or at crew scope in L1. -/
def Obligations.AtomicsAndRows : Prop :=
  Claims.AtomicsTravelHome ∧ Claims.CrewAtomicsHitInL1 ∧ Claims.RowsTravelHome

/-- The home slice answers loads with its bytes and performs stores and row operations on exactly their bytes. -/
def Obligations.HomeSlicesPerform : Prop :=
  Claims.HomeAnswersReads ∧ Claims.HomePerformsStores ∧ Claims.HomePerformsRows

/-- Atomics at home leave the new word and answer the old one, lane by lane in ascending order. -/
def Obligations.HomeAtomics : Prop :=
  Claims.HomePerformsAtomics ∧ Claims.AtomicLanesInOrder

/-- LOCK, UNLOCK, WHOLD and WDROP complete, and the home slice grants, queues and hands over locks. -/
def Obligations.Locks : Prop :=
  Claims.LocksAtHome ∧ Claims.LockWords

/-- BAR, BARARR and BARWAIT complete, and the transaction-barrier operations do at home what their rules say. It rests on what
the model chose or read: log entry 112. -/
def Obligations.Barriers : Prop :=
  Claims.BarrierOperations ∧ Claims.BarrierEventsAtHome ∧ Claims.ExecutionBarriers

/-- Absent lines are translated and filled, and sharers acknowledge writes before their writers settle. -/
def Obligations.LinesTranslationsAndSharers : Prop :=
  Claims.AbsentLinesAreFilled ∧ Claims.TranslationsAnswer ∧ Claims.SharersAndSettlement

/-- Answers write their values and end the outstanding entry; grants, releases and changed words end stalls. -/
def Obligations.AnswersEndWaits : Prop :=
  Claims.AnswersReachTheTeam ∧ Claims.WaitsReturn

/-- PHASE, PUB, ACQ and EFENCE complete and order accesses; a team issues nothing while its operands are outstanding. -/
def Obligations.OrdersAndInterlocks : Prop :=
  Claims.FencesHoldLaterAccesses ∧ Claims.TeamsWaitForTheirOperands

/-- WREG, TBWAIT, TBINIT, TBEXP, TBARR and TBTEST complete with their request and their charge. -/
def Obligations.WaitAndTransactionWords : Prop :=
  Claims.WaitWords ∧ Claims.TransactionBarrierWords

/-- PIN, UNPIN, PINQ, RECLAIM, TOPUP, BGRANT, GIVEBACK and CLAIM complete with their effect on slots, pools and windows. -/
def Obligations.PinsPoolsAndBlocks : Prop :=
  Claims.PinsAndSearches ∧ Claims.PoolsAreRefilled ∧ Claims.RegisterBlocks

/-- LAUNCH, GWAIT and SPAWN complete with their record, wait and tasks, and trap at their limits. It rests on what the model
chose or read: log entries 68, 125. -/
def Obligations.LaunchesAndSpawns : Prop :=
  Claims.LaunchesAndGridWaits ∧ Claims.SpawnGathersTasks

/-- SINK completes: a group issues as one, its packets run at the data, and its results arrive with their site. -/
def Obligations.SinkGroups : Prop :=
  Claims.SinkGroupsIssue ∧ Claims.SinkPacketsRun ∧ Claims.SinkResultsArrive

/-- ACCALLOC, ACCWIN, ACCFREE, ACCRD, ACCWR, ACCZERO and the datapath's operations complete in order. -/
def Obligations.Accumulators : Prop :=
  Claims.AccumulatorWords ∧ Claims.AccumulatorOperations

/-- MMA, MDRAIN and SCLD complete, and the datapath adds each step's exact sum to its partial (limits under a vector format
word: log entries 76 and 77). It rests on what the model chose or read: log entries 76, 77. -/
def Obligations.MatrixProducts : Prop :=
  Claims.MatrixWords ∧ Claims.MmaRuns ∧ Claims.MmaFaultsAreDelivered ∧ Claims.ScaleLoads

/-- GANG completes: members wait for each other, and a matrix word of a gang is performed once. -/
def Obligations.Gangs : Prop :=
  Claims.GangsForm ∧ Claims.GangsIssueMatrixWordsOnce ∧ Claims.GangsDrainOnce ∧ Claims.DivergenceReachesEveryMember

/-- CPY, CPYS, CPYT, CPYR, RGATH, COLL, NMBLK, QSUB, BSEAL, BWAIT, BWAITY and NMCMD complete. -/
def Obligations.EngineWords : Prop :=
  Claims.EngineWordsHandOver ∧ Claims.QsubHandsOverItsPacket ∧ Claims.BatchWords ∧ Claims.NearMemoryCommandsAreSent

/-- Engine packets are accepted or refused, move their units, and end with their arrivals. It rests on what the model chose or
read: log entries 31, 36, 121. -/
def Obligations.PacketsRun : Prop :=
  Claims.PacketsAreAcceptedAndStart ∧ Claims.TransfersMoveTheirUnits ∧ Claims.PacketsEnd

/-- The near-memory engine performs its bank commands, BIND and RUN, and ends its submissions. -/
def Obligations.NearMemoryRuns : Prop :=
  Claims.BankCommands ∧ Claims.BindAndRun ∧ Claims.SubmissionsRunAndEnd

/-- CTR, EVSEL and PRIVW complete with the counter or register they name, and trap without the right to it. It rests on what
the model chose or read: log entry 40. -/
def Obligations.CounterAndPrivilegedWords : Prop :=
  Claims.CounterWords ∧ Claims.PrivilegedRegisterAccess

/-- Faults of outstanding instructions are delivered, halts stop siblings (a halted one keeps its record: log entry 15), and a
trap without a handler ends the crew. It rests on what the model chose or read: log entry 15. -/
def Obligations.FaultsHaltsAndTermination : Prop :=
  Claims.OutstandingFaultsAreDelivered ∧ Claims.HaltsReachTheSiblings ∧ Claims.TrapWithoutHandlerTerminatesTheCrew

/-- Strikes, budget yields, the end of a sleep, overdue teams, and saves and restores keep the program state. -/
def Obligations.StrikesAndSaves : Prop :=
  Claims.StrikesYieldsAndSleeps ∧ Claims.SavesAndRestores

/-- LAUNCH records and queue packets become grids or instances, or are refused with their REASON. It rests on what the model
chose or read: log entries 70, 111. -/
def Obligations.LaunchesAreAccepted : Prop :=
  Claims.LaunchedRecordsAreAccepted ∧ Claims.LaunchPacketsAreAccepted

/-- Graph nodes start in order, instances end with their DONEVAL, and grids retire when their work is over. It rests on what
the model chose or read: log entries 71, 73. -/
def Obligations.InstancesAndGridsEnd : Prop :=
  Claims.InstancesRunTheirNodes ∧ Claims.GridsRetire

/-- The head block of a cluster is placed where there is room, and returning crews are restored. It rests on what the model
chose or read: log entries 1, 129. -/
def Obligations.CrewsReachTheirCores : Prop :=
  Claims.CrewsArePlaced ∧ Claims.ReturningCrewsComeFirst

/-- Gathering windows close their groups, and clusters ask for, ship and take work. It rests on what the model chose or read:
log entry 126. -/
def Obligations.SchedulersShareWork : Prop :=
  Claims.GatheringWindowsClose ∧ Claims.WorkIsDonated

/-- Sage searches end with their answer, queue appends claim and write their slot, and rescans free what nothing pins. -/
def Obligations.SearchesAndQueues : Prop :=
  Claims.SearchesEnd ∧ Claims.QueuesAreAppendedTo ∧ Claims.DeferredNamesAreRescanned

/-- Each host reply closes its open escalation with its effect, and a reply to nothing does nothing. -/
def Obligations.HostRepliesAreTaken : Prop :=
  Claims.RepliesToNothingAreIgnored ∧ Claims.TranslationFaultReplies ∧ Claims.WaitReplies ∧ Claims.SchedulingReplies

/-- Answers, failures, snoops and accesses of the host are taken as the bridge's rules say. It rests on what the model chose
or read: log entries 47, 102. -/
def Obligations.HostTraffic : Prop :=
  Claims.HostAnswersAreTaken ∧ Claims.HostFailuresFault ∧ Claims.HostSnoopsAreAnswered ∧ Claims.HostAccessesArePerformed

/-- Ports going down and up, and memory and unit errors, have their effects. It rests on what the model chose or read: log
entries 39, 86, 117. -/
def Obligations.PortsAndErrors : Prop :=
  Claims.PeerPortsGoDownAndUp ∧ Claims.ErrorsPoisonOrStop

/-- Writes of management registers store what their register keeps and start their effect. It rests on what the model chose or
read: log entries 26, 41, 56. -/
def Obligations.ManagementRegistersAct : Prop :=
  Claims.ManagementWrites ∧ Claims.TranslationsAreInvalidated ∧ Claims.RemapFiltersAreLoaded ∧ Claims.PartitionsAreReassigned

/-- A killed context loses its work, an abort mark is cleared, and a fenced core gives up its crews. It rests on what the
model chose or read: log entries 54, 58. -/
def Obligations.KillsAndFences : Prop :=
  Claims.ContextsAreKilled ∧ Claims.CoresAreFenced

/-- Temperatures warn, stop and trip; reset boots, measures and attests. It rests on what the model chose or read: log entries
39, 42, 50, 51, 60, 107. -/
def Obligations.HeatAndReset : Prop :=
  Claims.HotDiesAreStopped ∧ Claims.ResetBootsAndAttests
end

