-- ==== Sys2Proof/Laws/Bytes.lean ====
section
/-!
SUPPORT. Lemmas of the byte lists: a number written as bytes and read again, lowest or highest byte first.
-/
namespace Sys2Proof.Laws

open Sys2Proof Sys2Proof.Machine

@[simp] theorem length_leBytes (k : Nat) : ∀ n, (leBytes k n).length = k := by
  induction k with
  | zero => intro n; rfl
  | succ k ih => intro n; simp [leBytes, ih]

@[simp] theorem length_beBytes (k n : Nat) : (beBytes k n).length = k := by simp [beBytes]

theorem leNat_leBytes (k : Nat) : ∀ n, leNat (leBytes k n) = n % 2 ^ (8 * k) := by
  induction k with
  | zero => intro n; simp [leBytes, leNat, Nat.mod_one]
  | succ k ih =>
    intro n
    simp only [leBytes, leNat, ih]
    rw [show 2 ^ (8 * (k + 1)) = 256 * 2 ^ (8 * k) by ring, Nat.mod_mul]
    simp

theorem beNat_beBytes (k n : Nat) : beNat (beBytes k n) = n % 2 ^ (8 * k) := by simp [beNat, beBytes, leNat_leBytes]

/-- The digest of 32 bytes that a digest gives is that digest. -/
theorem digestAt_digestBytes {l : List Byte} {o : Nat} {d : BitVec 256} (h : l.drop o = digestBytes d) : digestAt l o = d := by
  rw [digestAt, h, digestBytes, List.take_of_length_le (by rw [length_leBytes]), leNat_leBytes]
  exact BitVec.eq_of_toNat_eq (by simp [Nat.mod_eq_of_lt d.isLt])

end Sys2Proof.Laws
end

