-- ==== Sys2Proof/Laws/Exec.lean ====
section
/-!
SUPPORT. The meaning of each constructor, one law each, so that no proof unfolds the dispatch.
-/
namespace Sys2Proof.Machine

variable (s : State)

theorem exec_nop : exec .nop s = execNop s := rfl
theorem exec_setmode {imm} : exec (.setmode imm) s = execSetmode imm s := rfl
theorem exec_br {off} : exec (.br off) s = execBr off s := rfl
theorem exec_bri {a} : exec (.bri a) s = execBri a s := rfl
theorem exec_call {off} : exec (.call off) s = execCall off s := rfl
theorem exec_calli {a} : exec (.calli a) s = execCalli a s := rfl
theorem exec_ret : exec .ret s = execRet s := rfl
theorem exec_split {p} : exec (.split p) s = execSplit p s := rfl
theorem exec_flip : exec .flip s = execFlip s := rfl
theorem exec_join : exec .join s = execJoin s := rfl
theorem exec_lbegin : exec .lbegin s = execLbegin s := rfl
theorem exec_lbrk {p} : exec (.lbrk p) s = execLbrk p s := rfl
theorem exec_lend {off} : exec (.lend off) s = execLend off s := rfl
theorem exec_exit : exec .exit s = execExit s := rfl
theorem exec_trigger : exec .trigger s = execTrigger s := rfl
theorem exec_yield : exec .yield s = execYield s := rfl
theorem exec_cont {off} : exec (.cont off) s = execCont off s := rfl
theorem exec_ifence : exec .ifence s = execIfence s := rfl
theorem exec_icinv {d a} : exec (.icinv d a) s = execIcinv d a s := rfl
theorem exec_trap {imm} : exec (.trap imm) s = execTrap imm s := rfl
theorem exec_rett : exec .rett s = execRett s := rfl
theorem exec_sleep {a} : exec (.sleep a) s = execSleep a s := rfl
theorem exec_mov {d a} : exec (.mov d a) s = execMov d a s := rfl
theorem exec_movi {d imm} : exec (.movi d imm) s = execMovi d imm s := rfl
theorem exec_movhi {d imm} : exec (.movhi d imm) s = execMovhi d imm s := rfl
theorem exec_add {d a b} : exec (.add d a b) s = execAdd d a b s := rfl
theorem exec_addi {d imm} : exec (.addi d imm) s = execAddi d imm s := rfl
theorem exec_sub {d a b} : exec (.sub d a b) s = execSub d a b s := rfl
theorem exec_mul {d a b} : exec (.mul d a b) s = execMul d a b s := rfl
theorem exec_mulhi {d a b} : exec (.mulhi d a b) s = execMulhi d a b s := rfl
theorem exec_mulhu {d a b} : exec (.mulhu d a b) s = execMulhu d a b s := rfl
theorem exec_mad {d a b} : exec (.mad d a b) s = execMad d a b s := rfl
theorem exec_min {d a b} : exec (.min d a b) s = execMin d a b s := rfl
theorem exec_max {d a b} : exec (.max d a b) s = execMax d a b s := rfl
theorem exec_minu {d a b} : exec (.minu d a b) s = execMinu d a b s := rfl
theorem exec_maxu {d a b} : exec (.maxu d a b) s = execMaxu d a b s := rfl
theorem exec_abs {d a} : exec (.abs d a) s = execAbs d a s := rfl
theorem exec_neg {d a} : exec (.neg d a) s = execNeg d a s := rfl
theorem exec_and {d a b} : exec (.and d a b) s = execAnd d a b s := rfl
theorem exec_or {d a b} : exec (.or d a b) s = execOr d a b s := rfl
theorem exec_xor {d a b} : exec (.xor d a b) s = execXor d a b s := rfl
theorem exec_andn {d a b} : exec (.andn d a b) s = execAndn d a b s := rfl
theorem exec_not {d a} : exec (.not d a) s = execNot d a s := rfl
theorem exec_shl {d a b} : exec (.shl d a b) s = execShl d a b s := rfl
theorem exec_shr {d a b} : exec (.shr d a b) s = execShr d a b s := rfl
theorem exec_sar {d a b} : exec (.sar d a b) s = execSar d a b s := rfl
theorem exec_rol {d a b} : exec (.rol d a b) s = execRol d a b s := rfl
theorem exec_popc {d a} : exec (.popc d a) s = execPopc d a s := rfl
theorem exec_clz {d a} : exec (.clz d a) s = execClz d a s := rfl
theorem exec_brev {d a} : exec (.brev d a) s = execBrev d a s := rfl
theorem exec_bfx {d a b} : exec (.bfx d a b) s = execBfx d a b s := rfl
theorem exec_bfi {d a b} : exec (.bfi d a b) s = execBfi d a b s := rfl
theorem exec_add64 {d a b} : exec (.add64 d a b) s = execAdd64 d a b s := rfl
theorem exec_sub64 {d a b} : exec (.sub64 d a b) s = execSub64 d a b s := rfl
theorem exec_mad64 {d a b} : exec (.mad64 d a b) s = execMad64 d a b s := rfl
theorem exec_lea {d a b} : exec (.lea d a b) s = execLea d a b s := rfl
theorem exec_cmp {cond comb pd a b} : exec (.cmp cond comb pd a b) s = execCmp cond comb pd a b s := rfl
theorem exec_cmpu {cond comb pd a b} : exec (.cmpu cond comb pd a b) s = execCmpu cond comb pd a b s := rfl
theorem exec_sel {d a b} : exec (.sel d a b) s = execSel d a b s := rfl
theorem exec_pand {d a b} : exec (.pand d a b) s = execPand d a b s := rfl
theorem exec_por {d a b} : exec (.por d a b) s = execPor d a b s := rfl
theorem exec_pxor {d a b} : exec (.pxor d a b) s = execPxor d a b s := rfl
theorem exec_pnot {d a} : exec (.pnot d a) s = execPnot d a s := rfl
theorem exec_ptov {d p} : exec (.ptov d p) s = execPtov d p s := rfl
theorem exec_vtop {p a} : exec (.vtop p a) s = execVtop p a s := rfl
theorem exec_fadd {d a b} : exec (.fadd d a b) s = execFadd d a b s := rfl
theorem exec_fsub {d a b} : exec (.fsub d a b) s = execFsub d a b s := rfl
theorem exec_fmul {d a b} : exec (.fmul d a b) s = execFmul d a b s := rfl
theorem exec_ffma {d a b} : exec (.ffma d a b) s = execFfma d a b s := rfl
theorem exec_fmin {d a b} : exec (.fmin d a b) s = execFmin d a b s := rfl
theorem exec_fmax {d a b} : exec (.fmax d a b) s = execFmax d a b s := rfl
theorem exec_fabs {d a} : exec (.fabs d a) s = execFabs d a s := rfl
theorem exec_fneg {d a} : exec (.fneg d a) s = execFneg d a s := rfl
theorem exec_fcmp {cond comb pd a b} : exec (.fcmp cond comb pd a b) s = execFcmp cond comb pd a b s := rfl
theorem exec_frcp {d a} : exec (.frcp d a) s = execFrcp d a s := rfl
theorem exec_frsq {d a} : exec (.frsq d a) s = execFrsq d a s := rfl
theorem exec_fsqrt {d a} : exec (.fsqrt d a) s = execFsqrt d a s := rfl
theorem exec_fexp2 {d a} : exec (.fexp2 d a) s = execFexp2 d a s := rfl
theorem exec_flog2 {d a} : exec (.flog2 d a) s = execFlog2 d a s := rfl
theorem exec_ftanh {d a} : exec (.ftanh d a) s = execFtanh d a s := rfl
theorem exec_frnd {d a} : exec (.frnd d a) s = execFrnd d a s := rfl
theorem exec_cvt {d a tgt src} : exec (.cvt d a tgt src) s = execCvt d a tgt src s := rfl
theorem exec_pack {d a b} : exec (.pack d a b) s = execPack d a b s := rfl
theorem exec_unpackl {d a} : exec (.unpackl d a) s = execUnpackl d a s := rfl
theorem exec_unpackh {d a} : exec (.unpackh d a) s = execUnpackh d a s := rfl
theorem exec_fclass {d a} : exec (.fclass d a) s = execFclass d a s := rfl
theorem exec_shfl {d a b} : exec (.shfl d a b) s = execShfl d a b s := rfl
theorem exec_shflup {d a b} : exec (.shflup d a b) s = execShflup d a b s := rfl
theorem exec_shfldn {d a b} : exec (.shfldn d a b) s = execShfldn d a b s := rfl
theorem exec_shflx {d a b} : exec (.shflx d a b) s = execShflx d a b s := rfl
theorem exec_bcast {d a b} : exec (.bcast d a b) s = execBcast d a b s := rfl
theorem exec_rdfl {d a} : exec (.rdfl d a) s = execRdfl d a s := rfl
theorem exec_rdlane {d a b} : exec (.rdlane d a b) s = execRdlane d a b s := rfl
theorem exec_wrlane {d a b} : exec (.wrlane d a b) s = execWrlane d a b s := rfl
theorem exec_vote {d p pass op} : exec (.vote d p pass op) s = execVote d p pass op s := rfl
theorem exec_red {d a op} : exec (.red d a op) s = execRed d a op s := rfl
theorem exec_scan {d a excl op} : exec (.scan d a excl op) s = execScan d a excl op s := rfl
theorem exec_movsr {d sr} : exec (.movsr d sr) s = execMovsr d sr s := rfl
theorem exec_movrs {sr a} : exec (.movrs sr a) s = execMovrs sr a s := rfl
theorem exec_ld8 {d a b} : exec (.ld8 d a b) s = execLd8 d a b s := rfl
theorem exec_ld8s {d a b} : exec (.ld8s d a b) s = execLd8s d a b s := rfl
theorem exec_ld16 {d a b} : exec (.ld16 d a b) s = execLd16 d a b s := rfl
theorem exec_ld16s {d a b} : exec (.ld16s d a b) s = execLd16s d a b s := rfl
theorem exec_ld32 {d a b} : exec (.ld32 d a b) s = execLd32 d a b s := rfl
theorem exec_ld64 {d a b} : exec (.ld64 d a b) s = execLd64 d a b s := rfl
theorem exec_ld128 {d a b} : exec (.ld128 d a b) s = execLd128 d a b s := rfl
theorem exec_st4 {d a b} : exec (.st4 d a b) s = execSt4 d a b s := rfl
theorem exec_st8 {d a b} : exec (.st8 d a b) s = execSt8 d a b s := rfl
theorem exec_st16 {d a b} : exec (.st16 d a b) s = execSt16 d a b s := rfl
theorem exec_st32 {d a b} : exec (.st32 d a b) s = execSt32 d a b s := rfl
theorem exec_st64 {d a b} : exec (.st64 d a b) s = execSt64 d a b s := rfl
theorem exec_st128 {d a b} : exec (.st128 d a b) s = execSt128 d a b s := rfl
theorem exec_ldl32 {d a b} : exec (.ldl32 d a b) s = execLdl32 d a b s := rfl
theorem exec_ldl128 {d a b} : exec (.ldl128 d a b) s = execLdl128 d a b s := rfl
theorem exec_stl32 {d a b} : exec (.stl32 d a b) s = execStl32 d a b s := rfl
theorem exec_stl128 {d a b} : exec (.stl128 d a b) s = execStl128 d a b s := rfl
theorem exec_prefetch {lvl a b} : exec (.prefetch lvl a b) s = execPrefetch lvl a b s := rfl
theorem exec_discard {d a b} : exec (.discard d a b) s = execDiscard d a b s := rfl
theorem exec_sink {h flagA cntm1} : exec (.sink h flagA cntm1) s = execSink h flagA cntm1 s := rfl
theorem exec_rowld {d a b} : exec (.rowld d a b) s = execRowld d a b s := rfl
theorem exec_rowst {d a b} : exec (.rowst d a b) s = execRowst d a b s := rfl
theorem exec_rowadd {d a b} : exec (.rowadd d a b) s = execRowadd d a b s := rfl
theorem exec_aadd {d a b} : exec (.aadd d a b) s = execAadd d a b s := rfl
theorem exec_amin {d a b} : exec (.amin d a b) s = execAmin d a b s := rfl
theorem exec_amax {d a b} : exec (.amax d a b) s = execAmax d a b s := rfl
theorem exec_aminu {d a b} : exec (.aminu d a b) s = execAminu d a b s := rfl
theorem exec_amaxu {d a b} : exec (.amaxu d a b) s = execAmaxu d a b s := rfl
theorem exec_aand {d a b} : exec (.aand d a b) s = execAand d a b s := rfl
theorem exec_aor {d a b} : exec (.aor d a b) s = execAor d a b s := rfl
theorem exec_axor {d a b} : exec (.axor d a b) s = execAxor d a b s := rfl
theorem exec_axch {d a b} : exec (.axch d a b) s = execAxch d a b s := rfl
theorem exec_acas {d a b} : exec (.acas d a b) s = execAcas d a b s := rfl
theorem exec_afadd {d a b} : exec (.afadd d a b) s = execAfadd d a b s := rfl
theorem exec_phase : exec .phase s = execPhase s := rfl
theorem exec_pub : exec .pub s = execPub s := rfl
theorem exec_acq : exec .acq s = execAcq s := rfl
theorem exec_efence : exec .efence s = execEfence s := rfl
theorem exec_lock {a} : exec (.lock a) s = execLock a s := rfl
theorem exec_unlock {a} : exec (.unlock a) s = execUnlock a s := rfl
theorem exec_wreg {d a b} : exec (.wreg d a b) s = execWreg d a b s := rfl
theorem exec_whold {a} : exec (.whold a) s = execWhold a s := rfl
theorem exec_wdrop {a} : exec (.wdrop a) s = execWdrop a s := rfl
theorem exec_bar {lvl} : exec (.bar lvl) s = execBar lvl s := rfl
theorem exec_bararr {d lvl} : exec (.bararr d lvl) s = execBararr d lvl s := rfl
theorem exec_barwait {a lvl} : exec (.barwait a lvl) s = execBarwait a lvl s := rfl
theorem exec_tbinit {a b} : exec (.tbinit a b) s = execTbinit a b s := rfl
theorem exec_tbexp {a b} : exec (.tbexp a b) s = execTbexp a b s := rfl
theorem exec_tbarr {a b} : exec (.tbarr a b) s = execTbarr a b s := rfl
theorem exec_tbwait {a b} : exec (.tbwait a b) s = execTbwait a b s := rfl
theorem exec_tbtest {d a} : exec (.tbtest d a) s = execTbtest d a s := rfl
theorem exec_pin {n a} : exec (.pin n a) s = execPin n a s := rfl
theorem exec_unpin {n} : exec (.unpin n) s = execUnpin n s := rfl
theorem exec_reclaim {d a b} : exec (.reclaim d a b) s = execReclaim d a b s := rfl
theorem exec_pinq {d a} : exec (.pinq d a) s = execPinq d a s := rfl
theorem exec_topup {a b} : exec (.topup a b) s = execTopup a b s := rfl
theorem exec_bgrant {d a b} : exec (.bgrant d a b) s = execBgrant d a b s := rfl
theorem exec_spawn {a b} : exec (.spawn a b) s = execSpawn a b s := rfl
theorem exec_launch {d a b} : exec (.launch d a b) s = execLaunch d a b s := rfl
theorem exec_gwait {a} : exec (.gwait a) s = execGwait a s := rfl
theorem exec_giveback {n} : exec (.giveback n) s = execGiveback n s := rfl
theorem exec_claim {n} : exec (.claim n) s = execClaim n s := rfl
theorem exec_cpy {d a b} : exec (.cpy d a b) s = execCpy d a b s := rfl
theorem exec_cpys {d a b} : exec (.cpys d a b) s = execCpys d a b s := rfl
theorem exec_cpyt {d a b} : exec (.cpyt d a b) s = execCpyt d a b s := rfl
theorem exec_cpyr {d a b} : exec (.cpyr d a b) s = execCpyr d a b s := rfl
theorem exec_rgath {d a b} : exec (.rgath d a b) s = execRgath d a b s := rfl
theorem exec_qsub {a} : exec (.qsub a) s = execQsub a s := rfl
theorem exec_coll {d a b} : exec (.coll d a b) s = execColl d a b s := rfl
theorem exec_bseal {d} : exec (.bseal d) s = execBseal d s := rfl
theorem exec_bwait {n} : exec (.bwait n) s = execBwait n s := rfl
theorem exec_bwaity {n a} : exec (.bwaity n a) s = execBwaity n a s := rfl
theorem exec_nmcmd {a b} : exec (.nmcmd a b) s = execNmcmd a b s := rfl
theorem exec_nmblk {a b} : exec (.nmblk a b) s = execNmblk a b s := rfl
theorem exec_gang {a} : exec (.gang a) s = execGang a s := rfl
theorem exec_accalloc {d a} : exec (.accalloc d a) s = execAccalloc d a s := rfl
theorem exec_accwin {a b} : exec (.accwin a b) s = execAccwin a b s := rfl
theorem exec_accfree : exec .accfree s = execAccfree s := rfl
theorem exec_mma {d a b} : exec (.mma d a b) s = execMma d a b s := rfl
theorem exec_mdrain {d a} : exec (.mdrain d a) s = execMdrain d a s := rfl
theorem exec_accrd {d a b} : exec (.accrd d a b) s = execAccrd d a b s := rfl
theorem exec_accwr {d a b} : exec (.accwr d a b) s = execAccwr d a b s := rfl
theorem exec_acczero {a b} : exec (.acczero a b) s = execAcczero a b s := rfl
theorem exec_scld {d a b} : exec (.scld d a b) s = execScld d a b s := rfl
theorem exec_ctr {d a} : exec (.ctr d a) s = execCtr d a s := rfl
theorem exec_evsel {a b} : exec (.evsel a b) s = execEvsel a b s := rfl
theorem exec_syscall {a} : exec (.syscall a) s = execSyscall a s := rfl
theorem exec_privw {d a b} : exec (.privw d a b) s = execPrivw d a b s := rfl
theorem exec_acceptLaunchPacket {part} : exec (.acceptLaunchPacket part) s = execAcceptLaunchPacket part s := rfl
theorem exec_acceptLaunchRecord {part} : exec (.acceptLaunchRecord part) s = execAcceptLaunchRecord part s := rfl
theorem exec_singleInstanceAccept {part queue} :
    exec (.singleInstanceAccept part queue) s = execSingleInstanceAccept part queue s := rfl
theorem exec_nodeStart {inst node} : exec (.nodeStart inst node) s = execNodeStart inst node s := rfl
theorem exec_instanceComplete {inst} : exec (.instanceComplete inst) s = execInstanceComplete inst s := rfl
theorem exec_gridRetire {grid} : exec (.gridRetire grid) s = execGridRetire grid s := rfl
theorem exec_crewPlace {cluster} : exec (.crewPlace cluster) s = execCrewPlace cluster s := rfl
theorem exec_strike {teams} : exec (.strike teams) s = execStrike teams s := rfl
theorem exec_budgetYield {team} : exec (.budgetYield team) s = execBudgetYield team s := rfl
theorem exec_teamSave {team} : exec (.teamSave team) s = execTeamSave team s := rfl
theorem exec_crewRestore {crew core} : exec (.crewRestore crew core) s = execCrewRestore crew core s := rfl
theorem exec_selectionOverdue {team} : exec (.selectionOverdue team) s = execSelectionOverdue team s := rfl
theorem exec_sleepEnd {team} : exec (.sleepEnd team) s = execSleepEnd team s := rfl
theorem exec_claimGrant {core} : exec (.claimGrant core) s = execClaimGrant core s := rfl
theorem exec_bwaityReactivate {team} : exec (.bwaityReactivate team) s = execBwaityReactivate team s := rfl
theorem exec_gatherWindowExpire {cluster grid entry} :
    exec (.gatherWindowExpire cluster grid entry) s = execGatherWindowExpire cluster grid entry s := rfl
theorem exec_stealRequest {cluster} : exec (.stealRequest cluster) s = execStealRequest cluster s := rfl
theorem exec_stealRequestReceive {thief victim} :
    exec (.stealRequestReceive thief victim) s = execStealRequestReceive thief victim s := rfl
theorem exec_stealReply {thief work} : exec (.stealReply thief work) s = execStealReply thief work s := rfl
theorem exec_sageSearchDone {search} : exec (.sageSearchDone search) s = execSageSearchDone search s := rfl
theorem exec_freeQueueRetry {append} : exec (.freeQueueRetry append) s = execFreeQueueRetry append s := rfl
theorem exec_deferredRescan {bucket} : exec (.deferredRescan bucket) s = execDeferredRescan bucket s := rfl
theorem exec_pinSaveRetry {team} : exec (.pinSaveRetry team) s = execPinSaveRetry team s := rfl
theorem exec_loadReply {q vals fill unsettled bad} :
    exec (.loadReply q vals fill unsettled bad) s = execLoadReply q vals fill unsettled bad s := rfl
theorem exec_homeRequest {q} : exec (.homeRequest q) s = execHomeRequest q s := rfl
theorem exec_homeWrite {q} : exec (.homeWrite q) s = execHomeWrite q s := rfl
theorem exec_homeAtomic {q} : exec (.homeAtomic q) s = execHomeAtomic q s := rfl
theorem exec_rowAtHome {q} : exec (.rowAtHome q) s = execRowAtHome q s := rfl
theorem exec_homeFillComplete {q r} : exec (.homeFillComplete q r) s = execHomeFillComplete q r s := rfl
theorem exec_sharerUpdate {core wid ctx cells} :
    exec (.sharerUpdate core wid ctx cells) s = execSharerUpdate core wid ctx cells s := rfl
theorem exec_sharerInvalidate {core wid ctx va} :
    exec (.sharerInvalidate core wid ctx va) s = execSharerInvalidate core wid ctx va s := rfl
theorem exec_writerAck {q vals bad} : exec (.writerAck q vals bad) s = execWriterAck q vals bad s := rfl
theorem exec_settleNotice {core wid} : exec (.settleNotice core wid) s = execSettleNotice core wid s := rfl
theorem exec_translateRequest {q} : exec (.translateRequest q) s = execTranslateRequest q s := rfl
theorem exec_sinkPacketAtHome {q} : exec (.sinkPacketAtHome q) s = execSinkPacketAtHome q s := rfl
theorem exec_sinkPacketAtSite {q} : exec (.sinkPacketAtSite q) s = execSinkPacketAtSite q s := rfl
theorem exec_sinkResult {q site lanes bad} :
    exec (.sinkResult q site lanes bad) s = execSinkResult q site lanes bad s := rfl
theorem exec_partTrap {team t pc} : exec (.partTrap team t pc) s = execPartTrap team t pc s := rfl
theorem exec_haltArrive {team t skid} : exec (.haltArrive team t skid) s = execHaltArrive team t skid s := rfl
theorem exec_heqRetry : exec .heqRetry s = execHeqRetry s := rfl
theorem exec_droverAccept {engine} : exec (.droverAccept engine) s = execDroverAccept engine s := rfl
theorem exec_copy {pid} : exec (.copy pid) s = execCopy pid s := rfl
theorem exec_reduceTile {pid} : exec (.reduceTile pid) s = execReduceTile pid s := rfl
theorem exec_gatherRows {pid} : exec (.gatherRows pid) s = execGatherRows pid s := rfl
theorem exec_fill {pid} : exec (.fill pid) s = execFill pid s := rfl
theorem exec_discardPacket {pid} : exec (.discardPacket pid) s = execDiscardPacket pid s := rfl
theorem exec_collectiveStep {pid} : exec (.collectiveStep pid) s = execCollectiveStep pid s := rfl
theorem exec_nearmemBlock {pid} : exec (.nearmemBlock pid) s = execNearmemBlock pid s := rfl
theorem exec_prefetchL2 {pid} : exec (.prefetchL2 pid) s = execPrefetchL2 pid s := rfl
theorem exec_tbArrive {pid} : exec (.tbArrive pid) s = execTbArrive pid s := rfl
theorem exec_packetComplete {pid} : exec (.packetComplete pid) s = execPacketComplete pid s := rfl
theorem exec_inboundStep {r} : exec (.inboundStep r) s = execInboundStep r s := rfl
theorem exec_arrivalReport {pid} : exec (.arrivalReport pid) s = execArrivalReport pid s := rfl
theorem exec_refusalReport {pid accepted} :
    exec (.refusalReport pid accepted) s = execRefusalReport pid accepted s := rfl
theorem exec_abortMessage {group} : exec (.abortMessage group) s = execAbortMessage group s := rfl
theorem exec_tbInitOp {q} : exec (.tbInitOp q) s = execTbInitOp q s := rfl
theorem exec_tbExpectOp {q} : exec (.tbExpectOp q) s = execTbExpectOp q s := rfl
theorem exec_tbArriveOp {q} : exec (.tbArriveOp q) s = execTbArriveOp q s := rfl
theorem exec_tbWaitOp {q} : exec (.tbWaitOp q) s = execTbWaitOp q s := rfl
theorem exec_tbTestOp {q} : exec (.tbTestOp q) s = execTbTestOp q s := rfl
theorem exec_tbAbortOp {q} : exec (.tbAbortOp q) s = execTbAbortOp q s := rfl
theorem exec_lockAtHome {q} : exec (.lockAtHome q) s = execLockAtHome q s := rfl
theorem exec_unlockAtHome {q} : exec (.unlockAtHome q) s = execUnlockAtHome q s := rfl
theorem exec_mmaFinish {core} : exec (.mmaFinish core) s = execMmaFinish core s := rfl
theorem exec_submissionTake {engine} : exec (.submissionTake engine) s = execSubmissionTake engine s := rfl
theorem exec_nmcmdAccept {team} : exec (.nmcmdAccept team) s = execNmcmdAccept team s := rfl
theorem exec_nmBind {engine} : exec (.nmBind engine) s = execNmBind engine s := rfl
theorem exec_nmRun {engine} : exec (.nmRun engine) s = execNmRun engine s := rfl
theorem exec_nmScadd {engine} : exec (.nmScadd engine) s = execNmScadd engine s := rfl
theorem exec_nmAccz {engine} : exec (.nmAccz engine) s = execNmAccz engine s := rfl
theorem exec_nmAccst {engine} : exec (.nmAccst engine) s = execNmAccst engine s := rfl
theorem exec_nmFence {engine} : exec (.nmFence engine) s = execNmFence engine s := rfl
theorem exec_nmEnd {engine} : exec (.nmEnd engine) s = execNmEnd engine s := rfl
theorem exec_arbitrationWindow {engine} : exec (.arbitrationWindow engine) s = execArbitrationWindow engine s := rfl
theorem exec_engineResume {engine} : exec (.engineResume engine) s = execEngineResume engine s := rfl
theorem exec_hostAccess {r} : exec (.hostAccess r) s = execHostAccess r s := rfl
theorem exec_hostCompletionTimeout {id} : exec (.hostCompletionTimeout id) s = execHostCompletionTimeout id s := rfl
theorem exec_linkDown : exec .linkDown s = execLinkDown s := rfl
theorem exec_peerPortDown {port} : exec (.peerPortDown port) s = execPeerPortDown port s := rfl
theorem exec_correctableError {controller} :
    exec (.correctableError controller) s = execCorrectableError controller s := rfl
theorem exec_uncorrectableError {place key} :
    exec (.uncorrectableError place key) s = execUncorrectableError place key s := rfl
theorem exec_coreFence {core poisoned} : exec (.coreFence core poisoned) s = execCoreFence core poisoned s := rfl
theorem exec_unitSramError {die kind unit} :
    exec (.unitSramError die kind unit) s = execUnitSramError die kind unit s := rfl
theorem exec_thermalSample {temps} : exec (.thermalSample temps) s = execThermalSample temps s := rfl
theorem exec_thermalTrip {die} : exec (.thermalTrip die) s = execThermalTrip die s := rfl
theorem exec_reset {first later} : exec (.reset first later) s = execReset first later s := rfl
theorem exec_tlbinv {value} : exec (.tlbinv value) s = execTlbinv value s := rfl
theorem exec_remapRead {value} : exec (.remapRead value) s = execRemapRead value s := rfl
theorem exec_remapWrite {value} : exec (.remapWrite value) s = execRemapWrite value s := rfl
theorem exec_remapWriteAll {value} : exec (.remapWriteAll value) s = execRemapWriteAll value s := rfl
theorem exec_attgo {value} : exec (.attgo value) s = execAttgo value s := rfl
theorem exec_pfrespRetry {tag} : exec (.pfrespRetry tag) s = execPfrespRetry tag s := rfl
theorem exec_pfrespFail {tag} : exec (.pfrespFail tag) s = execPfrespFail tag s := rfl
theorem exec_pfrespTerminate {tag} : exec (.pfrespTerminate tag) s = execPfrespTerminate tag s := rfl
theorem exec_deadlkReexecute {tag} : exec (.deadlkReexecute tag) s = execDeadlkReexecute tag s := rfl
theorem exec_deadlkDeliver {tag} : exec (.deadlkDeliver tag) s = execDeadlkDeliver tag s := rfl
theorem exec_deadlkTerminate {tag} : exec (.deadlkTerminate tag) s = execDeadlkTerminate tag s := rfl
theorem exec_deadlkAdmit {tag} : exec (.deadlkAdmit tag) s = execDeadlkAdmit tag s := rfl
theorem exec_wftovfAdmitUntracked {tag} : exec (.wftovfAdmitUntracked tag) s = execWftovfAdmitUntracked tag s := rfl
theorem exec_wftovfRetry {tag} : exec (.wftovfRetry tag) s = execWftovfRetry tag s := rfl
theorem exec_wftovfTerminate {tag} : exec (.wftovfTerminate tag) s = execWftovfTerminate tag s := rfl
theorem exec_pptRetry {tag} : exec (.pptRetry tag) s = execPptRetry tag s := rfl
theorem exec_pptTerminate {tag} : exec (.pptTerminate tag) s = execPptTerminate tag s := rfl
theorem exec_topupRefill {tag} : exec (.topupRefill tag) s = execTopupRefill tag s := rfl
theorem exec_topupLeaveParked {tag} : exec (.topupLeaveParked tag) s = execTopupLeaveParked tag s := rfl
theorem exec_topupTerminate {tag} : exec (.topupTerminate tag) s = execTopupTerminate tag s := rfl
theorem exec_fencePlace {tag} : exec (.fencePlace tag) s = execFencePlace tag s := rfl
theorem exec_fenceTerminate {tag} : exec (.fenceTerminate tag) s = execFenceTerminate tag s := rfl
theorem exec_collabtSendAbort {tag} : exec (.collabtSendAbort tag) s = execCollabtSendAbort tag s := rfl
theorem exec_collabtSendNothing {tag} : exec (.collabtSendNothing tag) s = execCollabtSendNothing tag s := rfl
theorem exec_ctxkill {value} : exec (.ctxkill value) s = execCtxkill value s := rfl
theorem exec_abtclr {value} : exec (.abtclr value) s = execAbtclr value s := rfl
theorem exec_counterValueWrite {off value} :
    exec (.counterValueWrite off value) s = execCounterValueWrite off value s := rfl
theorem exec_partmapWrite {index value} : exec (.partmapWrite index value) s = execPartmapWrite index value s := rfl
theorem exec_managementWrite {off value} :
    exec (.managementWrite off value) s = execManagementWrite off value s := rfl
theorem exec_hostLinkUp : exec .hostLinkUp s = execHostLinkUp s := rfl
theorem exec_peerPortUp {port} : exec (.peerPortUp port) s = execPeerPortUp port s := rfl
theorem exec_hostSnoop {half exclusive} : exec (.hostSnoop half exclusive) s = execHostSnoop half exclusive s := rfl
theorem exec_hostCompletion {id status bytes} :
    exec (.hostCompletion id status bytes) s = execHostCompletion id status bytes s := rfl
theorem exec_inboundWrite {r} : exec (.inboundWrite r) s = execInboundWrite r s := rfl
theorem exec_accumulatorOpDone {core} : exec (.accumulatorOpDone core) s = execAccumulatorOpDone core s := rfl
theorem exec_sharerAck {core wid ctx va used evict} :
    exec (.sharerAck core wid ctx va used evict) s = execSharerAck core wid ctx va used evict s := rfl
theorem exec_waitReturn {team out r} : exec (.waitReturn team out r) s = execWaitReturn team out r s := rfl

end Sys2Proof.Machine
end

