-- ==== Sys2Proof/Laws/Map.lean ====
section
/-!
SUPPORT. Laws of finite maps: reading after writing, writing twice, and the canonical form, which every operation keeps.
-/
namespace Sys2Proof.Machine

variable {α : Type}

/-- What was written is read. -/
@[simp] theorem SMap.look_put_same (m : List (Nat × α)) (x : Nat) (y : α) : SMap.look (SMap.put m x y) x = some y := by
  induction m with
  | nil => simp [SMap.put, SMap.look]
  | cons p r ih =>
    obtain ⟨k, v⟩ := p
    simp only [SMap.put]
    split
    · simp [SMap.look]
    · split
      · simp [SMap.look]
      · rename_i h _
        simp [SMap.look, h, ih]

/-- A write leaves every other key alone. -/
theorem SMap.look_put_other (m : List (Nat × α)) (x z : Nat) (y : α) (h : z ≠ x) :
    SMap.look (SMap.put m x y) z = SMap.look m z := by
  induction m with
  | nil => simp [SMap.put, SMap.look, h]
  | cons p r ih =>
    obtain ⟨k, v⟩ := p
    simp only [SMap.put]
    split
    · subst_vars; simp [SMap.look, h]
    · split
      · simp [SMap.look, h]
      · simp only [SMap.look, ih]

/-- A dropped key holds nothing. -/
@[simp] theorem SMap.look_drop_same (m : List (Nat × α)) (x : Nat) : SMap.look (SMap.drop m x) x = none := by
  induction m with
  | nil => rfl
  | cons p r ih =>
    obtain ⟨k, v⟩ := p
    simp only [SMap.drop]
    split
    · exact ih
    · rename_i h; simp [SMap.look, h, ih]

/-- A drop leaves every other key alone. -/
theorem SMap.look_drop_other (m : List (Nat × α)) (x z : Nat) (h : z ≠ x) :
    SMap.look (SMap.drop m x) z = SMap.look m z := by
  induction m with
  | nil => rfl
  | cons p r ih =>
    obtain ⟨k, v⟩ := p
    simp only [SMap.drop]
    split
    · subst_vars; simp [SMap.look, h, ih]
    · simp only [SMap.look, ih]

/-- Writing a key twice is writing it once. -/
@[simp] theorem SMap.put_put (m : List (Nat × α)) (x : Nat) (y z : α) :
    SMap.put (SMap.put m x y) x z = SMap.put m x z := by
  induction m with
  | nil => simp [SMap.put]
  | cons p r ih =>
    obtain ⟨k, v⟩ := p
    simp only [SMap.put]
    split
    · simp [SMap.put]
    · split
      · simp [SMap.put]
      · rename_i h₁ h₂; simp [SMap.put, h₁, h₂, ih]

@[simp] theorem SMap.get_put_same (d : α) (m : List (Nat × α)) (x : Nat) (y : α) : SMap.get d (SMap.put m x y) x = y := by
  simp [SMap.get]

theorem SMap.get_put_other (d : α) (m : List (Nat × α)) (x z : Nat) (y : α) (h : z ≠ x) :
    SMap.get d (SMap.put m x y) z = SMap.get d m z := by
  simp [SMap.get, SMap.look_put_other m x z y h]

/-- The value read after a write to a map with a default. -/
@[simp] theorem SMap.get_set_same [DecidableEq α] (d : α) (m : List (Nat × α)) (x : Nat) (y : α) :
    SMap.get d (SMap.set d m x y) x = y := by
  unfold SMap.set
  split
  · simp [SMap.get, *]
  · simp

theorem SMap.get_set_other [DecidableEq α] (d : α) (m : List (Nat × α)) (x z : Nat) (y : α) (h : z ≠ x) :
    SMap.get d (SMap.set d m x y) z = SMap.get d m z := by
  unfold SMap.set
  split
  · simp [SMap.get, SMap.look_drop_other m x z h]
  · exact SMap.get_put_other d m x z y h

/-! ### The canonical form -/

theorem SMap.sortedFrom_mono (m : List (Nat × α)) : ∀ {a b : Nat}, b ≤ a → SMap.sortedFrom a m = true →
    SMap.sortedFrom b m = true := by
  cases m with
  | nil => intros; rfl
  | cons p r =>
    intro a b hab h
    simp only [SMap.sortedFrom, Bool.and_eq_true, decide_eq_true_eq] at *
    exact ⟨Nat.le_trans hab h.1, h.2⟩

theorem SMap.sortedFrom_put (m : List (Nat × α)) (x : Nat) (y : α) : ∀ {a : Nat}, a ≤ x → SMap.sortedFrom a m = true →
    SMap.sortedFrom a (SMap.put m x y) = true := by
  induction m with
  | nil => intro a hax _; simpa [SMap.put, SMap.sortedFrom] using hax
  | cons p r ih =>
    obtain ⟨k, v⟩ := p
    intro a hax h
    simp only [SMap.sortedFrom, Bool.and_eq_true, decide_eq_true_eq] at h
    simp only [SMap.put]
    split
    · subst_vars; simpa [SMap.sortedFrom] using h
    · split
      · rename_i hlt
        simp only [SMap.sortedFrom, Bool.and_eq_true, decide_eq_true_eq]
        exact ⟨hax, hlt, h.2⟩
      · simp only [SMap.sortedFrom, Bool.and_eq_true, decide_eq_true_eq]
        exact ⟨h.1, ih (by omega) h.2⟩

theorem SMap.sortedFrom_drop (m : List (Nat × α)) (x : Nat) : ∀ {a : Nat}, SMap.sortedFrom a m = true →
    SMap.sortedFrom a (SMap.drop m x) = true := by
  induction m with
  | nil => intro a _; rfl
  | cons p r ih =>
    obtain ⟨k, v⟩ := p
    intro a h
    simp only [SMap.sortedFrom, Bool.and_eq_true, decide_eq_true_eq] at h
    simp only [SMap.drop]
    split
    · exact SMap.sortedFrom_mono _ (by omega) (ih h.2)
    · simp only [SMap.sortedFrom, Bool.and_eq_true, decide_eq_true_eq]
      exact ⟨h.1, ih h.2⟩

theorem SMap.mem_put {m : List (Nat × α)} {x : Nat} {y : α} {p : Nat × α} (h : p ∈ SMap.put m x y) :
    p = (x, y) ∨ p ∈ m := by
  induction m with
  | nil => simp [SMap.put] at h; exact .inl h
  | cons q r ih =>
    obtain ⟨k, v⟩ := q
    simp only [SMap.put] at h
    split at h
    · simp only [List.mem_cons] at *; tauto
    · split at h
      · simp only [List.mem_cons] at *; tauto
      · simp only [List.mem_cons] at *; tauto

theorem SMap.mem_drop {m : List (Nat × α)} {x : Nat} {p : Nat × α} (h : p ∈ SMap.drop m x) : p ∈ m := by
  induction m with
  | nil => exact h
  | cons q r ih =>
    obtain ⟨k, v⟩ := q
    simp only [SMap.drop] at h
    split at h
    · exact List.mem_cons_of_mem _ (ih h)
    · simp only [List.mem_cons] at *; tauto

/-- EVERY WRITE KEEPS THE CANONICAL FORM. -/
theorem SMap.wf_set [DecidableEq α] (d : α) (m : List (Nat × α)) (x : Nat) (y : α) (h : SMap.wf d m = true) :
    SMap.wf d (SMap.set d m x y) = true := by
  simp only [SMap.wf, Bool.and_eq_true, List.all_eq_true, decide_eq_true_eq] at *
  unfold SMap.set
  split
  · exact ⟨SMap.sortedFrom_drop m x h.1, fun p hp => h.2 p (SMap.mem_drop hp)⟩
  · rename_i hy
    refine ⟨SMap.sortedFrom_put m x y (Nat.zero_le _) h.1, fun p hp => ?_⟩
    rcases SMap.mem_put hp with rfl | hp
    · exact hy
    · exact h.2 p hp

end Sys2Proof.Machine
end

