-- ==== Sys2Proof/Laws/State.lean ====
section
/-!
SUPPORT. One law for each field of the state and each named update of it, and of a team: what the update leaves alone, and
what it writes. No later proof unfolds a record update.
-/
namespace Sys2Proof.Machine

/-! ### Updates of the state -/

@[simp] theorem State.setTeam_tick (s : State) (k : Nat) (t : Team) : (s.setTeam k t).tick = s.tick := rfl
@[simp] theorem State.setTeam_clk (s : State) (k : Nat) (t : Team) : (s.setTeam k t).clk = s.clk := rfl
@[simp] theorem State.setTeam_powered (s : State) (k : Nat) (t : Team) : (s.setTeam k t).powered = s.powered := rfl
@[simp] theorem State.setTeam_bootFailed (s : State) (k : Nat) (t : Team) : (s.setTeam k t).bootFailed = s.bootFailed := rfl
@[simp] theorem State.setTeam_nextHandle (s : State) (k : Nat) (t : Team) : (s.setTeam k t).nextHandle = s.nextHandle := rfl
@[simp] theorem State.setTeam_nextId (s : State) (k : Nat) (t : Team) : (s.setTeam k t).nextId = s.nextId := rfl
@[simp] theorem State.setTeam_cur (s : State) (k : Nat) (t : Team) : (s.setTeam k t).cur = s.cur := rfl
@[simp] theorem State.setTeam_crews (s : State) (k : Nat) (t : Team) : (s.setTeam k t).crews = s.crews := rfl
@[simp] theorem State.setTeam_grids (s : State) (k : Nat) (t : Team) : (s.setTeam k t).grids = s.grids := rfl
@[simp] theorem State.setTeam_insts (s : State) (k : Nat) (t : Team) : (s.setTeam k t).insts = s.insts := rfl
@[simp] theorem State.setTeam_bars (s : State) (k : Nat) (t : Team) : (s.setTeam k t).bars = s.bars := rfl
@[simp] theorem State.setTeam_clusters (s : State) (k : Nat) (t : Team) : (s.setTeam k t).clusters = s.clusters := rfl
@[simp] theorem State.setTeam_cores (s : State) (k : Nat) (t : Team) : (s.setTeam k t).cores = s.cores := rfl
@[simp] theorem State.setTeam_dram (s : State) (k : Nat) (t : Team) : (s.setTeam k t).dram = s.dram := rfl
@[simp] theorem State.setTeam_poison (s : State) (k : Nat) (t : Team) : (s.setTeam k t).poison = s.poison := rfl
@[simp] theorem State.setTeam_l2 (s : State) (k : Nat) (t : Team) : (s.setTeam k t).l2 = s.l2 := rfl
@[simp] theorem State.setTeam_writes (s : State) (k : Nat) (t : Team) : (s.setTeam k t).writes = s.writes := rfl
@[simp] theorem State.setTeam_fills (s : State) (k : Nat) (t : Team) : (s.setTeam k t).fills = s.fills := rfl
@[simp] theorem State.setTeam_waiters (s : State) (k : Nat) (t : Team) : (s.setTeam k t).waiters = s.waiters := rfl
@[simp] theorem State.setTeam_ranges (s : State) (k : Nat) (t : Team) : (s.setTeam k t).ranges = s.ranges := rfl
@[simp] theorem State.setTeam_tlb (s : State) (k : Nat) (t : Team) : (s.setTeam k t).tlb = s.tlb := rfl
@[simp] theorem State.setTeam_rct (s : State) (k : Nat) (t : Team) : (s.setTeam k t).rct = s.rct := rfl
@[simp] theorem State.setTeam_mgmt (s : State) (k : Nat) (t : Team) : (s.setTeam k t).mgmt = s.mgmt := rfl
@[simp] theorem State.setTeam_meas (s : State) (k : Nat) (t : Team) : (s.setTeam k t).meas = s.meas := rfl
@[simp] theorem State.setTeam_leaf (s : State) (k : Nat) (t : Team) : (s.setTeam k t).leaf = s.leaf := rfl
@[simp] theorem State.setTeam_otp (s : State) (k : Nat) (t : Team) : (s.setTeam k t).otp = s.otp := rfl
@[simp] theorem State.setTeam_launches (s : State) (k : Nat) (t : Team) : (s.setTeam k t).launches = s.launches := rfl
@[simp] theorem State.setTeam_badQueues (s : State) (k : Nat) (t : Team) : (s.setTeam k t).badQueues = s.badQueues := rfl
@[simp] theorem State.setTeam_singles (s : State) (k : Nat) (t : Team) : (s.setTeam k t).singles = s.singles := rfl
@[simp] theorem State.setTeam_lastQueue (s : State) (k : Nat) (t : Team) : (s.setTeam k t).lastQueue = s.lastQueue := rfl
@[simp] theorem State.setTeam_packets (s : State) (k : Nat) (t : Team) : (s.setTeam k t).packets = s.packets := rfl
@[simp] theorem State.setTeam_droverTurn (s : State) (k : Nat) (t : Team) : (s.setTeam k t).droverTurn = s.droverTurn := rfl
@[simp] theorem State.setTeam_chans (s : State) (k : Nat) (t : Team) : (s.setTeam k t).chans = s.chans := rfl
@[simp] theorem State.setTeam_searches (s : State) (k : Nat) (t : Team) : (s.setTeam k t).searches = s.searches := rfl
@[simp] theorem State.setTeam_pinDrops (s : State) (k : Nat) (t : Team) : (s.setTeam k t).pinDrops = s.pinDrops := rfl
@[simp] theorem State.setTeam_filter (s : State) (k : Nat) (t : Team) : (s.setTeam k t).filter = s.filter := rfl
@[simp] theorem State.setTeam_frees (s : State) (k : Nat) (t : Team) : (s.setTeam k t).frees = s.frees := rfl
@[simp] theorem State.setTeam_heq (s : State) (k : Nat) (t : Team) : (s.setTeam k t).heq = s.heq := rfl
@[simp] theorem State.setTeam_heqSlot (s : State) (k : Nat) (t : Team) : (s.setTeam k t).heqSlot = s.heqSlot := rfl
@[simp] theorem State.setTeam_recordEnds (s : State) (k : Nat) (t : Team) : (s.setTeam k t).recordEnds = s.recordEnds := rfl
@[simp] theorem State.setTeam_kills (s : State) (k : Nat) (t : Team) : (s.setTeam k t).kills = s.kills := rfl
@[simp] theorem State.setTeam_escs (s : State) (k : Nat) (t : Team) : (s.setTeam k t).escs = s.escs := rfl
@[simp] theorem State.setTeam_nextTag (s : State) (k : Nat) (t : Team) : (s.setTeam k t).nextTag = s.nextTag := rfl
@[simp] theorem State.setTeam_linkUp (s : State) (k : Nat) (t : Team) : (s.setTeam k t).linkUp = s.linkUp := rfl
@[simp] theorem State.setTeam_bridge (s : State) (k : Nat) (t : Team) : (s.setTeam k t).bridge = s.bridge := rfl
@[simp] theorem State.setTeam_halves (s : State) (k : Nat) (t : Team) : (s.setTeam k t).halves = s.halves := rfl
@[simp] theorem State.setTeam_hostLines (s : State) (k : Nat) (t : Team) : (s.setTeam k t).hostLines = s.hostLines := rfl
@[simp] theorem State.setTeam_hostOut (s : State) (k : Nat) (t : Team) : (s.setTeam k t).hostOut = s.hostOut := rfl
@[simp] theorem State.setTeam_peerOut (s : State) (k : Nat) (t : Team) : (s.setTeam k t).peerOut = s.peerOut := rfl
@[simp] theorem State.setTeam_inbound (s : State) (k : Nat) (t : Team) : (s.setTeam k t).inbound = s.inbound := rfl
@[simp] theorem State.setTeam_inboundBytes (s : State) (k : Nat) (t : Team) : (s.setTeam k t).inboundBytes = s.inboundBytes := rfl
@[simp] theorem State.setTeam_inboundRefused (s : State) (k : Nat) (t : Team) : (s.setTeam k t).inboundRefused = s.inboundRefused := rfl
@[simp] theorem State.setTeam_portsDown (s : State) (k : Nat) (t : Team) : (s.setTeam k t).portsDown = s.portsDown := rfl
@[simp] theorem State.setTeam_aborts (s : State) (k : Nat) (t : Team) : (s.setTeam k t).aborts = s.aborts := rfl
@[simp] theorem State.setTeam_stopped (s : State) (k : Nat) (t : Team) : (s.setTeam k t).stopped = s.stopped := rfl
@[simp] theorem State.setTeam_killed (s : State) (k : Nat) (t : Team) : (s.setTeam k t).killed = s.killed := rfl
@[simp] theorem State.setTeam_hot (s : State) (k : Nat) (t : Team) : (s.setTeam k t).hot = s.hot := rfl
@[simp] theorem State.setTeam_agenda (s : State) (k : Nat) (t : Team) : (s.setTeam k t).agenda = s.agenda := rfl
@[simp] theorem State.setTeam_inputs (s : State) (k : Nat) (t : Team) : (s.setTeam k t).inputs = s.inputs := rfl
@[simp] theorem State.setMe_tick (s : State) (t : Team) : (s.setMe t).tick = s.tick := rfl
@[simp] theorem State.setMe_clk (s : State) (t : Team) : (s.setMe t).clk = s.clk := rfl
@[simp] theorem State.setMe_powered (s : State) (t : Team) : (s.setMe t).powered = s.powered := rfl
@[simp] theorem State.setMe_bootFailed (s : State) (t : Team) : (s.setMe t).bootFailed = s.bootFailed := rfl
@[simp] theorem State.setMe_nextHandle (s : State) (t : Team) : (s.setMe t).nextHandle = s.nextHandle := rfl
@[simp] theorem State.setMe_nextId (s : State) (t : Team) : (s.setMe t).nextId = s.nextId := rfl
@[simp] theorem State.setMe_cur (s : State) (t : Team) : (s.setMe t).cur = s.cur := rfl
@[simp] theorem State.setMe_crews (s : State) (t : Team) : (s.setMe t).crews = s.crews := rfl
@[simp] theorem State.setMe_grids (s : State) (t : Team) : (s.setMe t).grids = s.grids := rfl
@[simp] theorem State.setMe_insts (s : State) (t : Team) : (s.setMe t).insts = s.insts := rfl
@[simp] theorem State.setMe_bars (s : State) (t : Team) : (s.setMe t).bars = s.bars := rfl
@[simp] theorem State.setMe_clusters (s : State) (t : Team) : (s.setMe t).clusters = s.clusters := rfl
@[simp] theorem State.setMe_cores (s : State) (t : Team) : (s.setMe t).cores = s.cores := rfl
@[simp] theorem State.setMe_dram (s : State) (t : Team) : (s.setMe t).dram = s.dram := rfl
@[simp] theorem State.setMe_poison (s : State) (t : Team) : (s.setMe t).poison = s.poison := rfl
@[simp] theorem State.setMe_l2 (s : State) (t : Team) : (s.setMe t).l2 = s.l2 := rfl
@[simp] theorem State.setMe_writes (s : State) (t : Team) : (s.setMe t).writes = s.writes := rfl
@[simp] theorem State.setMe_fills (s : State) (t : Team) : (s.setMe t).fills = s.fills := rfl
@[simp] theorem State.setMe_waiters (s : State) (t : Team) : (s.setMe t).waiters = s.waiters := rfl
@[simp] theorem State.setMe_ranges (s : State) (t : Team) : (s.setMe t).ranges = s.ranges := rfl
@[simp] theorem State.setMe_tlb (s : State) (t : Team) : (s.setMe t).tlb = s.tlb := rfl
@[simp] theorem State.setMe_rct (s : State) (t : Team) : (s.setMe t).rct = s.rct := rfl
@[simp] theorem State.setMe_mgmt (s : State) (t : Team) : (s.setMe t).mgmt = s.mgmt := rfl
@[simp] theorem State.setMe_meas (s : State) (t : Team) : (s.setMe t).meas = s.meas := rfl
@[simp] theorem State.setMe_leaf (s : State) (t : Team) : (s.setMe t).leaf = s.leaf := rfl
@[simp] theorem State.setMe_otp (s : State) (t : Team) : (s.setMe t).otp = s.otp := rfl
@[simp] theorem State.setMe_launches (s : State) (t : Team) : (s.setMe t).launches = s.launches := rfl
@[simp] theorem State.setMe_badQueues (s : State) (t : Team) : (s.setMe t).badQueues = s.badQueues := rfl
@[simp] theorem State.setMe_singles (s : State) (t : Team) : (s.setMe t).singles = s.singles := rfl
@[simp] theorem State.setMe_lastQueue (s : State) (t : Team) : (s.setMe t).lastQueue = s.lastQueue := rfl
@[simp] theorem State.setMe_packets (s : State) (t : Team) : (s.setMe t).packets = s.packets := rfl
@[simp] theorem State.setMe_droverTurn (s : State) (t : Team) : (s.setMe t).droverTurn = s.droverTurn := rfl
@[simp] theorem State.setMe_chans (s : State) (t : Team) : (s.setMe t).chans = s.chans := rfl
@[simp] theorem State.setMe_searches (s : State) (t : Team) : (s.setMe t).searches = s.searches := rfl
@[simp] theorem State.setMe_pinDrops (s : State) (t : Team) : (s.setMe t).pinDrops = s.pinDrops := rfl
@[simp] theorem State.setMe_filter (s : State) (t : Team) : (s.setMe t).filter = s.filter := rfl
@[simp] theorem State.setMe_frees (s : State) (t : Team) : (s.setMe t).frees = s.frees := rfl
@[simp] theorem State.setMe_heq (s : State) (t : Team) : (s.setMe t).heq = s.heq := rfl
@[simp] theorem State.setMe_heqSlot (s : State) (t : Team) : (s.setMe t).heqSlot = s.heqSlot := rfl
@[simp] theorem State.setMe_recordEnds (s : State) (t : Team) : (s.setMe t).recordEnds = s.recordEnds := rfl
@[simp] theorem State.setMe_kills (s : State) (t : Team) : (s.setMe t).kills = s.kills := rfl
@[simp] theorem State.setMe_escs (s : State) (t : Team) : (s.setMe t).escs = s.escs := rfl
@[simp] theorem State.setMe_nextTag (s : State) (t : Team) : (s.setMe t).nextTag = s.nextTag := rfl
@[simp] theorem State.setMe_linkUp (s : State) (t : Team) : (s.setMe t).linkUp = s.linkUp := rfl
@[simp] theorem State.setMe_bridge (s : State) (t : Team) : (s.setMe t).bridge = s.bridge := rfl
@[simp] theorem State.setMe_halves (s : State) (t : Team) : (s.setMe t).halves = s.halves := rfl
@[simp] theorem State.setMe_hostLines (s : State) (t : Team) : (s.setMe t).hostLines = s.hostLines := rfl
@[simp] theorem State.setMe_hostOut (s : State) (t : Team) : (s.setMe t).hostOut = s.hostOut := rfl
@[simp] theorem State.setMe_peerOut (s : State) (t : Team) : (s.setMe t).peerOut = s.peerOut := rfl
@[simp] theorem State.setMe_inbound (s : State) (t : Team) : (s.setMe t).inbound = s.inbound := rfl
@[simp] theorem State.setMe_inboundBytes (s : State) (t : Team) : (s.setMe t).inboundBytes = s.inboundBytes := rfl
@[simp] theorem State.setMe_inboundRefused (s : State) (t : Team) : (s.setMe t).inboundRefused = s.inboundRefused := rfl
@[simp] theorem State.setMe_portsDown (s : State) (t : Team) : (s.setMe t).portsDown = s.portsDown := rfl
@[simp] theorem State.setMe_aborts (s : State) (t : Team) : (s.setMe t).aborts = s.aborts := rfl
@[simp] theorem State.setMe_stopped (s : State) (t : Team) : (s.setMe t).stopped = s.stopped := rfl
@[simp] theorem State.setMe_killed (s : State) (t : Team) : (s.setMe t).killed = s.killed := rfl
@[simp] theorem State.setMe_hot (s : State) (t : Team) : (s.setMe t).hot = s.hot := rfl
@[simp] theorem State.setMe_agenda (s : State) (t : Team) : (s.setMe t).agenda = s.agenda := rfl
@[simp] theorem State.setMe_inputs (s : State) (t : Team) : (s.setMe t).inputs = s.inputs := rfl
@[simp] theorem State.mapMe_tick (s : State) (f : Team → Team) : (s.mapMe f).tick = s.tick := rfl
@[simp] theorem State.mapMe_clk (s : State) (f : Team → Team) : (s.mapMe f).clk = s.clk := rfl
@[simp] theorem State.mapMe_powered (s : State) (f : Team → Team) : (s.mapMe f).powered = s.powered := rfl
@[simp] theorem State.mapMe_bootFailed (s : State) (f : Team → Team) : (s.mapMe f).bootFailed = s.bootFailed := rfl
@[simp] theorem State.mapMe_nextHandle (s : State) (f : Team → Team) : (s.mapMe f).nextHandle = s.nextHandle := rfl
@[simp] theorem State.mapMe_nextId (s : State) (f : Team → Team) : (s.mapMe f).nextId = s.nextId := rfl
@[simp] theorem State.mapMe_cur (s : State) (f : Team → Team) : (s.mapMe f).cur = s.cur := rfl
@[simp] theorem State.mapMe_crews (s : State) (f : Team → Team) : (s.mapMe f).crews = s.crews := rfl
@[simp] theorem State.mapMe_grids (s : State) (f : Team → Team) : (s.mapMe f).grids = s.grids := rfl
@[simp] theorem State.mapMe_insts (s : State) (f : Team → Team) : (s.mapMe f).insts = s.insts := rfl
@[simp] theorem State.mapMe_bars (s : State) (f : Team → Team) : (s.mapMe f).bars = s.bars := rfl
@[simp] theorem State.mapMe_clusters (s : State) (f : Team → Team) : (s.mapMe f).clusters = s.clusters := rfl
@[simp] theorem State.mapMe_cores (s : State) (f : Team → Team) : (s.mapMe f).cores = s.cores := rfl
@[simp] theorem State.mapMe_dram (s : State) (f : Team → Team) : (s.mapMe f).dram = s.dram := rfl
@[simp] theorem State.mapMe_poison (s : State) (f : Team → Team) : (s.mapMe f).poison = s.poison := rfl
@[simp] theorem State.mapMe_l2 (s : State) (f : Team → Team) : (s.mapMe f).l2 = s.l2 := rfl
@[simp] theorem State.mapMe_writes (s : State) (f : Team → Team) : (s.mapMe f).writes = s.writes := rfl
@[simp] theorem State.mapMe_fills (s : State) (f : Team → Team) : (s.mapMe f).fills = s.fills := rfl
@[simp] theorem State.mapMe_waiters (s : State) (f : Team → Team) : (s.mapMe f).waiters = s.waiters := rfl
@[simp] theorem State.mapMe_ranges (s : State) (f : Team → Team) : (s.mapMe f).ranges = s.ranges := rfl
@[simp] theorem State.mapMe_tlb (s : State) (f : Team → Team) : (s.mapMe f).tlb = s.tlb := rfl
@[simp] theorem State.mapMe_rct (s : State) (f : Team → Team) : (s.mapMe f).rct = s.rct := rfl
@[simp] theorem State.mapMe_mgmt (s : State) (f : Team → Team) : (s.mapMe f).mgmt = s.mgmt := rfl
@[simp] theorem State.mapMe_meas (s : State) (f : Team → Team) : (s.mapMe f).meas = s.meas := rfl
@[simp] theorem State.mapMe_leaf (s : State) (f : Team → Team) : (s.mapMe f).leaf = s.leaf := rfl
@[simp] theorem State.mapMe_otp (s : State) (f : Team → Team) : (s.mapMe f).otp = s.otp := rfl
@[simp] theorem State.mapMe_launches (s : State) (f : Team → Team) : (s.mapMe f).launches = s.launches := rfl
@[simp] theorem State.mapMe_badQueues (s : State) (f : Team → Team) : (s.mapMe f).badQueues = s.badQueues := rfl
@[simp] theorem State.mapMe_singles (s : State) (f : Team → Team) : (s.mapMe f).singles = s.singles := rfl
@[simp] theorem State.mapMe_lastQueue (s : State) (f : Team → Team) : (s.mapMe f).lastQueue = s.lastQueue := rfl
@[simp] theorem State.mapMe_packets (s : State) (f : Team → Team) : (s.mapMe f).packets = s.packets := rfl
@[simp] theorem State.mapMe_droverTurn (s : State) (f : Team → Team) : (s.mapMe f).droverTurn = s.droverTurn := rfl
@[simp] theorem State.mapMe_chans (s : State) (f : Team → Team) : (s.mapMe f).chans = s.chans := rfl
@[simp] theorem State.mapMe_searches (s : State) (f : Team → Team) : (s.mapMe f).searches = s.searches := rfl
@[simp] theorem State.mapMe_pinDrops (s : State) (f : Team → Team) : (s.mapMe f).pinDrops = s.pinDrops := rfl
@[simp] theorem State.mapMe_filter (s : State) (f : Team → Team) : (s.mapMe f).filter = s.filter := rfl
@[simp] theorem State.mapMe_frees (s : State) (f : Team → Team) : (s.mapMe f).frees = s.frees := rfl
@[simp] theorem State.mapMe_heq (s : State) (f : Team → Team) : (s.mapMe f).heq = s.heq := rfl
@[simp] theorem State.mapMe_heqSlot (s : State) (f : Team → Team) : (s.mapMe f).heqSlot = s.heqSlot := rfl
@[simp] theorem State.mapMe_recordEnds (s : State) (f : Team → Team) : (s.mapMe f).recordEnds = s.recordEnds := rfl
@[simp] theorem State.mapMe_kills (s : State) (f : Team → Team) : (s.mapMe f).kills = s.kills := rfl
@[simp] theorem State.mapMe_escs (s : State) (f : Team → Team) : (s.mapMe f).escs = s.escs := rfl
@[simp] theorem State.mapMe_nextTag (s : State) (f : Team → Team) : (s.mapMe f).nextTag = s.nextTag := rfl
@[simp] theorem State.mapMe_linkUp (s : State) (f : Team → Team) : (s.mapMe f).linkUp = s.linkUp := rfl
@[simp] theorem State.mapMe_bridge (s : State) (f : Team → Team) : (s.mapMe f).bridge = s.bridge := rfl
@[simp] theorem State.mapMe_halves (s : State) (f : Team → Team) : (s.mapMe f).halves = s.halves := rfl
@[simp] theorem State.mapMe_hostLines (s : State) (f : Team → Team) : (s.mapMe f).hostLines = s.hostLines := rfl
@[simp] theorem State.mapMe_hostOut (s : State) (f : Team → Team) : (s.mapMe f).hostOut = s.hostOut := rfl
@[simp] theorem State.mapMe_peerOut (s : State) (f : Team → Team) : (s.mapMe f).peerOut = s.peerOut := rfl
@[simp] theorem State.mapMe_inbound (s : State) (f : Team → Team) : (s.mapMe f).inbound = s.inbound := rfl
@[simp] theorem State.mapMe_inboundBytes (s : State) (f : Team → Team) : (s.mapMe f).inboundBytes = s.inboundBytes := rfl
@[simp] theorem State.mapMe_inboundRefused (s : State) (f : Team → Team) : (s.mapMe f).inboundRefused = s.inboundRefused := rfl
@[simp] theorem State.mapMe_portsDown (s : State) (f : Team → Team) : (s.mapMe f).portsDown = s.portsDown := rfl
@[simp] theorem State.mapMe_aborts (s : State) (f : Team → Team) : (s.mapMe f).aborts = s.aborts := rfl
@[simp] theorem State.mapMe_stopped (s : State) (f : Team → Team) : (s.mapMe f).stopped = s.stopped := rfl
@[simp] theorem State.mapMe_killed (s : State) (f : Team → Team) : (s.mapMe f).killed = s.killed := rfl
@[simp] theorem State.mapMe_hot (s : State) (f : Team → Team) : (s.mapMe f).hot = s.hot := rfl
@[simp] theorem State.mapMe_agenda (s : State) (f : Team → Team) : (s.mapMe f).agenda = s.agenda := rfl
@[simp] theorem State.mapMe_inputs (s : State) (f : Team → Team) : (s.mapMe f).inputs = s.inputs := rfl
@[simp] theorem State.mapTeam_tick (s : State) (k : Nat) (f : Team → Team) : (s.mapTeam k f).tick = s.tick := by unfold State.mapTeam; split <;> rfl
@[simp] theorem State.mapTeam_clk (s : State) (k : Nat) (f : Team → Team) : (s.mapTeam k f).clk = s.clk := by unfold State.mapTeam; split <;> rfl
@[simp] theorem State.mapTeam_powered (s : State) (k : Nat) (f : Team → Team) : (s.mapTeam k f).powered = s.powered := by unfold State.mapTeam; split <;> rfl
@[simp] theorem State.mapTeam_bootFailed (s : State) (k : Nat) (f : Team → Team) : (s.mapTeam k f).bootFailed = s.bootFailed := by unfold State.mapTeam; split <;> rfl
@[simp] theorem State.mapTeam_nextHandle (s : State) (k : Nat) (f : Team → Team) : (s.mapTeam k f).nextHandle = s.nextHandle := by unfold State.mapTeam; split <;> rfl
@[simp] theorem State.mapTeam_nextId (s : State) (k : Nat) (f : Team → Team) : (s.mapTeam k f).nextId = s.nextId := by unfold State.mapTeam; split <;> rfl
@[simp] theorem State.mapTeam_cur (s : State) (k : Nat) (f : Team → Team) : (s.mapTeam k f).cur = s.cur := by unfold State.mapTeam; split <;> rfl
@[simp] theorem State.mapTeam_crews (s : State) (k : Nat) (f : Team → Team) : (s.mapTeam k f).crews = s.crews := by unfold State.mapTeam; split <;> rfl
@[simp] theorem State.mapTeam_grids (s : State) (k : Nat) (f : Team → Team) : (s.mapTeam k f).grids = s.grids := by unfold State.mapTeam; split <;> rfl
@[simp] theorem State.mapTeam_insts (s : State) (k : Nat) (f : Team → Team) : (s.mapTeam k f).insts = s.insts := by unfold State.mapTeam; split <;> rfl
@[simp] theorem State.mapTeam_bars (s : State) (k : Nat) (f : Team → Team) : (s.mapTeam k f).bars = s.bars := by unfold State.mapTeam; split <;> rfl
@[simp] theorem State.mapTeam_clusters (s : State) (k : Nat) (f : Team → Team) : (s.mapTeam k f).clusters = s.clusters := by unfold State.mapTeam; split <;> rfl
@[simp] theorem State.mapTeam_cores (s : State) (k : Nat) (f : Team → Team) : (s.mapTeam k f).cores = s.cores := by unfold State.mapTeam; split <;> rfl
@[simp] theorem State.mapTeam_dram (s : State) (k : Nat) (f : Team → Team) : (s.mapTeam k f).dram = s.dram := by unfold State.mapTeam; split <;> rfl
@[simp] theorem State.mapTeam_poison (s : State) (k : Nat) (f : Team → Team) : (s.mapTeam k f).poison = s.poison := by unfold State.mapTeam; split <;> rfl
@[simp] theorem State.mapTeam_l2 (s : State) (k : Nat) (f : Team → Team) : (s.mapTeam k f).l2 = s.l2 := by unfold State.mapTeam; split <;> rfl
@[simp] theorem State.mapTeam_writes (s : State) (k : Nat) (f : Team → Team) : (s.mapTeam k f).writes = s.writes := by unfold State.mapTeam; split <;> rfl
@[simp] theorem State.mapTeam_fills (s : State) (k : Nat) (f : Team → Team) : (s.mapTeam k f).fills = s.fills := by unfold State.mapTeam; split <;> rfl
@[simp] theorem State.mapTeam_waiters (s : State) (k : Nat) (f : Team → Team) : (s.mapTeam k f).waiters = s.waiters := by unfold State.mapTeam; split <;> rfl
@[simp] theorem State.mapTeam_ranges (s : State) (k : Nat) (f : Team → Team) : (s.mapTeam k f).ranges = s.ranges := by unfold State.mapTeam; split <;> rfl
@[simp] theorem State.mapTeam_tlb (s : State) (k : Nat) (f : Team → Team) : (s.mapTeam k f).tlb = s.tlb := by unfold State.mapTeam; split <;> rfl
@[simp] theorem State.mapTeam_rct (s : State) (k : Nat) (f : Team → Team) : (s.mapTeam k f).rct = s.rct := by unfold State.mapTeam; split <;> rfl
@[simp] theorem State.mapTeam_mgmt (s : State) (k : Nat) (f : Team → Team) : (s.mapTeam k f).mgmt = s.mgmt := by unfold State.mapTeam; split <;> rfl
@[simp] theorem State.mapTeam_meas (s : State) (k : Nat) (f : Team → Team) : (s.mapTeam k f).meas = s.meas := by unfold State.mapTeam; split <;> rfl
@[simp] theorem State.mapTeam_leaf (s : State) (k : Nat) (f : Team → Team) : (s.mapTeam k f).leaf = s.leaf := by unfold State.mapTeam; split <;> rfl
@[simp] theorem State.mapTeam_otp (s : State) (k : Nat) (f : Team → Team) : (s.mapTeam k f).otp = s.otp := by unfold State.mapTeam; split <;> rfl
@[simp] theorem State.mapTeam_launches (s : State) (k : Nat) (f : Team → Team) : (s.mapTeam k f).launches = s.launches := by unfold State.mapTeam; split <;> rfl
@[simp] theorem State.mapTeam_badQueues (s : State) (k : Nat) (f : Team → Team) : (s.mapTeam k f).badQueues = s.badQueues := by unfold State.mapTeam; split <;> rfl
@[simp] theorem State.mapTeam_singles (s : State) (k : Nat) (f : Team → Team) : (s.mapTeam k f).singles = s.singles := by unfold State.mapTeam; split <;> rfl
@[simp] theorem State.mapTeam_lastQueue (s : State) (k : Nat) (f : Team → Team) : (s.mapTeam k f).lastQueue = s.lastQueue := by unfold State.mapTeam; split <;> rfl
@[simp] theorem State.mapTeam_packets (s : State) (k : Nat) (f : Team → Team) : (s.mapTeam k f).packets = s.packets := by unfold State.mapTeam; split <;> rfl
@[simp] theorem State.mapTeam_droverTurn (s : State) (k : Nat) (f : Team → Team) : (s.mapTeam k f).droverTurn = s.droverTurn := by unfold State.mapTeam; split <;> rfl
@[simp] theorem State.mapTeam_chans (s : State) (k : Nat) (f : Team → Team) : (s.mapTeam k f).chans = s.chans := by unfold State.mapTeam; split <;> rfl
@[simp] theorem State.mapTeam_searches (s : State) (k : Nat) (f : Team → Team) : (s.mapTeam k f).searches = s.searches := by unfold State.mapTeam; split <;> rfl
@[simp] theorem State.mapTeam_pinDrops (s : State) (k : Nat) (f : Team → Team) : (s.mapTeam k f).pinDrops = s.pinDrops := by unfold State.mapTeam; split <;> rfl
@[simp] theorem State.mapTeam_filter (s : State) (k : Nat) (f : Team → Team) : (s.mapTeam k f).filter = s.filter := by unfold State.mapTeam; split <;> rfl
@[simp] theorem State.mapTeam_frees (s : State) (k : Nat) (f : Team → Team) : (s.mapTeam k f).frees = s.frees := by unfold State.mapTeam; split <;> rfl
@[simp] theorem State.mapTeam_heq (s : State) (k : Nat) (f : Team → Team) : (s.mapTeam k f).heq = s.heq := by unfold State.mapTeam; split <;> rfl
@[simp] theorem State.mapTeam_heqSlot (s : State) (k : Nat) (f : Team → Team) : (s.mapTeam k f).heqSlot = s.heqSlot := by unfold State.mapTeam; split <;> rfl
@[simp] theorem State.mapTeam_recordEnds (s : State) (k : Nat) (f : Team → Team) : (s.mapTeam k f).recordEnds = s.recordEnds := by unfold State.mapTeam; split <;> rfl
@[simp] theorem State.mapTeam_kills (s : State) (k : Nat) (f : Team → Team) : (s.mapTeam k f).kills = s.kills := by unfold State.mapTeam; split <;> rfl
@[simp] theorem State.mapTeam_escs (s : State) (k : Nat) (f : Team → Team) : (s.mapTeam k f).escs = s.escs := by unfold State.mapTeam; split <;> rfl
@[simp] theorem State.mapTeam_nextTag (s : State) (k : Nat) (f : Team → Team) : (s.mapTeam k f).nextTag = s.nextTag := by unfold State.mapTeam; split <;> rfl
@[simp] theorem State.mapTeam_linkUp (s : State) (k : Nat) (f : Team → Team) : (s.mapTeam k f).linkUp = s.linkUp := by unfold State.mapTeam; split <;> rfl
@[simp] theorem State.mapTeam_bridge (s : State) (k : Nat) (f : Team → Team) : (s.mapTeam k f).bridge = s.bridge := by unfold State.mapTeam; split <;> rfl
@[simp] theorem State.mapTeam_halves (s : State) (k : Nat) (f : Team → Team) : (s.mapTeam k f).halves = s.halves := by unfold State.mapTeam; split <;> rfl
@[simp] theorem State.mapTeam_hostLines (s : State) (k : Nat) (f : Team → Team) : (s.mapTeam k f).hostLines = s.hostLines := by unfold State.mapTeam; split <;> rfl
@[simp] theorem State.mapTeam_hostOut (s : State) (k : Nat) (f : Team → Team) : (s.mapTeam k f).hostOut = s.hostOut := by unfold State.mapTeam; split <;> rfl
@[simp] theorem State.mapTeam_peerOut (s : State) (k : Nat) (f : Team → Team) : (s.mapTeam k f).peerOut = s.peerOut := by unfold State.mapTeam; split <;> rfl
@[simp] theorem State.mapTeam_inbound (s : State) (k : Nat) (f : Team → Team) : (s.mapTeam k f).inbound = s.inbound := by unfold State.mapTeam; split <;> rfl
@[simp] theorem State.mapTeam_inboundBytes (s : State) (k : Nat) (f : Team → Team) : (s.mapTeam k f).inboundBytes = s.inboundBytes := by unfold State.mapTeam; split <;> rfl
@[simp] theorem State.mapTeam_inboundRefused (s : State) (k : Nat) (f : Team → Team) : (s.mapTeam k f).inboundRefused = s.inboundRefused := by unfold State.mapTeam; split <;> rfl
@[simp] theorem State.mapTeam_portsDown (s : State) (k : Nat) (f : Team → Team) : (s.mapTeam k f).portsDown = s.portsDown := by unfold State.mapTeam; split <;> rfl
@[simp] theorem State.mapTeam_aborts (s : State) (k : Nat) (f : Team → Team) : (s.mapTeam k f).aborts = s.aborts := by unfold State.mapTeam; split <;> rfl
@[simp] theorem State.mapTeam_stopped (s : State) (k : Nat) (f : Team → Team) : (s.mapTeam k f).stopped = s.stopped := by unfold State.mapTeam; split <;> rfl
@[simp] theorem State.mapTeam_killed (s : State) (k : Nat) (f : Team → Team) : (s.mapTeam k f).killed = s.killed := by unfold State.mapTeam; split <;> rfl
@[simp] theorem State.mapTeam_hot (s : State) (k : Nat) (f : Team → Team) : (s.mapTeam k f).hot = s.hot := by unfold State.mapTeam; split <;> rfl
@[simp] theorem State.mapTeam_agenda (s : State) (k : Nat) (f : Team → Team) : (s.mapTeam k f).agenda = s.agenda := by unfold State.mapTeam; split <;> rfl
@[simp] theorem State.mapTeam_inputs (s : State) (k : Nat) (f : Team → Team) : (s.mapTeam k f).inputs = s.inputs := by unfold State.mapTeam; split <;> rfl
@[simp] theorem State.setCrew_tick (s : State) (k : Nat) (c : Crew) : (s.setCrew k c).tick = s.tick := rfl
@[simp] theorem State.setCrew_clk (s : State) (k : Nat) (c : Crew) : (s.setCrew k c).clk = s.clk := rfl
@[simp] theorem State.setCrew_powered (s : State) (k : Nat) (c : Crew) : (s.setCrew k c).powered = s.powered := rfl
@[simp] theorem State.setCrew_bootFailed (s : State) (k : Nat) (c : Crew) : (s.setCrew k c).bootFailed = s.bootFailed := rfl
@[simp] theorem State.setCrew_nextHandle (s : State) (k : Nat) (c : Crew) : (s.setCrew k c).nextHandle = s.nextHandle := rfl
@[simp] theorem State.setCrew_nextId (s : State) (k : Nat) (c : Crew) : (s.setCrew k c).nextId = s.nextId := rfl
@[simp] theorem State.setCrew_cur (s : State) (k : Nat) (c : Crew) : (s.setCrew k c).cur = s.cur := rfl
@[simp] theorem State.setCrew_teams (s : State) (k : Nat) (c : Crew) : (s.setCrew k c).teams = s.teams := rfl
@[simp] theorem State.setCrew_grids (s : State) (k : Nat) (c : Crew) : (s.setCrew k c).grids = s.grids := rfl
@[simp] theorem State.setCrew_insts (s : State) (k : Nat) (c : Crew) : (s.setCrew k c).insts = s.insts := rfl
@[simp] theorem State.setCrew_bars (s : State) (k : Nat) (c : Crew) : (s.setCrew k c).bars = s.bars := rfl
@[simp] theorem State.setCrew_clusters (s : State) (k : Nat) (c : Crew) : (s.setCrew k c).clusters = s.clusters := rfl
@[simp] theorem State.setCrew_cores (s : State) (k : Nat) (c : Crew) : (s.setCrew k c).cores = s.cores := rfl
@[simp] theorem State.setCrew_dram (s : State) (k : Nat) (c : Crew) : (s.setCrew k c).dram = s.dram := rfl
@[simp] theorem State.setCrew_poison (s : State) (k : Nat) (c : Crew) : (s.setCrew k c).poison = s.poison := rfl
@[simp] theorem State.setCrew_l2 (s : State) (k : Nat) (c : Crew) : (s.setCrew k c).l2 = s.l2 := rfl
@[simp] theorem State.setCrew_writes (s : State) (k : Nat) (c : Crew) : (s.setCrew k c).writes = s.writes := rfl
@[simp] theorem State.setCrew_fills (s : State) (k : Nat) (c : Crew) : (s.setCrew k c).fills = s.fills := rfl
@[simp] theorem State.setCrew_waiters (s : State) (k : Nat) (c : Crew) : (s.setCrew k c).waiters = s.waiters := rfl
@[simp] theorem State.setCrew_ranges (s : State) (k : Nat) (c : Crew) : (s.setCrew k c).ranges = s.ranges := rfl
@[simp] theorem State.setCrew_tlb (s : State) (k : Nat) (c : Crew) : (s.setCrew k c).tlb = s.tlb := rfl
@[simp] theorem State.setCrew_rct (s : State) (k : Nat) (c : Crew) : (s.setCrew k c).rct = s.rct := rfl
@[simp] theorem State.setCrew_mgmt (s : State) (k : Nat) (c : Crew) : (s.setCrew k c).mgmt = s.mgmt := rfl
@[simp] theorem State.setCrew_meas (s : State) (k : Nat) (c : Crew) : (s.setCrew k c).meas = s.meas := rfl
@[simp] theorem State.setCrew_leaf (s : State) (k : Nat) (c : Crew) : (s.setCrew k c).leaf = s.leaf := rfl
@[simp] theorem State.setCrew_otp (s : State) (k : Nat) (c : Crew) : (s.setCrew k c).otp = s.otp := rfl
@[simp] theorem State.setCrew_launches (s : State) (k : Nat) (c : Crew) : (s.setCrew k c).launches = s.launches := rfl
@[simp] theorem State.setCrew_badQueues (s : State) (k : Nat) (c : Crew) : (s.setCrew k c).badQueues = s.badQueues := rfl
@[simp] theorem State.setCrew_singles (s : State) (k : Nat) (c : Crew) : (s.setCrew k c).singles = s.singles := rfl
@[simp] theorem State.setCrew_lastQueue (s : State) (k : Nat) (c : Crew) : (s.setCrew k c).lastQueue = s.lastQueue := rfl
@[simp] theorem State.setCrew_packets (s : State) (k : Nat) (c : Crew) : (s.setCrew k c).packets = s.packets := rfl
@[simp] theorem State.setCrew_droverTurn (s : State) (k : Nat) (c : Crew) : (s.setCrew k c).droverTurn = s.droverTurn := rfl
@[simp] theorem State.setCrew_chans (s : State) (k : Nat) (c : Crew) : (s.setCrew k c).chans = s.chans := rfl
@[simp] theorem State.setCrew_searches (s : State) (k : Nat) (c : Crew) : (s.setCrew k c).searches = s.searches := rfl
@[simp] theorem State.setCrew_pinDrops (s : State) (k : Nat) (c : Crew) : (s.setCrew k c).pinDrops = s.pinDrops := rfl
@[simp] theorem State.setCrew_filter (s : State) (k : Nat) (c : Crew) : (s.setCrew k c).filter = s.filter := rfl
@[simp] theorem State.setCrew_frees (s : State) (k : Nat) (c : Crew) : (s.setCrew k c).frees = s.frees := rfl
@[simp] theorem State.setCrew_heq (s : State) (k : Nat) (c : Crew) : (s.setCrew k c).heq = s.heq := rfl
@[simp] theorem State.setCrew_heqSlot (s : State) (k : Nat) (c : Crew) : (s.setCrew k c).heqSlot = s.heqSlot := rfl
@[simp] theorem State.setCrew_recordEnds (s : State) (k : Nat) (c : Crew) : (s.setCrew k c).recordEnds = s.recordEnds := rfl
@[simp] theorem State.setCrew_kills (s : State) (k : Nat) (c : Crew) : (s.setCrew k c).kills = s.kills := rfl
@[simp] theorem State.setCrew_escs (s : State) (k : Nat) (c : Crew) : (s.setCrew k c).escs = s.escs := rfl
@[simp] theorem State.setCrew_nextTag (s : State) (k : Nat) (c : Crew) : (s.setCrew k c).nextTag = s.nextTag := rfl
@[simp] theorem State.setCrew_linkUp (s : State) (k : Nat) (c : Crew) : (s.setCrew k c).linkUp = s.linkUp := rfl
@[simp] theorem State.setCrew_bridge (s : State) (k : Nat) (c : Crew) : (s.setCrew k c).bridge = s.bridge := rfl
@[simp] theorem State.setCrew_halves (s : State) (k : Nat) (c : Crew) : (s.setCrew k c).halves = s.halves := rfl
@[simp] theorem State.setCrew_hostLines (s : State) (k : Nat) (c : Crew) : (s.setCrew k c).hostLines = s.hostLines := rfl
@[simp] theorem State.setCrew_hostOut (s : State) (k : Nat) (c : Crew) : (s.setCrew k c).hostOut = s.hostOut := rfl
@[simp] theorem State.setCrew_peerOut (s : State) (k : Nat) (c : Crew) : (s.setCrew k c).peerOut = s.peerOut := rfl
@[simp] theorem State.setCrew_inbound (s : State) (k : Nat) (c : Crew) : (s.setCrew k c).inbound = s.inbound := rfl
@[simp] theorem State.setCrew_inboundBytes (s : State) (k : Nat) (c : Crew) : (s.setCrew k c).inboundBytes = s.inboundBytes := rfl
@[simp] theorem State.setCrew_inboundRefused (s : State) (k : Nat) (c : Crew) : (s.setCrew k c).inboundRefused = s.inboundRefused := rfl
@[simp] theorem State.setCrew_portsDown (s : State) (k : Nat) (c : Crew) : (s.setCrew k c).portsDown = s.portsDown := rfl
@[simp] theorem State.setCrew_aborts (s : State) (k : Nat) (c : Crew) : (s.setCrew k c).aborts = s.aborts := rfl
@[simp] theorem State.setCrew_stopped (s : State) (k : Nat) (c : Crew) : (s.setCrew k c).stopped = s.stopped := rfl
@[simp] theorem State.setCrew_killed (s : State) (k : Nat) (c : Crew) : (s.setCrew k c).killed = s.killed := rfl
@[simp] theorem State.setCrew_hot (s : State) (k : Nat) (c : Crew) : (s.setCrew k c).hot = s.hot := rfl
@[simp] theorem State.setCrew_agenda (s : State) (k : Nat) (c : Crew) : (s.setCrew k c).agenda = s.agenda := rfl
@[simp] theorem State.setCrew_inputs (s : State) (k : Nat) (c : Crew) : (s.setCrew k c).inputs = s.inputs := rfl
@[simp] theorem State.mapCrew_tick (s : State) (k : Nat) (f : Crew → Crew) : (s.mapCrew k f).tick = s.tick := by unfold State.mapCrew; split <;> rfl
@[simp] theorem State.mapCrew_clk (s : State) (k : Nat) (f : Crew → Crew) : (s.mapCrew k f).clk = s.clk := by unfold State.mapCrew; split <;> rfl
@[simp] theorem State.mapCrew_powered (s : State) (k : Nat) (f : Crew → Crew) : (s.mapCrew k f).powered = s.powered := by unfold State.mapCrew; split <;> rfl
@[simp] theorem State.mapCrew_bootFailed (s : State) (k : Nat) (f : Crew → Crew) : (s.mapCrew k f).bootFailed = s.bootFailed := by unfold State.mapCrew; split <;> rfl
@[simp] theorem State.mapCrew_nextHandle (s : State) (k : Nat) (f : Crew → Crew) : (s.mapCrew k f).nextHandle = s.nextHandle := by unfold State.mapCrew; split <;> rfl
@[simp] theorem State.mapCrew_nextId (s : State) (k : Nat) (f : Crew → Crew) : (s.mapCrew k f).nextId = s.nextId := by unfold State.mapCrew; split <;> rfl
@[simp] theorem State.mapCrew_cur (s : State) (k : Nat) (f : Crew → Crew) : (s.mapCrew k f).cur = s.cur := by unfold State.mapCrew; split <;> rfl
@[simp] theorem State.mapCrew_teams (s : State) (k : Nat) (f : Crew → Crew) : (s.mapCrew k f).teams = s.teams := by unfold State.mapCrew; split <;> rfl
@[simp] theorem State.mapCrew_grids (s : State) (k : Nat) (f : Crew → Crew) : (s.mapCrew k f).grids = s.grids := by unfold State.mapCrew; split <;> rfl
@[simp] theorem State.mapCrew_insts (s : State) (k : Nat) (f : Crew → Crew) : (s.mapCrew k f).insts = s.insts := by unfold State.mapCrew; split <;> rfl
@[simp] theorem State.mapCrew_bars (s : State) (k : Nat) (f : Crew → Crew) : (s.mapCrew k f).bars = s.bars := by unfold State.mapCrew; split <;> rfl
@[simp] theorem State.mapCrew_clusters (s : State) (k : Nat) (f : Crew → Crew) : (s.mapCrew k f).clusters = s.clusters := by unfold State.mapCrew; split <;> rfl
@[simp] theorem State.mapCrew_cores (s : State) (k : Nat) (f : Crew → Crew) : (s.mapCrew k f).cores = s.cores := by unfold State.mapCrew; split <;> rfl
@[simp] theorem State.mapCrew_dram (s : State) (k : Nat) (f : Crew → Crew) : (s.mapCrew k f).dram = s.dram := by unfold State.mapCrew; split <;> rfl
@[simp] theorem State.mapCrew_poison (s : State) (k : Nat) (f : Crew → Crew) : (s.mapCrew k f).poison = s.poison := by unfold State.mapCrew; split <;> rfl
@[simp] theorem State.mapCrew_l2 (s : State) (k : Nat) (f : Crew → Crew) : (s.mapCrew k f).l2 = s.l2 := by unfold State.mapCrew; split <;> rfl
@[simp] theorem State.mapCrew_writes (s : State) (k : Nat) (f : Crew → Crew) : (s.mapCrew k f).writes = s.writes := by unfold State.mapCrew; split <;> rfl
@[simp] theorem State.mapCrew_fills (s : State) (k : Nat) (f : Crew → Crew) : (s.mapCrew k f).fills = s.fills := by unfold State.mapCrew; split <;> rfl
@[simp] theorem State.mapCrew_waiters (s : State) (k : Nat) (f : Crew → Crew) : (s.mapCrew k f).waiters = s.waiters := by unfold State.mapCrew; split <;> rfl
@[simp] theorem State.mapCrew_ranges (s : State) (k : Nat) (f : Crew → Crew) : (s.mapCrew k f).ranges = s.ranges := by unfold State.mapCrew; split <;> rfl
@[simp] theorem State.mapCrew_tlb (s : State) (k : Nat) (f : Crew → Crew) : (s.mapCrew k f).tlb = s.tlb := by unfold State.mapCrew; split <;> rfl
@[simp] theorem State.mapCrew_rct (s : State) (k : Nat) (f : Crew → Crew) : (s.mapCrew k f).rct = s.rct := by unfold State.mapCrew; split <;> rfl
@[simp] theorem State.mapCrew_mgmt (s : State) (k : Nat) (f : Crew → Crew) : (s.mapCrew k f).mgmt = s.mgmt := by unfold State.mapCrew; split <;> rfl
@[simp] theorem State.mapCrew_meas (s : State) (k : Nat) (f : Crew → Crew) : (s.mapCrew k f).meas = s.meas := by unfold State.mapCrew; split <;> rfl
@[simp] theorem State.mapCrew_leaf (s : State) (k : Nat) (f : Crew → Crew) : (s.mapCrew k f).leaf = s.leaf := by unfold State.mapCrew; split <;> rfl
@[simp] theorem State.mapCrew_otp (s : State) (k : Nat) (f : Crew → Crew) : (s.mapCrew k f).otp = s.otp := by unfold State.mapCrew; split <;> rfl
@[simp] theorem State.mapCrew_launches (s : State) (k : Nat) (f : Crew → Crew) : (s.mapCrew k f).launches = s.launches := by unfold State.mapCrew; split <;> rfl
@[simp] theorem State.mapCrew_badQueues (s : State) (k : Nat) (f : Crew → Crew) : (s.mapCrew k f).badQueues = s.badQueues := by unfold State.mapCrew; split <;> rfl
@[simp] theorem State.mapCrew_singles (s : State) (k : Nat) (f : Crew → Crew) : (s.mapCrew k f).singles = s.singles := by unfold State.mapCrew; split <;> rfl
@[simp] theorem State.mapCrew_lastQueue (s : State) (k : Nat) (f : Crew → Crew) : (s.mapCrew k f).lastQueue = s.lastQueue := by unfold State.mapCrew; split <;> rfl
@[simp] theorem State.mapCrew_packets (s : State) (k : Nat) (f : Crew → Crew) : (s.mapCrew k f).packets = s.packets := by unfold State.mapCrew; split <;> rfl
@[simp] theorem State.mapCrew_droverTurn (s : State) (k : Nat) (f : Crew → Crew) : (s.mapCrew k f).droverTurn = s.droverTurn := by unfold State.mapCrew; split <;> rfl
@[simp] theorem State.mapCrew_chans (s : State) (k : Nat) (f : Crew → Crew) : (s.mapCrew k f).chans = s.chans := by unfold State.mapCrew; split <;> rfl
@[simp] theorem State.mapCrew_searches (s : State) (k : Nat) (f : Crew → Crew) : (s.mapCrew k f).searches = s.searches := by unfold State.mapCrew; split <;> rfl
@[simp] theorem State.mapCrew_pinDrops (s : State) (k : Nat) (f : Crew → Crew) : (s.mapCrew k f).pinDrops = s.pinDrops := by unfold State.mapCrew; split <;> rfl
@[simp] theorem State.mapCrew_filter (s : State) (k : Nat) (f : Crew → Crew) : (s.mapCrew k f).filter = s.filter := by unfold State.mapCrew; split <;> rfl
@[simp] theorem State.mapCrew_frees (s : State) (k : Nat) (f : Crew → Crew) : (s.mapCrew k f).frees = s.frees := by unfold State.mapCrew; split <;> rfl
@[simp] theorem State.mapCrew_heq (s : State) (k : Nat) (f : Crew → Crew) : (s.mapCrew k f).heq = s.heq := by unfold State.mapCrew; split <;> rfl
@[simp] theorem State.mapCrew_heqSlot (s : State) (k : Nat) (f : Crew → Crew) : (s.mapCrew k f).heqSlot = s.heqSlot := by unfold State.mapCrew; split <;> rfl
@[simp] theorem State.mapCrew_recordEnds (s : State) (k : Nat) (f : Crew → Crew) : (s.mapCrew k f).recordEnds = s.recordEnds := by unfold State.mapCrew; split <;> rfl
@[simp] theorem State.mapCrew_kills (s : State) (k : Nat) (f : Crew → Crew) : (s.mapCrew k f).kills = s.kills := by unfold State.mapCrew; split <;> rfl
@[simp] theorem State.mapCrew_escs (s : State) (k : Nat) (f : Crew → Crew) : (s.mapCrew k f).escs = s.escs := by unfold State.mapCrew; split <;> rfl
@[simp] theorem State.mapCrew_nextTag (s : State) (k : Nat) (f : Crew → Crew) : (s.mapCrew k f).nextTag = s.nextTag := by unfold State.mapCrew; split <;> rfl
@[simp] theorem State.mapCrew_linkUp (s : State) (k : Nat) (f : Crew → Crew) : (s.mapCrew k f).linkUp = s.linkUp := by unfold State.mapCrew; split <;> rfl
@[simp] theorem State.mapCrew_bridge (s : State) (k : Nat) (f : Crew → Crew) : (s.mapCrew k f).bridge = s.bridge := by unfold State.mapCrew; split <;> rfl
@[simp] theorem State.mapCrew_halves (s : State) (k : Nat) (f : Crew → Crew) : (s.mapCrew k f).halves = s.halves := by unfold State.mapCrew; split <;> rfl
@[simp] theorem State.mapCrew_hostLines (s : State) (k : Nat) (f : Crew → Crew) : (s.mapCrew k f).hostLines = s.hostLines := by unfold State.mapCrew; split <;> rfl
@[simp] theorem State.mapCrew_hostOut (s : State) (k : Nat) (f : Crew → Crew) : (s.mapCrew k f).hostOut = s.hostOut := by unfold State.mapCrew; split <;> rfl
@[simp] theorem State.mapCrew_peerOut (s : State) (k : Nat) (f : Crew → Crew) : (s.mapCrew k f).peerOut = s.peerOut := by unfold State.mapCrew; split <;> rfl
@[simp] theorem State.mapCrew_inbound (s : State) (k : Nat) (f : Crew → Crew) : (s.mapCrew k f).inbound = s.inbound := by unfold State.mapCrew; split <;> rfl
@[simp] theorem State.mapCrew_inboundBytes (s : State) (k : Nat) (f : Crew → Crew) : (s.mapCrew k f).inboundBytes = s.inboundBytes := by unfold State.mapCrew; split <;> rfl
@[simp] theorem State.mapCrew_inboundRefused (s : State) (k : Nat) (f : Crew → Crew) : (s.mapCrew k f).inboundRefused = s.inboundRefused := by unfold State.mapCrew; split <;> rfl
@[simp] theorem State.mapCrew_portsDown (s : State) (k : Nat) (f : Crew → Crew) : (s.mapCrew k f).portsDown = s.portsDown := by unfold State.mapCrew; split <;> rfl
@[simp] theorem State.mapCrew_aborts (s : State) (k : Nat) (f : Crew → Crew) : (s.mapCrew k f).aborts = s.aborts := by unfold State.mapCrew; split <;> rfl
@[simp] theorem State.mapCrew_stopped (s : State) (k : Nat) (f : Crew → Crew) : (s.mapCrew k f).stopped = s.stopped := by unfold State.mapCrew; split <;> rfl
@[simp] theorem State.mapCrew_killed (s : State) (k : Nat) (f : Crew → Crew) : (s.mapCrew k f).killed = s.killed := by unfold State.mapCrew; split <;> rfl
@[simp] theorem State.mapCrew_hot (s : State) (k : Nat) (f : Crew → Crew) : (s.mapCrew k f).hot = s.hot := by unfold State.mapCrew; split <;> rfl
@[simp] theorem State.mapCrew_agenda (s : State) (k : Nat) (f : Crew → Crew) : (s.mapCrew k f).agenda = s.agenda := by unfold State.mapCrew; split <;> rfl
@[simp] theorem State.mapCrew_inputs (s : State) (k : Nat) (f : Crew → Crew) : (s.mapCrew k f).inputs = s.inputs := by unfold State.mapCrew; split <;> rfl
@[simp] theorem State.mapGrid_tick (s : State) (h : Nat) (f : Grid → Grid) : (s.mapGrid h f).tick = s.tick := by unfold State.mapGrid; split <;> rfl
@[simp] theorem State.mapGrid_clk (s : State) (h : Nat) (f : Grid → Grid) : (s.mapGrid h f).clk = s.clk := by unfold State.mapGrid; split <;> rfl
@[simp] theorem State.mapGrid_powered (s : State) (h : Nat) (f : Grid → Grid) : (s.mapGrid h f).powered = s.powered := by unfold State.mapGrid; split <;> rfl
@[simp] theorem State.mapGrid_bootFailed (s : State) (h : Nat) (f : Grid → Grid) : (s.mapGrid h f).bootFailed = s.bootFailed := by unfold State.mapGrid; split <;> rfl
@[simp] theorem State.mapGrid_nextHandle (s : State) (h : Nat) (f : Grid → Grid) : (s.mapGrid h f).nextHandle = s.nextHandle := by unfold State.mapGrid; split <;> rfl
@[simp] theorem State.mapGrid_nextId (s : State) (h : Nat) (f : Grid → Grid) : (s.mapGrid h f).nextId = s.nextId := by unfold State.mapGrid; split <;> rfl
@[simp] theorem State.mapGrid_cur (s : State) (h : Nat) (f : Grid → Grid) : (s.mapGrid h f).cur = s.cur := by unfold State.mapGrid; split <;> rfl
@[simp] theorem State.mapGrid_teams (s : State) (h : Nat) (f : Grid → Grid) : (s.mapGrid h f).teams = s.teams := by unfold State.mapGrid; split <;> rfl
@[simp] theorem State.mapGrid_crews (s : State) (h : Nat) (f : Grid → Grid) : (s.mapGrid h f).crews = s.crews := by unfold State.mapGrid; split <;> rfl
@[simp] theorem State.mapGrid_insts (s : State) (h : Nat) (f : Grid → Grid) : (s.mapGrid h f).insts = s.insts := by unfold State.mapGrid; split <;> rfl
@[simp] theorem State.mapGrid_bars (s : State) (h : Nat) (f : Grid → Grid) : (s.mapGrid h f).bars = s.bars := by unfold State.mapGrid; split <;> rfl
@[simp] theorem State.mapGrid_clusters (s : State) (h : Nat) (f : Grid → Grid) : (s.mapGrid h f).clusters = s.clusters := by unfold State.mapGrid; split <;> rfl
@[simp] theorem State.mapGrid_cores (s : State) (h : Nat) (f : Grid → Grid) : (s.mapGrid h f).cores = s.cores := by unfold State.mapGrid; split <;> rfl
@[simp] theorem State.mapGrid_dram (s : State) (h : Nat) (f : Grid → Grid) : (s.mapGrid h f).dram = s.dram := by unfold State.mapGrid; split <;> rfl
@[simp] theorem State.mapGrid_poison (s : State) (h : Nat) (f : Grid → Grid) : (s.mapGrid h f).poison = s.poison := by unfold State.mapGrid; split <;> rfl
@[simp] theorem State.mapGrid_l2 (s : State) (h : Nat) (f : Grid → Grid) : (s.mapGrid h f).l2 = s.l2 := by unfold State.mapGrid; split <;> rfl
@[simp] theorem State.mapGrid_writes (s : State) (h : Nat) (f : Grid → Grid) : (s.mapGrid h f).writes = s.writes := by unfold State.mapGrid; split <;> rfl
@[simp] theorem State.mapGrid_fills (s : State) (h : Nat) (f : Grid → Grid) : (s.mapGrid h f).fills = s.fills := by unfold State.mapGrid; split <;> rfl
@[simp] theorem State.mapGrid_waiters (s : State) (h : Nat) (f : Grid → Grid) : (s.mapGrid h f).waiters = s.waiters := by unfold State.mapGrid; split <;> rfl
@[simp] theorem State.mapGrid_ranges (s : State) (h : Nat) (f : Grid → Grid) : (s.mapGrid h f).ranges = s.ranges := by unfold State.mapGrid; split <;> rfl
@[simp] theorem State.mapGrid_tlb (s : State) (h : Nat) (f : Grid → Grid) : (s.mapGrid h f).tlb = s.tlb := by unfold State.mapGrid; split <;> rfl
@[simp] theorem State.mapGrid_rct (s : State) (h : Nat) (f : Grid → Grid) : (s.mapGrid h f).rct = s.rct := by unfold State.mapGrid; split <;> rfl
@[simp] theorem State.mapGrid_mgmt (s : State) (h : Nat) (f : Grid → Grid) : (s.mapGrid h f).mgmt = s.mgmt := by unfold State.mapGrid; split <;> rfl
@[simp] theorem State.mapGrid_meas (s : State) (h : Nat) (f : Grid → Grid) : (s.mapGrid h f).meas = s.meas := by unfold State.mapGrid; split <;> rfl
@[simp] theorem State.mapGrid_leaf (s : State) (h : Nat) (f : Grid → Grid) : (s.mapGrid h f).leaf = s.leaf := by unfold State.mapGrid; split <;> rfl
@[simp] theorem State.mapGrid_otp (s : State) (h : Nat) (f : Grid → Grid) : (s.mapGrid h f).otp = s.otp := by unfold State.mapGrid; split <;> rfl
@[simp] theorem State.mapGrid_launches (s : State) (h : Nat) (f : Grid → Grid) : (s.mapGrid h f).launches = s.launches := by unfold State.mapGrid; split <;> rfl
@[simp] theorem State.mapGrid_badQueues (s : State) (h : Nat) (f : Grid → Grid) : (s.mapGrid h f).badQueues = s.badQueues := by unfold State.mapGrid; split <;> rfl
@[simp] theorem State.mapGrid_singles (s : State) (h : Nat) (f : Grid → Grid) : (s.mapGrid h f).singles = s.singles := by unfold State.mapGrid; split <;> rfl
@[simp] theorem State.mapGrid_lastQueue (s : State) (h : Nat) (f : Grid → Grid) : (s.mapGrid h f).lastQueue = s.lastQueue := by unfold State.mapGrid; split <;> rfl
@[simp] theorem State.mapGrid_packets (s : State) (h : Nat) (f : Grid → Grid) : (s.mapGrid h f).packets = s.packets := by unfold State.mapGrid; split <;> rfl
@[simp] theorem State.mapGrid_droverTurn (s : State) (h : Nat) (f : Grid → Grid) : (s.mapGrid h f).droverTurn = s.droverTurn := by unfold State.mapGrid; split <;> rfl
@[simp] theorem State.mapGrid_chans (s : State) (h : Nat) (f : Grid → Grid) : (s.mapGrid h f).chans = s.chans := by unfold State.mapGrid; split <;> rfl
@[simp] theorem State.mapGrid_searches (s : State) (h : Nat) (f : Grid → Grid) : (s.mapGrid h f).searches = s.searches := by unfold State.mapGrid; split <;> rfl
@[simp] theorem State.mapGrid_pinDrops (s : State) (h : Nat) (f : Grid → Grid) : (s.mapGrid h f).pinDrops = s.pinDrops := by unfold State.mapGrid; split <;> rfl
@[simp] theorem State.mapGrid_filter (s : State) (h : Nat) (f : Grid → Grid) : (s.mapGrid h f).filter = s.filter := by unfold State.mapGrid; split <;> rfl
@[simp] theorem State.mapGrid_frees (s : State) (h : Nat) (f : Grid → Grid) : (s.mapGrid h f).frees = s.frees := by unfold State.mapGrid; split <;> rfl
@[simp] theorem State.mapGrid_heq (s : State) (h : Nat) (f : Grid → Grid) : (s.mapGrid h f).heq = s.heq := by unfold State.mapGrid; split <;> rfl
@[simp] theorem State.mapGrid_heqSlot (s : State) (h : Nat) (f : Grid → Grid) : (s.mapGrid h f).heqSlot = s.heqSlot := by unfold State.mapGrid; split <;> rfl
@[simp] theorem State.mapGrid_recordEnds (s : State) (h : Nat) (f : Grid → Grid) : (s.mapGrid h f).recordEnds = s.recordEnds := by unfold State.mapGrid; split <;> rfl
@[simp] theorem State.mapGrid_kills (s : State) (h : Nat) (f : Grid → Grid) : (s.mapGrid h f).kills = s.kills := by unfold State.mapGrid; split <;> rfl
@[simp] theorem State.mapGrid_escs (s : State) (h : Nat) (f : Grid → Grid) : (s.mapGrid h f).escs = s.escs := by unfold State.mapGrid; split <;> rfl
@[simp] theorem State.mapGrid_nextTag (s : State) (h : Nat) (f : Grid → Grid) : (s.mapGrid h f).nextTag = s.nextTag := by unfold State.mapGrid; split <;> rfl
@[simp] theorem State.mapGrid_linkUp (s : State) (h : Nat) (f : Grid → Grid) : (s.mapGrid h f).linkUp = s.linkUp := by unfold State.mapGrid; split <;> rfl
@[simp] theorem State.mapGrid_bridge (s : State) (h : Nat) (f : Grid → Grid) : (s.mapGrid h f).bridge = s.bridge := by unfold State.mapGrid; split <;> rfl
@[simp] theorem State.mapGrid_halves (s : State) (h : Nat) (f : Grid → Grid) : (s.mapGrid h f).halves = s.halves := by unfold State.mapGrid; split <;> rfl
@[simp] theorem State.mapGrid_hostLines (s : State) (h : Nat) (f : Grid → Grid) : (s.mapGrid h f).hostLines = s.hostLines := by unfold State.mapGrid; split <;> rfl
@[simp] theorem State.mapGrid_hostOut (s : State) (h : Nat) (f : Grid → Grid) : (s.mapGrid h f).hostOut = s.hostOut := by unfold State.mapGrid; split <;> rfl
@[simp] theorem State.mapGrid_peerOut (s : State) (h : Nat) (f : Grid → Grid) : (s.mapGrid h f).peerOut = s.peerOut := by unfold State.mapGrid; split <;> rfl
@[simp] theorem State.mapGrid_inbound (s : State) (h : Nat) (f : Grid → Grid) : (s.mapGrid h f).inbound = s.inbound := by unfold State.mapGrid; split <;> rfl
@[simp] theorem State.mapGrid_inboundBytes (s : State) (h : Nat) (f : Grid → Grid) : (s.mapGrid h f).inboundBytes = s.inboundBytes := by unfold State.mapGrid; split <;> rfl
@[simp] theorem State.mapGrid_inboundRefused (s : State) (h : Nat) (f : Grid → Grid) : (s.mapGrid h f).inboundRefused = s.inboundRefused := by unfold State.mapGrid; split <;> rfl
@[simp] theorem State.mapGrid_portsDown (s : State) (h : Nat) (f : Grid → Grid) : (s.mapGrid h f).portsDown = s.portsDown := by unfold State.mapGrid; split <;> rfl
@[simp] theorem State.mapGrid_aborts (s : State) (h : Nat) (f : Grid → Grid) : (s.mapGrid h f).aborts = s.aborts := by unfold State.mapGrid; split <;> rfl
@[simp] theorem State.mapGrid_stopped (s : State) (h : Nat) (f : Grid → Grid) : (s.mapGrid h f).stopped = s.stopped := by unfold State.mapGrid; split <;> rfl
@[simp] theorem State.mapGrid_killed (s : State) (h : Nat) (f : Grid → Grid) : (s.mapGrid h f).killed = s.killed := by unfold State.mapGrid; split <;> rfl
@[simp] theorem State.mapGrid_hot (s : State) (h : Nat) (f : Grid → Grid) : (s.mapGrid h f).hot = s.hot := by unfold State.mapGrid; split <;> rfl
@[simp] theorem State.mapGrid_agenda (s : State) (h : Nat) (f : Grid → Grid) : (s.mapGrid h f).agenda = s.agenda := by unfold State.mapGrid; split <;> rfl
@[simp] theorem State.mapGrid_inputs (s : State) (h : Nat) (f : Grid → Grid) : (s.mapGrid h f).inputs = s.inputs := by unfold State.mapGrid; split <;> rfl
@[simp] theorem State.mapCore_tick (s : State) (c : Nat) (f : CoreState → CoreState) : (s.mapCore c f).tick = s.tick := rfl
@[simp] theorem State.mapCore_clk (s : State) (c : Nat) (f : CoreState → CoreState) : (s.mapCore c f).clk = s.clk := rfl
@[simp] theorem State.mapCore_powered (s : State) (c : Nat) (f : CoreState → CoreState) : (s.mapCore c f).powered = s.powered := rfl
@[simp] theorem State.mapCore_bootFailed (s : State) (c : Nat) (f : CoreState → CoreState) : (s.mapCore c f).bootFailed = s.bootFailed := rfl
@[simp] theorem State.mapCore_nextHandle (s : State) (c : Nat) (f : CoreState → CoreState) : (s.mapCore c f).nextHandle = s.nextHandle := rfl
@[simp] theorem State.mapCore_nextId (s : State) (c : Nat) (f : CoreState → CoreState) : (s.mapCore c f).nextId = s.nextId := rfl
@[simp] theorem State.mapCore_cur (s : State) (c : Nat) (f : CoreState → CoreState) : (s.mapCore c f).cur = s.cur := rfl
@[simp] theorem State.mapCore_teams (s : State) (c : Nat) (f : CoreState → CoreState) : (s.mapCore c f).teams = s.teams := rfl
@[simp] theorem State.mapCore_crews (s : State) (c : Nat) (f : CoreState → CoreState) : (s.mapCore c f).crews = s.crews := rfl
@[simp] theorem State.mapCore_grids (s : State) (c : Nat) (f : CoreState → CoreState) : (s.mapCore c f).grids = s.grids := rfl
@[simp] theorem State.mapCore_insts (s : State) (c : Nat) (f : CoreState → CoreState) : (s.mapCore c f).insts = s.insts := rfl
@[simp] theorem State.mapCore_bars (s : State) (c : Nat) (f : CoreState → CoreState) : (s.mapCore c f).bars = s.bars := rfl
@[simp] theorem State.mapCore_clusters (s : State) (c : Nat) (f : CoreState → CoreState) : (s.mapCore c f).clusters = s.clusters := rfl
@[simp] theorem State.mapCore_dram (s : State) (c : Nat) (f : CoreState → CoreState) : (s.mapCore c f).dram = s.dram := rfl
@[simp] theorem State.mapCore_poison (s : State) (c : Nat) (f : CoreState → CoreState) : (s.mapCore c f).poison = s.poison := rfl
@[simp] theorem State.mapCore_l2 (s : State) (c : Nat) (f : CoreState → CoreState) : (s.mapCore c f).l2 = s.l2 := rfl
@[simp] theorem State.mapCore_writes (s : State) (c : Nat) (f : CoreState → CoreState) : (s.mapCore c f).writes = s.writes := rfl
@[simp] theorem State.mapCore_fills (s : State) (c : Nat) (f : CoreState → CoreState) : (s.mapCore c f).fills = s.fills := rfl
@[simp] theorem State.mapCore_waiters (s : State) (c : Nat) (f : CoreState → CoreState) : (s.mapCore c f).waiters = s.waiters := rfl
@[simp] theorem State.mapCore_ranges (s : State) (c : Nat) (f : CoreState → CoreState) : (s.mapCore c f).ranges = s.ranges := rfl
@[simp] theorem State.mapCore_tlb (s : State) (c : Nat) (f : CoreState → CoreState) : (s.mapCore c f).tlb = s.tlb := rfl
@[simp] theorem State.mapCore_rct (s : State) (c : Nat) (f : CoreState → CoreState) : (s.mapCore c f).rct = s.rct := rfl
@[simp] theorem State.mapCore_mgmt (s : State) (c : Nat) (f : CoreState → CoreState) : (s.mapCore c f).mgmt = s.mgmt := rfl
@[simp] theorem State.mapCore_meas (s : State) (c : Nat) (f : CoreState → CoreState) : (s.mapCore c f).meas = s.meas := rfl
@[simp] theorem State.mapCore_leaf (s : State) (c : Nat) (f : CoreState → CoreState) : (s.mapCore c f).leaf = s.leaf := rfl
@[simp] theorem State.mapCore_otp (s : State) (c : Nat) (f : CoreState → CoreState) : (s.mapCore c f).otp = s.otp := rfl
@[simp] theorem State.mapCore_launches (s : State) (c : Nat) (f : CoreState → CoreState) : (s.mapCore c f).launches = s.launches := rfl
@[simp] theorem State.mapCore_badQueues (s : State) (c : Nat) (f : CoreState → CoreState) : (s.mapCore c f).badQueues = s.badQueues := rfl
@[simp] theorem State.mapCore_singles (s : State) (c : Nat) (f : CoreState → CoreState) : (s.mapCore c f).singles = s.singles := rfl
@[simp] theorem State.mapCore_lastQueue (s : State) (c : Nat) (f : CoreState → CoreState) : (s.mapCore c f).lastQueue = s.lastQueue := rfl
@[simp] theorem State.mapCore_packets (s : State) (c : Nat) (f : CoreState → CoreState) : (s.mapCore c f).packets = s.packets := rfl
@[simp] theorem State.mapCore_droverTurn (s : State) (c : Nat) (f : CoreState → CoreState) : (s.mapCore c f).droverTurn = s.droverTurn := rfl
@[simp] theorem State.mapCore_chans (s : State) (c : Nat) (f : CoreState → CoreState) : (s.mapCore c f).chans = s.chans := rfl
@[simp] theorem State.mapCore_searches (s : State) (c : Nat) (f : CoreState → CoreState) : (s.mapCore c f).searches = s.searches := rfl
@[simp] theorem State.mapCore_pinDrops (s : State) (c : Nat) (f : CoreState → CoreState) : (s.mapCore c f).pinDrops = s.pinDrops := rfl
@[simp] theorem State.mapCore_filter (s : State) (c : Nat) (f : CoreState → CoreState) : (s.mapCore c f).filter = s.filter := rfl
@[simp] theorem State.mapCore_frees (s : State) (c : Nat) (f : CoreState → CoreState) : (s.mapCore c f).frees = s.frees := rfl
@[simp] theorem State.mapCore_heq (s : State) (c : Nat) (f : CoreState → CoreState) : (s.mapCore c f).heq = s.heq := rfl
@[simp] theorem State.mapCore_heqSlot (s : State) (c : Nat) (f : CoreState → CoreState) : (s.mapCore c f).heqSlot = s.heqSlot := rfl
@[simp] theorem State.mapCore_recordEnds (s : State) (c : Nat) (f : CoreState → CoreState) : (s.mapCore c f).recordEnds = s.recordEnds := rfl
@[simp] theorem State.mapCore_kills (s : State) (c : Nat) (f : CoreState → CoreState) : (s.mapCore c f).kills = s.kills := rfl
@[simp] theorem State.mapCore_escs (s : State) (c : Nat) (f : CoreState → CoreState) : (s.mapCore c f).escs = s.escs := rfl
@[simp] theorem State.mapCore_nextTag (s : State) (c : Nat) (f : CoreState → CoreState) : (s.mapCore c f).nextTag = s.nextTag := rfl
@[simp] theorem State.mapCore_linkUp (s : State) (c : Nat) (f : CoreState → CoreState) : (s.mapCore c f).linkUp = s.linkUp := rfl
@[simp] theorem State.mapCore_bridge (s : State) (c : Nat) (f : CoreState → CoreState) : (s.mapCore c f).bridge = s.bridge := rfl
@[simp] theorem State.mapCore_halves (s : State) (c : Nat) (f : CoreState → CoreState) : (s.mapCore c f).halves = s.halves := rfl
@[simp] theorem State.mapCore_hostLines (s : State) (c : Nat) (f : CoreState → CoreState) : (s.mapCore c f).hostLines = s.hostLines := rfl
@[simp] theorem State.mapCore_hostOut (s : State) (c : Nat) (f : CoreState → CoreState) : (s.mapCore c f).hostOut = s.hostOut := rfl
@[simp] theorem State.mapCore_peerOut (s : State) (c : Nat) (f : CoreState → CoreState) : (s.mapCore c f).peerOut = s.peerOut := rfl
@[simp] theorem State.mapCore_inbound (s : State) (c : Nat) (f : CoreState → CoreState) : (s.mapCore c f).inbound = s.inbound := rfl
@[simp] theorem State.mapCore_inboundBytes (s : State) (c : Nat) (f : CoreState → CoreState) : (s.mapCore c f).inboundBytes = s.inboundBytes := rfl
@[simp] theorem State.mapCore_inboundRefused (s : State) (c : Nat) (f : CoreState → CoreState) : (s.mapCore c f).inboundRefused = s.inboundRefused := rfl
@[simp] theorem State.mapCore_portsDown (s : State) (c : Nat) (f : CoreState → CoreState) : (s.mapCore c f).portsDown = s.portsDown := rfl
@[simp] theorem State.mapCore_aborts (s : State) (c : Nat) (f : CoreState → CoreState) : (s.mapCore c f).aborts = s.aborts := rfl
@[simp] theorem State.mapCore_stopped (s : State) (c : Nat) (f : CoreState → CoreState) : (s.mapCore c f).stopped = s.stopped := rfl
@[simp] theorem State.mapCore_killed (s : State) (c : Nat) (f : CoreState → CoreState) : (s.mapCore c f).killed = s.killed := rfl
@[simp] theorem State.mapCore_hot (s : State) (c : Nat) (f : CoreState → CoreState) : (s.mapCore c f).hot = s.hot := rfl
@[simp] theorem State.mapCore_agenda (s : State) (c : Nat) (f : CoreState → CoreState) : (s.mapCore c f).agenda = s.agenda := rfl
@[simp] theorem State.mapCore_inputs (s : State) (c : Nat) (f : CoreState → CoreState) : (s.mapCore c f).inputs = s.inputs := rfl
@[simp] theorem State.mapCluster_tick (s : State) (c : Nat) (f : Cluster → Cluster) : (s.mapCluster c f).tick = s.tick := rfl
@[simp] theorem State.mapCluster_clk (s : State) (c : Nat) (f : Cluster → Cluster) : (s.mapCluster c f).clk = s.clk := rfl
@[simp] theorem State.mapCluster_powered (s : State) (c : Nat) (f : Cluster → Cluster) : (s.mapCluster c f).powered = s.powered := rfl
@[simp] theorem State.mapCluster_bootFailed (s : State) (c : Nat) (f : Cluster → Cluster) : (s.mapCluster c f).bootFailed = s.bootFailed := rfl
@[simp] theorem State.mapCluster_nextHandle (s : State) (c : Nat) (f : Cluster → Cluster) : (s.mapCluster c f).nextHandle = s.nextHandle := rfl
@[simp] theorem State.mapCluster_nextId (s : State) (c : Nat) (f : Cluster → Cluster) : (s.mapCluster c f).nextId = s.nextId := rfl
@[simp] theorem State.mapCluster_cur (s : State) (c : Nat) (f : Cluster → Cluster) : (s.mapCluster c f).cur = s.cur := rfl
@[simp] theorem State.mapCluster_teams (s : State) (c : Nat) (f : Cluster → Cluster) : (s.mapCluster c f).teams = s.teams := rfl
@[simp] theorem State.mapCluster_crews (s : State) (c : Nat) (f : Cluster → Cluster) : (s.mapCluster c f).crews = s.crews := rfl
@[simp] theorem State.mapCluster_grids (s : State) (c : Nat) (f : Cluster → Cluster) : (s.mapCluster c f).grids = s.grids := rfl
@[simp] theorem State.mapCluster_insts (s : State) (c : Nat) (f : Cluster → Cluster) : (s.mapCluster c f).insts = s.insts := rfl
@[simp] theorem State.mapCluster_bars (s : State) (c : Nat) (f : Cluster → Cluster) : (s.mapCluster c f).bars = s.bars := rfl
@[simp] theorem State.mapCluster_cores (s : State) (c : Nat) (f : Cluster → Cluster) : (s.mapCluster c f).cores = s.cores := rfl
@[simp] theorem State.mapCluster_dram (s : State) (c : Nat) (f : Cluster → Cluster) : (s.mapCluster c f).dram = s.dram := rfl
@[simp] theorem State.mapCluster_poison (s : State) (c : Nat) (f : Cluster → Cluster) : (s.mapCluster c f).poison = s.poison := rfl
@[simp] theorem State.mapCluster_l2 (s : State) (c : Nat) (f : Cluster → Cluster) : (s.mapCluster c f).l2 = s.l2 := rfl
@[simp] theorem State.mapCluster_writes (s : State) (c : Nat) (f : Cluster → Cluster) : (s.mapCluster c f).writes = s.writes := rfl
@[simp] theorem State.mapCluster_fills (s : State) (c : Nat) (f : Cluster → Cluster) : (s.mapCluster c f).fills = s.fills := rfl
@[simp] theorem State.mapCluster_waiters (s : State) (c : Nat) (f : Cluster → Cluster) : (s.mapCluster c f).waiters = s.waiters := rfl
@[simp] theorem State.mapCluster_ranges (s : State) (c : Nat) (f : Cluster → Cluster) : (s.mapCluster c f).ranges = s.ranges := rfl
@[simp] theorem State.mapCluster_tlb (s : State) (c : Nat) (f : Cluster → Cluster) : (s.mapCluster c f).tlb = s.tlb := rfl
@[simp] theorem State.mapCluster_rct (s : State) (c : Nat) (f : Cluster → Cluster) : (s.mapCluster c f).rct = s.rct := rfl
@[simp] theorem State.mapCluster_mgmt (s : State) (c : Nat) (f : Cluster → Cluster) : (s.mapCluster c f).mgmt = s.mgmt := rfl
@[simp] theorem State.mapCluster_meas (s : State) (c : Nat) (f : Cluster → Cluster) : (s.mapCluster c f).meas = s.meas := rfl
@[simp] theorem State.mapCluster_leaf (s : State) (c : Nat) (f : Cluster → Cluster) : (s.mapCluster c f).leaf = s.leaf := rfl
@[simp] theorem State.mapCluster_otp (s : State) (c : Nat) (f : Cluster → Cluster) : (s.mapCluster c f).otp = s.otp := rfl
@[simp] theorem State.mapCluster_launches (s : State) (c : Nat) (f : Cluster → Cluster) : (s.mapCluster c f).launches = s.launches := rfl
@[simp] theorem State.mapCluster_badQueues (s : State) (c : Nat) (f : Cluster → Cluster) : (s.mapCluster c f).badQueues = s.badQueues := rfl
@[simp] theorem State.mapCluster_singles (s : State) (c : Nat) (f : Cluster → Cluster) : (s.mapCluster c f).singles = s.singles := rfl
@[simp] theorem State.mapCluster_lastQueue (s : State) (c : Nat) (f : Cluster → Cluster) : (s.mapCluster c f).lastQueue = s.lastQueue := rfl
@[simp] theorem State.mapCluster_packets (s : State) (c : Nat) (f : Cluster → Cluster) : (s.mapCluster c f).packets = s.packets := rfl
@[simp] theorem State.mapCluster_droverTurn (s : State) (c : Nat) (f : Cluster → Cluster) : (s.mapCluster c f).droverTurn = s.droverTurn := rfl
@[simp] theorem State.mapCluster_chans (s : State) (c : Nat) (f : Cluster → Cluster) : (s.mapCluster c f).chans = s.chans := rfl
@[simp] theorem State.mapCluster_searches (s : State) (c : Nat) (f : Cluster → Cluster) : (s.mapCluster c f).searches = s.searches := rfl
@[simp] theorem State.mapCluster_pinDrops (s : State) (c : Nat) (f : Cluster → Cluster) : (s.mapCluster c f).pinDrops = s.pinDrops := rfl
@[simp] theorem State.mapCluster_filter (s : State) (c : Nat) (f : Cluster → Cluster) : (s.mapCluster c f).filter = s.filter := rfl
@[simp] theorem State.mapCluster_frees (s : State) (c : Nat) (f : Cluster → Cluster) : (s.mapCluster c f).frees = s.frees := rfl
@[simp] theorem State.mapCluster_heq (s : State) (c : Nat) (f : Cluster → Cluster) : (s.mapCluster c f).heq = s.heq := rfl
@[simp] theorem State.mapCluster_heqSlot (s : State) (c : Nat) (f : Cluster → Cluster) : (s.mapCluster c f).heqSlot = s.heqSlot := rfl
@[simp] theorem State.mapCluster_recordEnds (s : State) (c : Nat) (f : Cluster → Cluster) : (s.mapCluster c f).recordEnds = s.recordEnds := rfl
@[simp] theorem State.mapCluster_kills (s : State) (c : Nat) (f : Cluster → Cluster) : (s.mapCluster c f).kills = s.kills := rfl
@[simp] theorem State.mapCluster_escs (s : State) (c : Nat) (f : Cluster → Cluster) : (s.mapCluster c f).escs = s.escs := rfl
@[simp] theorem State.mapCluster_nextTag (s : State) (c : Nat) (f : Cluster → Cluster) : (s.mapCluster c f).nextTag = s.nextTag := rfl
@[simp] theorem State.mapCluster_linkUp (s : State) (c : Nat) (f : Cluster → Cluster) : (s.mapCluster c f).linkUp = s.linkUp := rfl
@[simp] theorem State.mapCluster_bridge (s : State) (c : Nat) (f : Cluster → Cluster) : (s.mapCluster c f).bridge = s.bridge := rfl
@[simp] theorem State.mapCluster_halves (s : State) (c : Nat) (f : Cluster → Cluster) : (s.mapCluster c f).halves = s.halves := rfl
@[simp] theorem State.mapCluster_hostLines (s : State) (c : Nat) (f : Cluster → Cluster) : (s.mapCluster c f).hostLines = s.hostLines := rfl
@[simp] theorem State.mapCluster_hostOut (s : State) (c : Nat) (f : Cluster → Cluster) : (s.mapCluster c f).hostOut = s.hostOut := rfl
@[simp] theorem State.mapCluster_peerOut (s : State) (c : Nat) (f : Cluster → Cluster) : (s.mapCluster c f).peerOut = s.peerOut := rfl
@[simp] theorem State.mapCluster_inbound (s : State) (c : Nat) (f : Cluster → Cluster) : (s.mapCluster c f).inbound = s.inbound := rfl
@[simp] theorem State.mapCluster_inboundBytes (s : State) (c : Nat) (f : Cluster → Cluster) : (s.mapCluster c f).inboundBytes = s.inboundBytes := rfl
@[simp] theorem State.mapCluster_inboundRefused (s : State) (c : Nat) (f : Cluster → Cluster) : (s.mapCluster c f).inboundRefused = s.inboundRefused := rfl
@[simp] theorem State.mapCluster_portsDown (s : State) (c : Nat) (f : Cluster → Cluster) : (s.mapCluster c f).portsDown = s.portsDown := rfl
@[simp] theorem State.mapCluster_aborts (s : State) (c : Nat) (f : Cluster → Cluster) : (s.mapCluster c f).aborts = s.aborts := rfl
@[simp] theorem State.mapCluster_stopped (s : State) (c : Nat) (f : Cluster → Cluster) : (s.mapCluster c f).stopped = s.stopped := rfl
@[simp] theorem State.mapCluster_killed (s : State) (c : Nat) (f : Cluster → Cluster) : (s.mapCluster c f).killed = s.killed := rfl
@[simp] theorem State.mapCluster_hot (s : State) (c : Nat) (f : Cluster → Cluster) : (s.mapCluster c f).hot = s.hot := rfl
@[simp] theorem State.mapCluster_agenda (s : State) (c : Nat) (f : Cluster → Cluster) : (s.mapCluster c f).agenda = s.agenda := rfl
@[simp] theorem State.mapCluster_inputs (s : State) (c : Nat) (f : Cluster → Cluster) : (s.mapCluster c f).inputs = s.inputs := rfl
@[simp] theorem State.mapEngine_tick (s : State) (e : Nat) (f : ChanEngine → ChanEngine) : (s.mapEngine e f).tick = s.tick := rfl
@[simp] theorem State.mapEngine_clk (s : State) (e : Nat) (f : ChanEngine → ChanEngine) : (s.mapEngine e f).clk = s.clk := rfl
@[simp] theorem State.mapEngine_powered (s : State) (e : Nat) (f : ChanEngine → ChanEngine) : (s.mapEngine e f).powered = s.powered := rfl
@[simp] theorem State.mapEngine_bootFailed (s : State) (e : Nat) (f : ChanEngine → ChanEngine) : (s.mapEngine e f).bootFailed = s.bootFailed := rfl
@[simp] theorem State.mapEngine_nextHandle (s : State) (e : Nat) (f : ChanEngine → ChanEngine) : (s.mapEngine e f).nextHandle = s.nextHandle := rfl
@[simp] theorem State.mapEngine_nextId (s : State) (e : Nat) (f : ChanEngine → ChanEngine) : (s.mapEngine e f).nextId = s.nextId := rfl
@[simp] theorem State.mapEngine_cur (s : State) (e : Nat) (f : ChanEngine → ChanEngine) : (s.mapEngine e f).cur = s.cur := rfl
@[simp] theorem State.mapEngine_teams (s : State) (e : Nat) (f : ChanEngine → ChanEngine) : (s.mapEngine e f).teams = s.teams := rfl
@[simp] theorem State.mapEngine_crews (s : State) (e : Nat) (f : ChanEngine → ChanEngine) : (s.mapEngine e f).crews = s.crews := rfl
@[simp] theorem State.mapEngine_grids (s : State) (e : Nat) (f : ChanEngine → ChanEngine) : (s.mapEngine e f).grids = s.grids := rfl
@[simp] theorem State.mapEngine_insts (s : State) (e : Nat) (f : ChanEngine → ChanEngine) : (s.mapEngine e f).insts = s.insts := rfl
@[simp] theorem State.mapEngine_bars (s : State) (e : Nat) (f : ChanEngine → ChanEngine) : (s.mapEngine e f).bars = s.bars := rfl
@[simp] theorem State.mapEngine_clusters (s : State) (e : Nat) (f : ChanEngine → ChanEngine) : (s.mapEngine e f).clusters = s.clusters := rfl
@[simp] theorem State.mapEngine_cores (s : State) (e : Nat) (f : ChanEngine → ChanEngine) : (s.mapEngine e f).cores = s.cores := rfl
@[simp] theorem State.mapEngine_dram (s : State) (e : Nat) (f : ChanEngine → ChanEngine) : (s.mapEngine e f).dram = s.dram := rfl
@[simp] theorem State.mapEngine_poison (s : State) (e : Nat) (f : ChanEngine → ChanEngine) : (s.mapEngine e f).poison = s.poison := rfl
@[simp] theorem State.mapEngine_l2 (s : State) (e : Nat) (f : ChanEngine → ChanEngine) : (s.mapEngine e f).l2 = s.l2 := rfl
@[simp] theorem State.mapEngine_writes (s : State) (e : Nat) (f : ChanEngine → ChanEngine) : (s.mapEngine e f).writes = s.writes := rfl
@[simp] theorem State.mapEngine_fills (s : State) (e : Nat) (f : ChanEngine → ChanEngine) : (s.mapEngine e f).fills = s.fills := rfl
@[simp] theorem State.mapEngine_waiters (s : State) (e : Nat) (f : ChanEngine → ChanEngine) : (s.mapEngine e f).waiters = s.waiters := rfl
@[simp] theorem State.mapEngine_ranges (s : State) (e : Nat) (f : ChanEngine → ChanEngine) : (s.mapEngine e f).ranges = s.ranges := rfl
@[simp] theorem State.mapEngine_tlb (s : State) (e : Nat) (f : ChanEngine → ChanEngine) : (s.mapEngine e f).tlb = s.tlb := rfl
@[simp] theorem State.mapEngine_rct (s : State) (e : Nat) (f : ChanEngine → ChanEngine) : (s.mapEngine e f).rct = s.rct := rfl
@[simp] theorem State.mapEngine_mgmt (s : State) (e : Nat) (f : ChanEngine → ChanEngine) : (s.mapEngine e f).mgmt = s.mgmt := rfl
@[simp] theorem State.mapEngine_meas (s : State) (e : Nat) (f : ChanEngine → ChanEngine) : (s.mapEngine e f).meas = s.meas := rfl
@[simp] theorem State.mapEngine_leaf (s : State) (e : Nat) (f : ChanEngine → ChanEngine) : (s.mapEngine e f).leaf = s.leaf := rfl
@[simp] theorem State.mapEngine_otp (s : State) (e : Nat) (f : ChanEngine → ChanEngine) : (s.mapEngine e f).otp = s.otp := rfl
@[simp] theorem State.mapEngine_launches (s : State) (e : Nat) (f : ChanEngine → ChanEngine) : (s.mapEngine e f).launches = s.launches := rfl
@[simp] theorem State.mapEngine_badQueues (s : State) (e : Nat) (f : ChanEngine → ChanEngine) : (s.mapEngine e f).badQueues = s.badQueues := rfl
@[simp] theorem State.mapEngine_singles (s : State) (e : Nat) (f : ChanEngine → ChanEngine) : (s.mapEngine e f).singles = s.singles := rfl
@[simp] theorem State.mapEngine_lastQueue (s : State) (e : Nat) (f : ChanEngine → ChanEngine) : (s.mapEngine e f).lastQueue = s.lastQueue := rfl
@[simp] theorem State.mapEngine_packets (s : State) (e : Nat) (f : ChanEngine → ChanEngine) : (s.mapEngine e f).packets = s.packets := rfl
@[simp] theorem State.mapEngine_droverTurn (s : State) (e : Nat) (f : ChanEngine → ChanEngine) : (s.mapEngine e f).droverTurn = s.droverTurn := rfl
@[simp] theorem State.mapEngine_searches (s : State) (e : Nat) (f : ChanEngine → ChanEngine) : (s.mapEngine e f).searches = s.searches := rfl
@[simp] theorem State.mapEngine_pinDrops (s : State) (e : Nat) (f : ChanEngine → ChanEngine) : (s.mapEngine e f).pinDrops = s.pinDrops := rfl
@[simp] theorem State.mapEngine_filter (s : State) (e : Nat) (f : ChanEngine → ChanEngine) : (s.mapEngine e f).filter = s.filter := rfl
@[simp] theorem State.mapEngine_frees (s : State) (e : Nat) (f : ChanEngine → ChanEngine) : (s.mapEngine e f).frees = s.frees := rfl
@[simp] theorem State.mapEngine_heq (s : State) (e : Nat) (f : ChanEngine → ChanEngine) : (s.mapEngine e f).heq = s.heq := rfl
@[simp] theorem State.mapEngine_heqSlot (s : State) (e : Nat) (f : ChanEngine → ChanEngine) : (s.mapEngine e f).heqSlot = s.heqSlot := rfl
@[simp] theorem State.mapEngine_recordEnds (s : State) (e : Nat) (f : ChanEngine → ChanEngine) : (s.mapEngine e f).recordEnds = s.recordEnds := rfl
@[simp] theorem State.mapEngine_kills (s : State) (e : Nat) (f : ChanEngine → ChanEngine) : (s.mapEngine e f).kills = s.kills := rfl
@[simp] theorem State.mapEngine_escs (s : State) (e : Nat) (f : ChanEngine → ChanEngine) : (s.mapEngine e f).escs = s.escs := rfl
@[simp] theorem State.mapEngine_nextTag (s : State) (e : Nat) (f : ChanEngine → ChanEngine) : (s.mapEngine e f).nextTag = s.nextTag := rfl
@[simp] theorem State.mapEngine_linkUp (s : State) (e : Nat) (f : ChanEngine → ChanEngine) : (s.mapEngine e f).linkUp = s.linkUp := rfl
@[simp] theorem State.mapEngine_bridge (s : State) (e : Nat) (f : ChanEngine → ChanEngine) : (s.mapEngine e f).bridge = s.bridge := rfl
@[simp] theorem State.mapEngine_halves (s : State) (e : Nat) (f : ChanEngine → ChanEngine) : (s.mapEngine e f).halves = s.halves := rfl
@[simp] theorem State.mapEngine_hostLines (s : State) (e : Nat) (f : ChanEngine → ChanEngine) : (s.mapEngine e f).hostLines = s.hostLines := rfl
@[simp] theorem State.mapEngine_hostOut (s : State) (e : Nat) (f : ChanEngine → ChanEngine) : (s.mapEngine e f).hostOut = s.hostOut := rfl
@[simp] theorem State.mapEngine_peerOut (s : State) (e : Nat) (f : ChanEngine → ChanEngine) : (s.mapEngine e f).peerOut = s.peerOut := rfl
@[simp] theorem State.mapEngine_inbound (s : State) (e : Nat) (f : ChanEngine → ChanEngine) : (s.mapEngine e f).inbound = s.inbound := rfl
@[simp] theorem State.mapEngine_inboundBytes (s : State) (e : Nat) (f : ChanEngine → ChanEngine) : (s.mapEngine e f).inboundBytes = s.inboundBytes := rfl
@[simp] theorem State.mapEngine_inboundRefused (s : State) (e : Nat) (f : ChanEngine → ChanEngine) : (s.mapEngine e f).inboundRefused = s.inboundRefused := rfl
@[simp] theorem State.mapEngine_portsDown (s : State) (e : Nat) (f : ChanEngine → ChanEngine) : (s.mapEngine e f).portsDown = s.portsDown := rfl
@[simp] theorem State.mapEngine_aborts (s : State) (e : Nat) (f : ChanEngine → ChanEngine) : (s.mapEngine e f).aborts = s.aborts := rfl
@[simp] theorem State.mapEngine_stopped (s : State) (e : Nat) (f : ChanEngine → ChanEngine) : (s.mapEngine e f).stopped = s.stopped := rfl
@[simp] theorem State.mapEngine_killed (s : State) (e : Nat) (f : ChanEngine → ChanEngine) : (s.mapEngine e f).killed = s.killed := rfl
@[simp] theorem State.mapEngine_hot (s : State) (e : Nat) (f : ChanEngine → ChanEngine) : (s.mapEngine e f).hot = s.hot := rfl
@[simp] theorem State.mapEngine_agenda (s : State) (e : Nat) (f : ChanEngine → ChanEngine) : (s.mapEngine e f).agenda = s.agenda := rfl
@[simp] theorem State.mapEngine_inputs (s : State) (e : Nat) (f : ChanEngine → ChanEngine) : (s.mapEngine e f).inputs = s.inputs := rfl
@[simp] theorem State.setReg_tick (s : State) (off : Nat) (v : BitVec 64) : (s.setReg off v).tick = s.tick := rfl
@[simp] theorem State.setReg_clk (s : State) (off : Nat) (v : BitVec 64) : (s.setReg off v).clk = s.clk := rfl
@[simp] theorem State.setReg_powered (s : State) (off : Nat) (v : BitVec 64) : (s.setReg off v).powered = s.powered := rfl
@[simp] theorem State.setReg_bootFailed (s : State) (off : Nat) (v : BitVec 64) : (s.setReg off v).bootFailed = s.bootFailed := rfl
@[simp] theorem State.setReg_nextHandle (s : State) (off : Nat) (v : BitVec 64) : (s.setReg off v).nextHandle = s.nextHandle := rfl
@[simp] theorem State.setReg_nextId (s : State) (off : Nat) (v : BitVec 64) : (s.setReg off v).nextId = s.nextId := rfl
@[simp] theorem State.setReg_cur (s : State) (off : Nat) (v : BitVec 64) : (s.setReg off v).cur = s.cur := rfl
@[simp] theorem State.setReg_teams (s : State) (off : Nat) (v : BitVec 64) : (s.setReg off v).teams = s.teams := rfl
@[simp] theorem State.setReg_crews (s : State) (off : Nat) (v : BitVec 64) : (s.setReg off v).crews = s.crews := rfl
@[simp] theorem State.setReg_grids (s : State) (off : Nat) (v : BitVec 64) : (s.setReg off v).grids = s.grids := rfl
@[simp] theorem State.setReg_insts (s : State) (off : Nat) (v : BitVec 64) : (s.setReg off v).insts = s.insts := rfl
@[simp] theorem State.setReg_bars (s : State) (off : Nat) (v : BitVec 64) : (s.setReg off v).bars = s.bars := rfl
@[simp] theorem State.setReg_clusters (s : State) (off : Nat) (v : BitVec 64) : (s.setReg off v).clusters = s.clusters := rfl
@[simp] theorem State.setReg_cores (s : State) (off : Nat) (v : BitVec 64) : (s.setReg off v).cores = s.cores := rfl
@[simp] theorem State.setReg_dram (s : State) (off : Nat) (v : BitVec 64) : (s.setReg off v).dram = s.dram := rfl
@[simp] theorem State.setReg_poison (s : State) (off : Nat) (v : BitVec 64) : (s.setReg off v).poison = s.poison := rfl
@[simp] theorem State.setReg_l2 (s : State) (off : Nat) (v : BitVec 64) : (s.setReg off v).l2 = s.l2 := rfl
@[simp] theorem State.setReg_writes (s : State) (off : Nat) (v : BitVec 64) : (s.setReg off v).writes = s.writes := rfl
@[simp] theorem State.setReg_fills (s : State) (off : Nat) (v : BitVec 64) : (s.setReg off v).fills = s.fills := rfl
@[simp] theorem State.setReg_waiters (s : State) (off : Nat) (v : BitVec 64) : (s.setReg off v).waiters = s.waiters := rfl
@[simp] theorem State.setReg_ranges (s : State) (off : Nat) (v : BitVec 64) : (s.setReg off v).ranges = s.ranges := rfl
@[simp] theorem State.setReg_tlb (s : State) (off : Nat) (v : BitVec 64) : (s.setReg off v).tlb = s.tlb := rfl
@[simp] theorem State.setReg_rct (s : State) (off : Nat) (v : BitVec 64) : (s.setReg off v).rct = s.rct := rfl
@[simp] theorem State.setReg_meas (s : State) (off : Nat) (v : BitVec 64) : (s.setReg off v).meas = s.meas := rfl
@[simp] theorem State.setReg_leaf (s : State) (off : Nat) (v : BitVec 64) : (s.setReg off v).leaf = s.leaf := rfl
@[simp] theorem State.setReg_otp (s : State) (off : Nat) (v : BitVec 64) : (s.setReg off v).otp = s.otp := rfl
@[simp] theorem State.setReg_launches (s : State) (off : Nat) (v : BitVec 64) : (s.setReg off v).launches = s.launches := rfl
@[simp] theorem State.setReg_badQueues (s : State) (off : Nat) (v : BitVec 64) : (s.setReg off v).badQueues = s.badQueues := rfl
@[simp] theorem State.setReg_singles (s : State) (off : Nat) (v : BitVec 64) : (s.setReg off v).singles = s.singles := rfl
@[simp] theorem State.setReg_lastQueue (s : State) (off : Nat) (v : BitVec 64) : (s.setReg off v).lastQueue = s.lastQueue := rfl
@[simp] theorem State.setReg_packets (s : State) (off : Nat) (v : BitVec 64) : (s.setReg off v).packets = s.packets := rfl
@[simp] theorem State.setReg_droverTurn (s : State) (off : Nat) (v : BitVec 64) : (s.setReg off v).droverTurn = s.droverTurn := rfl
@[simp] theorem State.setReg_chans (s : State) (off : Nat) (v : BitVec 64) : (s.setReg off v).chans = s.chans := rfl
@[simp] theorem State.setReg_searches (s : State) (off : Nat) (v : BitVec 64) : (s.setReg off v).searches = s.searches := rfl
@[simp] theorem State.setReg_pinDrops (s : State) (off : Nat) (v : BitVec 64) : (s.setReg off v).pinDrops = s.pinDrops := rfl
@[simp] theorem State.setReg_filter (s : State) (off : Nat) (v : BitVec 64) : (s.setReg off v).filter = s.filter := rfl
@[simp] theorem State.setReg_frees (s : State) (off : Nat) (v : BitVec 64) : (s.setReg off v).frees = s.frees := rfl
@[simp] theorem State.setReg_heq (s : State) (off : Nat) (v : BitVec 64) : (s.setReg off v).heq = s.heq := rfl
@[simp] theorem State.setReg_heqSlot (s : State) (off : Nat) (v : BitVec 64) : (s.setReg off v).heqSlot = s.heqSlot := rfl
@[simp] theorem State.setReg_recordEnds (s : State) (off : Nat) (v : BitVec 64) : (s.setReg off v).recordEnds = s.recordEnds := rfl
@[simp] theorem State.setReg_kills (s : State) (off : Nat) (v : BitVec 64) : (s.setReg off v).kills = s.kills := rfl
@[simp] theorem State.setReg_escs (s : State) (off : Nat) (v : BitVec 64) : (s.setReg off v).escs = s.escs := rfl
@[simp] theorem State.setReg_nextTag (s : State) (off : Nat) (v : BitVec 64) : (s.setReg off v).nextTag = s.nextTag := rfl
@[simp] theorem State.setReg_linkUp (s : State) (off : Nat) (v : BitVec 64) : (s.setReg off v).linkUp = s.linkUp := rfl
@[simp] theorem State.setReg_bridge (s : State) (off : Nat) (v : BitVec 64) : (s.setReg off v).bridge = s.bridge := rfl
@[simp] theorem State.setReg_halves (s : State) (off : Nat) (v : BitVec 64) : (s.setReg off v).halves = s.halves := rfl
@[simp] theorem State.setReg_hostLines (s : State) (off : Nat) (v : BitVec 64) : (s.setReg off v).hostLines = s.hostLines := rfl
@[simp] theorem State.setReg_hostOut (s : State) (off : Nat) (v : BitVec 64) : (s.setReg off v).hostOut = s.hostOut := rfl
@[simp] theorem State.setReg_peerOut (s : State) (off : Nat) (v : BitVec 64) : (s.setReg off v).peerOut = s.peerOut := rfl
@[simp] theorem State.setReg_inbound (s : State) (off : Nat) (v : BitVec 64) : (s.setReg off v).inbound = s.inbound := rfl
@[simp] theorem State.setReg_inboundBytes (s : State) (off : Nat) (v : BitVec 64) : (s.setReg off v).inboundBytes = s.inboundBytes := rfl
@[simp] theorem State.setReg_inboundRefused (s : State) (off : Nat) (v : BitVec 64) : (s.setReg off v).inboundRefused = s.inboundRefused := rfl
@[simp] theorem State.setReg_portsDown (s : State) (off : Nat) (v : BitVec 64) : (s.setReg off v).portsDown = s.portsDown := rfl
@[simp] theorem State.setReg_aborts (s : State) (off : Nat) (v : BitVec 64) : (s.setReg off v).aborts = s.aborts := rfl
@[simp] theorem State.setReg_stopped (s : State) (off : Nat) (v : BitVec 64) : (s.setReg off v).stopped = s.stopped := rfl
@[simp] theorem State.setReg_killed (s : State) (off : Nat) (v : BitVec 64) : (s.setReg off v).killed = s.killed := rfl
@[simp] theorem State.setReg_hot (s : State) (off : Nat) (v : BitVec 64) : (s.setReg off v).hot = s.hot := rfl
@[simp] theorem State.setReg_agenda (s : State) (off : Nat) (v : BitVec 64) : (s.setReg off v).agenda = s.agenda := rfl
@[simp] theorem State.setReg_inputs (s : State) (off : Nat) (v : BitVec 64) : (s.setReg off v).inputs = s.inputs := rfl
@[simp] theorem State.send_tick (s : State) (c : Chan) (ev : Instr) : (s.send c ev).tick = s.tick := rfl
@[simp] theorem State.send_clk (s : State) (c : Chan) (ev : Instr) : (s.send c ev).clk = s.clk := rfl
@[simp] theorem State.send_powered (s : State) (c : Chan) (ev : Instr) : (s.send c ev).powered = s.powered := rfl
@[simp] theorem State.send_bootFailed (s : State) (c : Chan) (ev : Instr) : (s.send c ev).bootFailed = s.bootFailed := rfl
@[simp] theorem State.send_nextHandle (s : State) (c : Chan) (ev : Instr) : (s.send c ev).nextHandle = s.nextHandle := rfl
@[simp] theorem State.send_nextId (s : State) (c : Chan) (ev : Instr) : (s.send c ev).nextId = s.nextId := rfl
@[simp] theorem State.send_cur (s : State) (c : Chan) (ev : Instr) : (s.send c ev).cur = s.cur := rfl
@[simp] theorem State.send_teams (s : State) (c : Chan) (ev : Instr) : (s.send c ev).teams = s.teams := rfl
@[simp] theorem State.send_crews (s : State) (c : Chan) (ev : Instr) : (s.send c ev).crews = s.crews := rfl
@[simp] theorem State.send_grids (s : State) (c : Chan) (ev : Instr) : (s.send c ev).grids = s.grids := rfl
@[simp] theorem State.send_insts (s : State) (c : Chan) (ev : Instr) : (s.send c ev).insts = s.insts := rfl
@[simp] theorem State.send_bars (s : State) (c : Chan) (ev : Instr) : (s.send c ev).bars = s.bars := rfl
@[simp] theorem State.send_clusters (s : State) (c : Chan) (ev : Instr) : (s.send c ev).clusters = s.clusters := rfl
@[simp] theorem State.send_cores (s : State) (c : Chan) (ev : Instr) : (s.send c ev).cores = s.cores := rfl
@[simp] theorem State.send_dram (s : State) (c : Chan) (ev : Instr) : (s.send c ev).dram = s.dram := rfl
@[simp] theorem State.send_poison (s : State) (c : Chan) (ev : Instr) : (s.send c ev).poison = s.poison := rfl
@[simp] theorem State.send_l2 (s : State) (c : Chan) (ev : Instr) : (s.send c ev).l2 = s.l2 := rfl
@[simp] theorem State.send_writes (s : State) (c : Chan) (ev : Instr) : (s.send c ev).writes = s.writes := rfl
@[simp] theorem State.send_fills (s : State) (c : Chan) (ev : Instr) : (s.send c ev).fills = s.fills := rfl
@[simp] theorem State.send_waiters (s : State) (c : Chan) (ev : Instr) : (s.send c ev).waiters = s.waiters := rfl
@[simp] theorem State.send_ranges (s : State) (c : Chan) (ev : Instr) : (s.send c ev).ranges = s.ranges := rfl
@[simp] theorem State.send_tlb (s : State) (c : Chan) (ev : Instr) : (s.send c ev).tlb = s.tlb := rfl
@[simp] theorem State.send_rct (s : State) (c : Chan) (ev : Instr) : (s.send c ev).rct = s.rct := rfl
@[simp] theorem State.send_mgmt (s : State) (c : Chan) (ev : Instr) : (s.send c ev).mgmt = s.mgmt := rfl
@[simp] theorem State.send_meas (s : State) (c : Chan) (ev : Instr) : (s.send c ev).meas = s.meas := rfl
@[simp] theorem State.send_leaf (s : State) (c : Chan) (ev : Instr) : (s.send c ev).leaf = s.leaf := rfl
@[simp] theorem State.send_otp (s : State) (c : Chan) (ev : Instr) : (s.send c ev).otp = s.otp := rfl
@[simp] theorem State.send_launches (s : State) (c : Chan) (ev : Instr) : (s.send c ev).launches = s.launches := rfl
@[simp] theorem State.send_badQueues (s : State) (c : Chan) (ev : Instr) : (s.send c ev).badQueues = s.badQueues := rfl
@[simp] theorem State.send_singles (s : State) (c : Chan) (ev : Instr) : (s.send c ev).singles = s.singles := rfl
@[simp] theorem State.send_lastQueue (s : State) (c : Chan) (ev : Instr) : (s.send c ev).lastQueue = s.lastQueue := rfl
@[simp] theorem State.send_packets (s : State) (c : Chan) (ev : Instr) : (s.send c ev).packets = s.packets := rfl
@[simp] theorem State.send_droverTurn (s : State) (c : Chan) (ev : Instr) : (s.send c ev).droverTurn = s.droverTurn := rfl
@[simp] theorem State.send_chans (s : State) (c : Chan) (ev : Instr) : (s.send c ev).chans = s.chans := rfl
@[simp] theorem State.send_searches (s : State) (c : Chan) (ev : Instr) : (s.send c ev).searches = s.searches := rfl
@[simp] theorem State.send_pinDrops (s : State) (c : Chan) (ev : Instr) : (s.send c ev).pinDrops = s.pinDrops := rfl
@[simp] theorem State.send_filter (s : State) (c : Chan) (ev : Instr) : (s.send c ev).filter = s.filter := rfl
@[simp] theorem State.send_frees (s : State) (c : Chan) (ev : Instr) : (s.send c ev).frees = s.frees := rfl
@[simp] theorem State.send_heq (s : State) (c : Chan) (ev : Instr) : (s.send c ev).heq = s.heq := rfl
@[simp] theorem State.send_heqSlot (s : State) (c : Chan) (ev : Instr) : (s.send c ev).heqSlot = s.heqSlot := rfl
@[simp] theorem State.send_recordEnds (s : State) (c : Chan) (ev : Instr) : (s.send c ev).recordEnds = s.recordEnds := rfl
@[simp] theorem State.send_kills (s : State) (c : Chan) (ev : Instr) : (s.send c ev).kills = s.kills := rfl
@[simp] theorem State.send_escs (s : State) (c : Chan) (ev : Instr) : (s.send c ev).escs = s.escs := rfl
@[simp] theorem State.send_nextTag (s : State) (c : Chan) (ev : Instr) : (s.send c ev).nextTag = s.nextTag := rfl
@[simp] theorem State.send_linkUp (s : State) (c : Chan) (ev : Instr) : (s.send c ev).linkUp = s.linkUp := rfl
@[simp] theorem State.send_bridge (s : State) (c : Chan) (ev : Instr) : (s.send c ev).bridge = s.bridge := rfl
@[simp] theorem State.send_halves (s : State) (c : Chan) (ev : Instr) : (s.send c ev).halves = s.halves := rfl
@[simp] theorem State.send_hostLines (s : State) (c : Chan) (ev : Instr) : (s.send c ev).hostLines = s.hostLines := rfl
@[simp] theorem State.send_hostOut (s : State) (c : Chan) (ev : Instr) : (s.send c ev).hostOut = s.hostOut := rfl
@[simp] theorem State.send_peerOut (s : State) (c : Chan) (ev : Instr) : (s.send c ev).peerOut = s.peerOut := rfl
@[simp] theorem State.send_inbound (s : State) (c : Chan) (ev : Instr) : (s.send c ev).inbound = s.inbound := rfl
@[simp] theorem State.send_inboundBytes (s : State) (c : Chan) (ev : Instr) : (s.send c ev).inboundBytes = s.inboundBytes := rfl
@[simp] theorem State.send_inboundRefused (s : State) (c : Chan) (ev : Instr) : (s.send c ev).inboundRefused = s.inboundRefused := rfl
@[simp] theorem State.send_portsDown (s : State) (c : Chan) (ev : Instr) : (s.send c ev).portsDown = s.portsDown := rfl
@[simp] theorem State.send_aborts (s : State) (c : Chan) (ev : Instr) : (s.send c ev).aborts = s.aborts := rfl
@[simp] theorem State.send_stopped (s : State) (c : Chan) (ev : Instr) : (s.send c ev).stopped = s.stopped := rfl
@[simp] theorem State.send_killed (s : State) (c : Chan) (ev : Instr) : (s.send c ev).killed = s.killed := rfl
@[simp] theorem State.send_hot (s : State) (c : Chan) (ev : Instr) : (s.send c ev).hot = s.hot := rfl
@[simp] theorem State.send_inputs (s : State) (c : Chan) (ev : Instr) : (s.send c ev).inputs = s.inputs := rfl
@[simp] theorem State.later_tick (s : State) (due : Nat) (ev : Instr) : (s.later due ev).tick = s.tick := rfl
@[simp] theorem State.later_clk (s : State) (due : Nat) (ev : Instr) : (s.later due ev).clk = s.clk := rfl
@[simp] theorem State.later_powered (s : State) (due : Nat) (ev : Instr) : (s.later due ev).powered = s.powered := rfl
@[simp] theorem State.later_bootFailed (s : State) (due : Nat) (ev : Instr) : (s.later due ev).bootFailed = s.bootFailed := rfl
@[simp] theorem State.later_nextHandle (s : State) (due : Nat) (ev : Instr) : (s.later due ev).nextHandle = s.nextHandle := rfl
@[simp] theorem State.later_nextId (s : State) (due : Nat) (ev : Instr) : (s.later due ev).nextId = s.nextId := rfl
@[simp] theorem State.later_cur (s : State) (due : Nat) (ev : Instr) : (s.later due ev).cur = s.cur := rfl
@[simp] theorem State.later_teams (s : State) (due : Nat) (ev : Instr) : (s.later due ev).teams = s.teams := rfl
@[simp] theorem State.later_crews (s : State) (due : Nat) (ev : Instr) : (s.later due ev).crews = s.crews := rfl
@[simp] theorem State.later_grids (s : State) (due : Nat) (ev : Instr) : (s.later due ev).grids = s.grids := rfl
@[simp] theorem State.later_insts (s : State) (due : Nat) (ev : Instr) : (s.later due ev).insts = s.insts := rfl
@[simp] theorem State.later_bars (s : State) (due : Nat) (ev : Instr) : (s.later due ev).bars = s.bars := rfl
@[simp] theorem State.later_clusters (s : State) (due : Nat) (ev : Instr) : (s.later due ev).clusters = s.clusters := rfl
@[simp] theorem State.later_cores (s : State) (due : Nat) (ev : Instr) : (s.later due ev).cores = s.cores := rfl
@[simp] theorem State.later_dram (s : State) (due : Nat) (ev : Instr) : (s.later due ev).dram = s.dram := rfl
@[simp] theorem State.later_poison (s : State) (due : Nat) (ev : Instr) : (s.later due ev).poison = s.poison := rfl
@[simp] theorem State.later_l2 (s : State) (due : Nat) (ev : Instr) : (s.later due ev).l2 = s.l2 := rfl
@[simp] theorem State.later_writes (s : State) (due : Nat) (ev : Instr) : (s.later due ev).writes = s.writes := rfl
@[simp] theorem State.later_fills (s : State) (due : Nat) (ev : Instr) : (s.later due ev).fills = s.fills := rfl
@[simp] theorem State.later_waiters (s : State) (due : Nat) (ev : Instr) : (s.later due ev).waiters = s.waiters := rfl
@[simp] theorem State.later_ranges (s : State) (due : Nat) (ev : Instr) : (s.later due ev).ranges = s.ranges := rfl
@[simp] theorem State.later_tlb (s : State) (due : Nat) (ev : Instr) : (s.later due ev).tlb = s.tlb := rfl
@[simp] theorem State.later_rct (s : State) (due : Nat) (ev : Instr) : (s.later due ev).rct = s.rct := rfl
@[simp] theorem State.later_mgmt (s : State) (due : Nat) (ev : Instr) : (s.later due ev).mgmt = s.mgmt := rfl
@[simp] theorem State.later_meas (s : State) (due : Nat) (ev : Instr) : (s.later due ev).meas = s.meas := rfl
@[simp] theorem State.later_leaf (s : State) (due : Nat) (ev : Instr) : (s.later due ev).leaf = s.leaf := rfl
@[simp] theorem State.later_otp (s : State) (due : Nat) (ev : Instr) : (s.later due ev).otp = s.otp := rfl
@[simp] theorem State.later_launches (s : State) (due : Nat) (ev : Instr) : (s.later due ev).launches = s.launches := rfl
@[simp] theorem State.later_badQueues (s : State) (due : Nat) (ev : Instr) : (s.later due ev).badQueues = s.badQueues := rfl
@[simp] theorem State.later_singles (s : State) (due : Nat) (ev : Instr) : (s.later due ev).singles = s.singles := rfl
@[simp] theorem State.later_lastQueue (s : State) (due : Nat) (ev : Instr) : (s.later due ev).lastQueue = s.lastQueue := rfl
@[simp] theorem State.later_packets (s : State) (due : Nat) (ev : Instr) : (s.later due ev).packets = s.packets := rfl
@[simp] theorem State.later_droverTurn (s : State) (due : Nat) (ev : Instr) : (s.later due ev).droverTurn = s.droverTurn := rfl
@[simp] theorem State.later_chans (s : State) (due : Nat) (ev : Instr) : (s.later due ev).chans = s.chans := rfl
@[simp] theorem State.later_searches (s : State) (due : Nat) (ev : Instr) : (s.later due ev).searches = s.searches := rfl
@[simp] theorem State.later_pinDrops (s : State) (due : Nat) (ev : Instr) : (s.later due ev).pinDrops = s.pinDrops := rfl
@[simp] theorem State.later_filter (s : State) (due : Nat) (ev : Instr) : (s.later due ev).filter = s.filter := rfl
@[simp] theorem State.later_frees (s : State) (due : Nat) (ev : Instr) : (s.later due ev).frees = s.frees := rfl
@[simp] theorem State.later_heq (s : State) (due : Nat) (ev : Instr) : (s.later due ev).heq = s.heq := rfl
@[simp] theorem State.later_heqSlot (s : State) (due : Nat) (ev : Instr) : (s.later due ev).heqSlot = s.heqSlot := rfl
@[simp] theorem State.later_recordEnds (s : State) (due : Nat) (ev : Instr) : (s.later due ev).recordEnds = s.recordEnds := rfl
@[simp] theorem State.later_kills (s : State) (due : Nat) (ev : Instr) : (s.later due ev).kills = s.kills := rfl
@[simp] theorem State.later_escs (s : State) (due : Nat) (ev : Instr) : (s.later due ev).escs = s.escs := rfl
@[simp] theorem State.later_nextTag (s : State) (due : Nat) (ev : Instr) : (s.later due ev).nextTag = s.nextTag := rfl
@[simp] theorem State.later_linkUp (s : State) (due : Nat) (ev : Instr) : (s.later due ev).linkUp = s.linkUp := rfl
@[simp] theorem State.later_bridge (s : State) (due : Nat) (ev : Instr) : (s.later due ev).bridge = s.bridge := rfl
@[simp] theorem State.later_halves (s : State) (due : Nat) (ev : Instr) : (s.later due ev).halves = s.halves := rfl
@[simp] theorem State.later_hostLines (s : State) (due : Nat) (ev : Instr) : (s.later due ev).hostLines = s.hostLines := rfl
@[simp] theorem State.later_hostOut (s : State) (due : Nat) (ev : Instr) : (s.later due ev).hostOut = s.hostOut := rfl
@[simp] theorem State.later_peerOut (s : State) (due : Nat) (ev : Instr) : (s.later due ev).peerOut = s.peerOut := rfl
@[simp] theorem State.later_inbound (s : State) (due : Nat) (ev : Instr) : (s.later due ev).inbound = s.inbound := rfl
@[simp] theorem State.later_inboundBytes (s : State) (due : Nat) (ev : Instr) : (s.later due ev).inboundBytes = s.inboundBytes := rfl
@[simp] theorem State.later_inboundRefused (s : State) (due : Nat) (ev : Instr) : (s.later due ev).inboundRefused = s.inboundRefused := rfl
@[simp] theorem State.later_portsDown (s : State) (due : Nat) (ev : Instr) : (s.later due ev).portsDown = s.portsDown := rfl
@[simp] theorem State.later_aborts (s : State) (due : Nat) (ev : Instr) : (s.later due ev).aborts = s.aborts := rfl
@[simp] theorem State.later_stopped (s : State) (due : Nat) (ev : Instr) : (s.later due ev).stopped = s.stopped := rfl
@[simp] theorem State.later_killed (s : State) (due : Nat) (ev : Instr) : (s.later due ev).killed = s.killed := rfl
@[simp] theorem State.later_hot (s : State) (due : Nat) (ev : Instr) : (s.later due ev).hot = s.hot := rfl
@[simp] theorem State.later_inputs (s : State) (due : Nat) (ev : Instr) : (s.later due ev).inputs = s.inputs := rfl
@[simp] theorem State.fresh_tick (s : State)  : (s.fresh).tick = s.tick := rfl
@[simp] theorem State.fresh_clk (s : State)  : (s.fresh).clk = s.clk := rfl
@[simp] theorem State.fresh_powered (s : State)  : (s.fresh).powered = s.powered := rfl
@[simp] theorem State.fresh_bootFailed (s : State)  : (s.fresh).bootFailed = s.bootFailed := rfl
@[simp] theorem State.fresh_nextHandle (s : State)  : (s.fresh).nextHandle = s.nextHandle := rfl
@[simp] theorem State.fresh_cur (s : State)  : (s.fresh).cur = s.cur := rfl
@[simp] theorem State.fresh_teams (s : State)  : (s.fresh).teams = s.teams := rfl
@[simp] theorem State.fresh_crews (s : State)  : (s.fresh).crews = s.crews := rfl
@[simp] theorem State.fresh_grids (s : State)  : (s.fresh).grids = s.grids := rfl
@[simp] theorem State.fresh_insts (s : State)  : (s.fresh).insts = s.insts := rfl
@[simp] theorem State.fresh_bars (s : State)  : (s.fresh).bars = s.bars := rfl
@[simp] theorem State.fresh_clusters (s : State)  : (s.fresh).clusters = s.clusters := rfl
@[simp] theorem State.fresh_cores (s : State)  : (s.fresh).cores = s.cores := rfl
@[simp] theorem State.fresh_dram (s : State)  : (s.fresh).dram = s.dram := rfl
@[simp] theorem State.fresh_poison (s : State)  : (s.fresh).poison = s.poison := rfl
@[simp] theorem State.fresh_l2 (s : State)  : (s.fresh).l2 = s.l2 := rfl
@[simp] theorem State.fresh_writes (s : State)  : (s.fresh).writes = s.writes := rfl
@[simp] theorem State.fresh_fills (s : State)  : (s.fresh).fills = s.fills := rfl
@[simp] theorem State.fresh_waiters (s : State)  : (s.fresh).waiters = s.waiters := rfl
@[simp] theorem State.fresh_ranges (s : State)  : (s.fresh).ranges = s.ranges := rfl
@[simp] theorem State.fresh_tlb (s : State)  : (s.fresh).tlb = s.tlb := rfl
@[simp] theorem State.fresh_rct (s : State)  : (s.fresh).rct = s.rct := rfl
@[simp] theorem State.fresh_mgmt (s : State)  : (s.fresh).mgmt = s.mgmt := rfl
@[simp] theorem State.fresh_meas (s : State)  : (s.fresh).meas = s.meas := rfl
@[simp] theorem State.fresh_leaf (s : State)  : (s.fresh).leaf = s.leaf := rfl
@[simp] theorem State.fresh_otp (s : State)  : (s.fresh).otp = s.otp := rfl
@[simp] theorem State.fresh_launches (s : State)  : (s.fresh).launches = s.launches := rfl
@[simp] theorem State.fresh_badQueues (s : State)  : (s.fresh).badQueues = s.badQueues := rfl
@[simp] theorem State.fresh_singles (s : State)  : (s.fresh).singles = s.singles := rfl
@[simp] theorem State.fresh_lastQueue (s : State)  : (s.fresh).lastQueue = s.lastQueue := rfl
@[simp] theorem State.fresh_packets (s : State)  : (s.fresh).packets = s.packets := rfl
@[simp] theorem State.fresh_droverTurn (s : State)  : (s.fresh).droverTurn = s.droverTurn := rfl
@[simp] theorem State.fresh_chans (s : State)  : (s.fresh).chans = s.chans := rfl
@[simp] theorem State.fresh_searches (s : State)  : (s.fresh).searches = s.searches := rfl
@[simp] theorem State.fresh_pinDrops (s : State)  : (s.fresh).pinDrops = s.pinDrops := rfl
@[simp] theorem State.fresh_filter (s : State)  : (s.fresh).filter = s.filter := rfl
@[simp] theorem State.fresh_frees (s : State)  : (s.fresh).frees = s.frees := rfl
@[simp] theorem State.fresh_heq (s : State)  : (s.fresh).heq = s.heq := rfl
@[simp] theorem State.fresh_heqSlot (s : State)  : (s.fresh).heqSlot = s.heqSlot := rfl
@[simp] theorem State.fresh_recordEnds (s : State)  : (s.fresh).recordEnds = s.recordEnds := rfl
@[simp] theorem State.fresh_kills (s : State)  : (s.fresh).kills = s.kills := rfl
@[simp] theorem State.fresh_escs (s : State)  : (s.fresh).escs = s.escs := rfl
@[simp] theorem State.fresh_nextTag (s : State)  : (s.fresh).nextTag = s.nextTag := rfl
@[simp] theorem State.fresh_linkUp (s : State)  : (s.fresh).linkUp = s.linkUp := rfl
@[simp] theorem State.fresh_bridge (s : State)  : (s.fresh).bridge = s.bridge := rfl
@[simp] theorem State.fresh_halves (s : State)  : (s.fresh).halves = s.halves := rfl
@[simp] theorem State.fresh_hostLines (s : State)  : (s.fresh).hostLines = s.hostLines := rfl
@[simp] theorem State.fresh_hostOut (s : State)  : (s.fresh).hostOut = s.hostOut := rfl
@[simp] theorem State.fresh_peerOut (s : State)  : (s.fresh).peerOut = s.peerOut := rfl
@[simp] theorem State.fresh_inbound (s : State)  : (s.fresh).inbound = s.inbound := rfl
@[simp] theorem State.fresh_inboundBytes (s : State)  : (s.fresh).inboundBytes = s.inboundBytes := rfl
@[simp] theorem State.fresh_inboundRefused (s : State)  : (s.fresh).inboundRefused = s.inboundRefused := rfl
@[simp] theorem State.fresh_portsDown (s : State)  : (s.fresh).portsDown = s.portsDown := rfl
@[simp] theorem State.fresh_aborts (s : State)  : (s.fresh).aborts = s.aborts := rfl
@[simp] theorem State.fresh_stopped (s : State)  : (s.fresh).stopped = s.stopped := rfl
@[simp] theorem State.fresh_killed (s : State)  : (s.fresh).killed = s.killed := rfl
@[simp] theorem State.fresh_hot (s : State)  : (s.fresh).hot = s.hot := rfl
@[simp] theorem State.fresh_agenda (s : State)  : (s.fresh).agenda = s.agenda := rfl
@[simp] theorem State.fresh_inputs (s : State)  : (s.fresh).inputs = s.inputs := rfl
@[simp] theorem State.chargeMem_tick (s : State) (n : Nat) : (s.chargeMem n).tick = s.tick := rfl
@[simp] theorem State.chargeMem_clk (s : State) (n : Nat) : (s.chargeMem n).clk = s.clk := rfl
@[simp] theorem State.chargeMem_powered (s : State) (n : Nat) : (s.chargeMem n).powered = s.powered := rfl
@[simp] theorem State.chargeMem_bootFailed (s : State) (n : Nat) : (s.chargeMem n).bootFailed = s.bootFailed := rfl
@[simp] theorem State.chargeMem_nextHandle (s : State) (n : Nat) : (s.chargeMem n).nextHandle = s.nextHandle := rfl
@[simp] theorem State.chargeMem_nextId (s : State) (n : Nat) : (s.chargeMem n).nextId = s.nextId := rfl
@[simp] theorem State.chargeMem_cur (s : State) (n : Nat) : (s.chargeMem n).cur = s.cur := rfl
@[simp] theorem State.chargeMem_crews (s : State) (n : Nat) : (s.chargeMem n).crews = s.crews := rfl
@[simp] theorem State.chargeMem_grids (s : State) (n : Nat) : (s.chargeMem n).grids = s.grids := rfl
@[simp] theorem State.chargeMem_insts (s : State) (n : Nat) : (s.chargeMem n).insts = s.insts := rfl
@[simp] theorem State.chargeMem_bars (s : State) (n : Nat) : (s.chargeMem n).bars = s.bars := rfl
@[simp] theorem State.chargeMem_clusters (s : State) (n : Nat) : (s.chargeMem n).clusters = s.clusters := rfl
@[simp] theorem State.chargeMem_cores (s : State) (n : Nat) : (s.chargeMem n).cores = s.cores := rfl
@[simp] theorem State.chargeMem_dram (s : State) (n : Nat) : (s.chargeMem n).dram = s.dram := rfl
@[simp] theorem State.chargeMem_poison (s : State) (n : Nat) : (s.chargeMem n).poison = s.poison := rfl
@[simp] theorem State.chargeMem_l2 (s : State) (n : Nat) : (s.chargeMem n).l2 = s.l2 := rfl
@[simp] theorem State.chargeMem_writes (s : State) (n : Nat) : (s.chargeMem n).writes = s.writes := rfl
@[simp] theorem State.chargeMem_fills (s : State) (n : Nat) : (s.chargeMem n).fills = s.fills := rfl
@[simp] theorem State.chargeMem_waiters (s : State) (n : Nat) : (s.chargeMem n).waiters = s.waiters := rfl
@[simp] theorem State.chargeMem_ranges (s : State) (n : Nat) : (s.chargeMem n).ranges = s.ranges := rfl
@[simp] theorem State.chargeMem_tlb (s : State) (n : Nat) : (s.chargeMem n).tlb = s.tlb := rfl
@[simp] theorem State.chargeMem_rct (s : State) (n : Nat) : (s.chargeMem n).rct = s.rct := rfl
@[simp] theorem State.chargeMem_mgmt (s : State) (n : Nat) : (s.chargeMem n).mgmt = s.mgmt := rfl
@[simp] theorem State.chargeMem_meas (s : State) (n : Nat) : (s.chargeMem n).meas = s.meas := rfl
@[simp] theorem State.chargeMem_leaf (s : State) (n : Nat) : (s.chargeMem n).leaf = s.leaf := rfl
@[simp] theorem State.chargeMem_otp (s : State) (n : Nat) : (s.chargeMem n).otp = s.otp := rfl
@[simp] theorem State.chargeMem_launches (s : State) (n : Nat) : (s.chargeMem n).launches = s.launches := rfl
@[simp] theorem State.chargeMem_badQueues (s : State) (n : Nat) : (s.chargeMem n).badQueues = s.badQueues := rfl
@[simp] theorem State.chargeMem_singles (s : State) (n : Nat) : (s.chargeMem n).singles = s.singles := rfl
@[simp] theorem State.chargeMem_lastQueue (s : State) (n : Nat) : (s.chargeMem n).lastQueue = s.lastQueue := rfl
@[simp] theorem State.chargeMem_packets (s : State) (n : Nat) : (s.chargeMem n).packets = s.packets := rfl
@[simp] theorem State.chargeMem_droverTurn (s : State) (n : Nat) : (s.chargeMem n).droverTurn = s.droverTurn := rfl
@[simp] theorem State.chargeMem_chans (s : State) (n : Nat) : (s.chargeMem n).chans = s.chans := rfl
@[simp] theorem State.chargeMem_searches (s : State) (n : Nat) : (s.chargeMem n).searches = s.searches := rfl
@[simp] theorem State.chargeMem_pinDrops (s : State) (n : Nat) : (s.chargeMem n).pinDrops = s.pinDrops := rfl
@[simp] theorem State.chargeMem_filter (s : State) (n : Nat) : (s.chargeMem n).filter = s.filter := rfl
@[simp] theorem State.chargeMem_frees (s : State) (n : Nat) : (s.chargeMem n).frees = s.frees := rfl
@[simp] theorem State.chargeMem_heq (s : State) (n : Nat) : (s.chargeMem n).heq = s.heq := rfl
@[simp] theorem State.chargeMem_heqSlot (s : State) (n : Nat) : (s.chargeMem n).heqSlot = s.heqSlot := rfl
@[simp] theorem State.chargeMem_recordEnds (s : State) (n : Nat) : (s.chargeMem n).recordEnds = s.recordEnds := rfl
@[simp] theorem State.chargeMem_kills (s : State) (n : Nat) : (s.chargeMem n).kills = s.kills := rfl
@[simp] theorem State.chargeMem_escs (s : State) (n : Nat) : (s.chargeMem n).escs = s.escs := rfl
@[simp] theorem State.chargeMem_nextTag (s : State) (n : Nat) : (s.chargeMem n).nextTag = s.nextTag := rfl
@[simp] theorem State.chargeMem_linkUp (s : State) (n : Nat) : (s.chargeMem n).linkUp = s.linkUp := rfl
@[simp] theorem State.chargeMem_bridge (s : State) (n : Nat) : (s.chargeMem n).bridge = s.bridge := rfl
@[simp] theorem State.chargeMem_halves (s : State) (n : Nat) : (s.chargeMem n).halves = s.halves := rfl
@[simp] theorem State.chargeMem_hostLines (s : State) (n : Nat) : (s.chargeMem n).hostLines = s.hostLines := rfl
@[simp] theorem State.chargeMem_hostOut (s : State) (n : Nat) : (s.chargeMem n).hostOut = s.hostOut := rfl
@[simp] theorem State.chargeMem_peerOut (s : State) (n : Nat) : (s.chargeMem n).peerOut = s.peerOut := rfl
@[simp] theorem State.chargeMem_inbound (s : State) (n : Nat) : (s.chargeMem n).inbound = s.inbound := rfl
@[simp] theorem State.chargeMem_inboundBytes (s : State) (n : Nat) : (s.chargeMem n).inboundBytes = s.inboundBytes := rfl
@[simp] theorem State.chargeMem_inboundRefused (s : State) (n : Nat) : (s.chargeMem n).inboundRefused = s.inboundRefused := rfl
@[simp] theorem State.chargeMem_portsDown (s : State) (n : Nat) : (s.chargeMem n).portsDown = s.portsDown := rfl
@[simp] theorem State.chargeMem_aborts (s : State) (n : Nat) : (s.chargeMem n).aborts = s.aborts := rfl
@[simp] theorem State.chargeMem_stopped (s : State) (n : Nat) : (s.chargeMem n).stopped = s.stopped := rfl
@[simp] theorem State.chargeMem_killed (s : State) (n : Nat) : (s.chargeMem n).killed = s.killed := rfl
@[simp] theorem State.chargeMem_hot (s : State) (n : Nat) : (s.chargeMem n).hot = s.hot := rfl
@[simp] theorem State.chargeMem_agenda (s : State) (n : Nat) : (s.chargeMem n).agenda = s.agenda := rfl
@[simp] theorem State.chargeMem_inputs (s : State) (n : Nat) : (s.chargeMem n).inputs = s.inputs := rfl
@[simp] theorem State.setBar_tick (s : State) (b : BarId) (x : Bar) : (s.setBar b x).tick = s.tick := rfl
@[simp] theorem State.setBar_clk (s : State) (b : BarId) (x : Bar) : (s.setBar b x).clk = s.clk := rfl
@[simp] theorem State.setBar_powered (s : State) (b : BarId) (x : Bar) : (s.setBar b x).powered = s.powered := rfl
@[simp] theorem State.setBar_bootFailed (s : State) (b : BarId) (x : Bar) : (s.setBar b x).bootFailed = s.bootFailed := rfl
@[simp] theorem State.setBar_nextHandle (s : State) (b : BarId) (x : Bar) : (s.setBar b x).nextHandle = s.nextHandle := rfl
@[simp] theorem State.setBar_nextId (s : State) (b : BarId) (x : Bar) : (s.setBar b x).nextId = s.nextId := rfl
@[simp] theorem State.setBar_cur (s : State) (b : BarId) (x : Bar) : (s.setBar b x).cur = s.cur := rfl
@[simp] theorem State.setBar_teams (s : State) (b : BarId) (x : Bar) : (s.setBar b x).teams = s.teams := rfl
@[simp] theorem State.setBar_crews (s : State) (b : BarId) (x : Bar) : (s.setBar b x).crews = s.crews := rfl
@[simp] theorem State.setBar_grids (s : State) (b : BarId) (x : Bar) : (s.setBar b x).grids = s.grids := rfl
@[simp] theorem State.setBar_insts (s : State) (b : BarId) (x : Bar) : (s.setBar b x).insts = s.insts := rfl
@[simp] theorem State.setBar_clusters (s : State) (b : BarId) (x : Bar) : (s.setBar b x).clusters = s.clusters := rfl
@[simp] theorem State.setBar_cores (s : State) (b : BarId) (x : Bar) : (s.setBar b x).cores = s.cores := rfl
@[simp] theorem State.setBar_dram (s : State) (b : BarId) (x : Bar) : (s.setBar b x).dram = s.dram := rfl
@[simp] theorem State.setBar_poison (s : State) (b : BarId) (x : Bar) : (s.setBar b x).poison = s.poison := rfl
@[simp] theorem State.setBar_l2 (s : State) (b : BarId) (x : Bar) : (s.setBar b x).l2 = s.l2 := rfl
@[simp] theorem State.setBar_writes (s : State) (b : BarId) (x : Bar) : (s.setBar b x).writes = s.writes := rfl
@[simp] theorem State.setBar_fills (s : State) (b : BarId) (x : Bar) : (s.setBar b x).fills = s.fills := rfl
@[simp] theorem State.setBar_waiters (s : State) (b : BarId) (x : Bar) : (s.setBar b x).waiters = s.waiters := rfl
@[simp] theorem State.setBar_ranges (s : State) (b : BarId) (x : Bar) : (s.setBar b x).ranges = s.ranges := rfl
@[simp] theorem State.setBar_tlb (s : State) (b : BarId) (x : Bar) : (s.setBar b x).tlb = s.tlb := rfl
@[simp] theorem State.setBar_rct (s : State) (b : BarId) (x : Bar) : (s.setBar b x).rct = s.rct := rfl
@[simp] theorem State.setBar_mgmt (s : State) (b : BarId) (x : Bar) : (s.setBar b x).mgmt = s.mgmt := rfl
@[simp] theorem State.setBar_meas (s : State) (b : BarId) (x : Bar) : (s.setBar b x).meas = s.meas := rfl
@[simp] theorem State.setBar_leaf (s : State) (b : BarId) (x : Bar) : (s.setBar b x).leaf = s.leaf := rfl
@[simp] theorem State.setBar_otp (s : State) (b : BarId) (x : Bar) : (s.setBar b x).otp = s.otp := rfl
@[simp] theorem State.setBar_launches (s : State) (b : BarId) (x : Bar) : (s.setBar b x).launches = s.launches := rfl
@[simp] theorem State.setBar_badQueues (s : State) (b : BarId) (x : Bar) : (s.setBar b x).badQueues = s.badQueues := rfl
@[simp] theorem State.setBar_singles (s : State) (b : BarId) (x : Bar) : (s.setBar b x).singles = s.singles := rfl
@[simp] theorem State.setBar_lastQueue (s : State) (b : BarId) (x : Bar) : (s.setBar b x).lastQueue = s.lastQueue := rfl
@[simp] theorem State.setBar_packets (s : State) (b : BarId) (x : Bar) : (s.setBar b x).packets = s.packets := rfl
@[simp] theorem State.setBar_droverTurn (s : State) (b : BarId) (x : Bar) : (s.setBar b x).droverTurn = s.droverTurn := rfl
@[simp] theorem State.setBar_chans (s : State) (b : BarId) (x : Bar) : (s.setBar b x).chans = s.chans := rfl
@[simp] theorem State.setBar_searches (s : State) (b : BarId) (x : Bar) : (s.setBar b x).searches = s.searches := rfl
@[simp] theorem State.setBar_pinDrops (s : State) (b : BarId) (x : Bar) : (s.setBar b x).pinDrops = s.pinDrops := rfl
@[simp] theorem State.setBar_filter (s : State) (b : BarId) (x : Bar) : (s.setBar b x).filter = s.filter := rfl
@[simp] theorem State.setBar_frees (s : State) (b : BarId) (x : Bar) : (s.setBar b x).frees = s.frees := rfl
@[simp] theorem State.setBar_heq (s : State) (b : BarId) (x : Bar) : (s.setBar b x).heq = s.heq := rfl
@[simp] theorem State.setBar_heqSlot (s : State) (b : BarId) (x : Bar) : (s.setBar b x).heqSlot = s.heqSlot := rfl
@[simp] theorem State.setBar_recordEnds (s : State) (b : BarId) (x : Bar) : (s.setBar b x).recordEnds = s.recordEnds := rfl
@[simp] theorem State.setBar_kills (s : State) (b : BarId) (x : Bar) : (s.setBar b x).kills = s.kills := rfl
@[simp] theorem State.setBar_escs (s : State) (b : BarId) (x : Bar) : (s.setBar b x).escs = s.escs := rfl
@[simp] theorem State.setBar_nextTag (s : State) (b : BarId) (x : Bar) : (s.setBar b x).nextTag = s.nextTag := rfl
@[simp] theorem State.setBar_linkUp (s : State) (b : BarId) (x : Bar) : (s.setBar b x).linkUp = s.linkUp := rfl
@[simp] theorem State.setBar_bridge (s : State) (b : BarId) (x : Bar) : (s.setBar b x).bridge = s.bridge := rfl
@[simp] theorem State.setBar_halves (s : State) (b : BarId) (x : Bar) : (s.setBar b x).halves = s.halves := rfl
@[simp] theorem State.setBar_hostLines (s : State) (b : BarId) (x : Bar) : (s.setBar b x).hostLines = s.hostLines := rfl
@[simp] theorem State.setBar_hostOut (s : State) (b : BarId) (x : Bar) : (s.setBar b x).hostOut = s.hostOut := rfl
@[simp] theorem State.setBar_peerOut (s : State) (b : BarId) (x : Bar) : (s.setBar b x).peerOut = s.peerOut := rfl
@[simp] theorem State.setBar_inbound (s : State) (b : BarId) (x : Bar) : (s.setBar b x).inbound = s.inbound := rfl
@[simp] theorem State.setBar_inboundBytes (s : State) (b : BarId) (x : Bar) : (s.setBar b x).inboundBytes = s.inboundBytes := rfl
@[simp] theorem State.setBar_inboundRefused (s : State) (b : BarId) (x : Bar) : (s.setBar b x).inboundRefused = s.inboundRefused := rfl
@[simp] theorem State.setBar_portsDown (s : State) (b : BarId) (x : Bar) : (s.setBar b x).portsDown = s.portsDown := rfl
@[simp] theorem State.setBar_aborts (s : State) (b : BarId) (x : Bar) : (s.setBar b x).aborts = s.aborts := rfl
@[simp] theorem State.setBar_stopped (s : State) (b : BarId) (x : Bar) : (s.setBar b x).stopped = s.stopped := rfl
@[simp] theorem State.setBar_killed (s : State) (b : BarId) (x : Bar) : (s.setBar b x).killed = s.killed := rfl
@[simp] theorem State.setBar_hot (s : State) (b : BarId) (x : Bar) : (s.setBar b x).hot = s.hot := rfl
@[simp] theorem State.setBar_agenda (s : State) (b : BarId) (x : Bar) : (s.setBar b x).agenda = s.agenda := rfl
@[simp] theorem State.setBar_inputs (s : State) (b : BarId) (x : Bar) : (s.setBar b x).inputs = s.inputs := rfl
@[simp] theorem State.leaveBars_tick (s : State) (k : Nat) : (s.leaveBars k).tick = s.tick := rfl
@[simp] theorem State.leaveBars_clk (s : State) (k : Nat) : (s.leaveBars k).clk = s.clk := rfl
@[simp] theorem State.leaveBars_powered (s : State) (k : Nat) : (s.leaveBars k).powered = s.powered := rfl
@[simp] theorem State.leaveBars_bootFailed (s : State) (k : Nat) : (s.leaveBars k).bootFailed = s.bootFailed := rfl
@[simp] theorem State.leaveBars_nextHandle (s : State) (k : Nat) : (s.leaveBars k).nextHandle = s.nextHandle := rfl
@[simp] theorem State.leaveBars_nextId (s : State) (k : Nat) : (s.leaveBars k).nextId = s.nextId := rfl
@[simp] theorem State.leaveBars_cur (s : State) (k : Nat) : (s.leaveBars k).cur = s.cur := rfl
@[simp] theorem State.leaveBars_teams (s : State) (k : Nat) : (s.leaveBars k).teams = s.teams := rfl
@[simp] theorem State.leaveBars_crews (s : State) (k : Nat) : (s.leaveBars k).crews = s.crews := rfl
@[simp] theorem State.leaveBars_grids (s : State) (k : Nat) : (s.leaveBars k).grids = s.grids := rfl
@[simp] theorem State.leaveBars_insts (s : State) (k : Nat) : (s.leaveBars k).insts = s.insts := rfl
@[simp] theorem State.leaveBars_clusters (s : State) (k : Nat) : (s.leaveBars k).clusters = s.clusters := rfl
@[simp] theorem State.leaveBars_cores (s : State) (k : Nat) : (s.leaveBars k).cores = s.cores := rfl
@[simp] theorem State.leaveBars_dram (s : State) (k : Nat) : (s.leaveBars k).dram = s.dram := rfl
@[simp] theorem State.leaveBars_poison (s : State) (k : Nat) : (s.leaveBars k).poison = s.poison := rfl
@[simp] theorem State.leaveBars_l2 (s : State) (k : Nat) : (s.leaveBars k).l2 = s.l2 := rfl
@[simp] theorem State.leaveBars_writes (s : State) (k : Nat) : (s.leaveBars k).writes = s.writes := rfl
@[simp] theorem State.leaveBars_fills (s : State) (k : Nat) : (s.leaveBars k).fills = s.fills := rfl
@[simp] theorem State.leaveBars_waiters (s : State) (k : Nat) : (s.leaveBars k).waiters = s.waiters := rfl
@[simp] theorem State.leaveBars_ranges (s : State) (k : Nat) : (s.leaveBars k).ranges = s.ranges := rfl
@[simp] theorem State.leaveBars_tlb (s : State) (k : Nat) : (s.leaveBars k).tlb = s.tlb := rfl
@[simp] theorem State.leaveBars_rct (s : State) (k : Nat) : (s.leaveBars k).rct = s.rct := rfl
@[simp] theorem State.leaveBars_mgmt (s : State) (k : Nat) : (s.leaveBars k).mgmt = s.mgmt := rfl
@[simp] theorem State.leaveBars_meas (s : State) (k : Nat) : (s.leaveBars k).meas = s.meas := rfl
@[simp] theorem State.leaveBars_leaf (s : State) (k : Nat) : (s.leaveBars k).leaf = s.leaf := rfl
@[simp] theorem State.leaveBars_otp (s : State) (k : Nat) : (s.leaveBars k).otp = s.otp := rfl
@[simp] theorem State.leaveBars_launches (s : State) (k : Nat) : (s.leaveBars k).launches = s.launches := rfl
@[simp] theorem State.leaveBars_badQueues (s : State) (k : Nat) : (s.leaveBars k).badQueues = s.badQueues := rfl
@[simp] theorem State.leaveBars_singles (s : State) (k : Nat) : (s.leaveBars k).singles = s.singles := rfl
@[simp] theorem State.leaveBars_lastQueue (s : State) (k : Nat) : (s.leaveBars k).lastQueue = s.lastQueue := rfl
@[simp] theorem State.leaveBars_packets (s : State) (k : Nat) : (s.leaveBars k).packets = s.packets := rfl
@[simp] theorem State.leaveBars_droverTurn (s : State) (k : Nat) : (s.leaveBars k).droverTurn = s.droverTurn := rfl
@[simp] theorem State.leaveBars_chans (s : State) (k : Nat) : (s.leaveBars k).chans = s.chans := rfl
@[simp] theorem State.leaveBars_searches (s : State) (k : Nat) : (s.leaveBars k).searches = s.searches := rfl
@[simp] theorem State.leaveBars_pinDrops (s : State) (k : Nat) : (s.leaveBars k).pinDrops = s.pinDrops := rfl
@[simp] theorem State.leaveBars_filter (s : State) (k : Nat) : (s.leaveBars k).filter = s.filter := rfl
@[simp] theorem State.leaveBars_frees (s : State) (k : Nat) : (s.leaveBars k).frees = s.frees := rfl
@[simp] theorem State.leaveBars_heq (s : State) (k : Nat) : (s.leaveBars k).heq = s.heq := rfl
@[simp] theorem State.leaveBars_heqSlot (s : State) (k : Nat) : (s.leaveBars k).heqSlot = s.heqSlot := rfl
@[simp] theorem State.leaveBars_recordEnds (s : State) (k : Nat) : (s.leaveBars k).recordEnds = s.recordEnds := rfl
@[simp] theorem State.leaveBars_kills (s : State) (k : Nat) : (s.leaveBars k).kills = s.kills := rfl
@[simp] theorem State.leaveBars_escs (s : State) (k : Nat) : (s.leaveBars k).escs = s.escs := rfl
@[simp] theorem State.leaveBars_nextTag (s : State) (k : Nat) : (s.leaveBars k).nextTag = s.nextTag := rfl
@[simp] theorem State.leaveBars_linkUp (s : State) (k : Nat) : (s.leaveBars k).linkUp = s.linkUp := rfl
@[simp] theorem State.leaveBars_bridge (s : State) (k : Nat) : (s.leaveBars k).bridge = s.bridge := rfl
@[simp] theorem State.leaveBars_halves (s : State) (k : Nat) : (s.leaveBars k).halves = s.halves := rfl
@[simp] theorem State.leaveBars_hostLines (s : State) (k : Nat) : (s.leaveBars k).hostLines = s.hostLines := rfl
@[simp] theorem State.leaveBars_hostOut (s : State) (k : Nat) : (s.leaveBars k).hostOut = s.hostOut := rfl
@[simp] theorem State.leaveBars_peerOut (s : State) (k : Nat) : (s.leaveBars k).peerOut = s.peerOut := rfl
@[simp] theorem State.leaveBars_inbound (s : State) (k : Nat) : (s.leaveBars k).inbound = s.inbound := rfl
@[simp] theorem State.leaveBars_inboundBytes (s : State) (k : Nat) : (s.leaveBars k).inboundBytes = s.inboundBytes := rfl
@[simp] theorem State.leaveBars_inboundRefused (s : State) (k : Nat) : (s.leaveBars k).inboundRefused = s.inboundRefused := rfl
@[simp] theorem State.leaveBars_portsDown (s : State) (k : Nat) : (s.leaveBars k).portsDown = s.portsDown := rfl
@[simp] theorem State.leaveBars_aborts (s : State) (k : Nat) : (s.leaveBars k).aborts = s.aborts := rfl
@[simp] theorem State.leaveBars_stopped (s : State) (k : Nat) : (s.leaveBars k).stopped = s.stopped := rfl
@[simp] theorem State.leaveBars_killed (s : State) (k : Nat) : (s.leaveBars k).killed = s.killed := rfl
@[simp] theorem State.leaveBars_hot (s : State) (k : Nat) : (s.leaveBars k).hot = s.hot := rfl
@[simp] theorem State.leaveBars_agenda (s : State) (k : Nat) : (s.leaveBars k).agenda = s.agenda := rfl
@[simp] theorem State.leaveBars_inputs (s : State) (k : Nat) : (s.leaveBars k).inputs = s.inputs := rfl

/-! ### The running team -/

@[simp] theorem State.me_setMe (s : State) (t : Team) : (s.setMe t).me = t := by simp [State.me, State.setMe, State.setTeam]
@[simp] theorem State.setMe_setMe (s : State) (t u : Team) : (s.setMe t).setMe u = s.setMe u := by
  simp [State.setMe, State.setTeam]
@[simp] theorem State.me_mapMe (s : State) (f : Team → Team) : (s.mapMe f).me = f s.me := by simp [State.mapMe]
@[simp] theorem State.mapMe_mapMe (s : State) (f g : Team → Team) : (s.mapMe f).mapMe g = s.setMe (g (f s.me)) := by
  simp [State.mapMe]
theorem State.mapMe_eq (s : State) (f : Team → Team) : s.mapMe f = s.setMe (f s.me) := rfl
@[simp] theorem State.mapMe_setMe (s : State) (t : Team) (f : Team → Team) : (s.setMe t).mapMe f = s.setMe (f t) := by
  simp [State.mapMe]
@[simp] theorem State.setMe_mapMe (s : State) (t : Team) (f : Team → Team) : (s.mapMe f).setMe t = s.setMe t := by
  simp [State.mapMe]
@[simp] theorem State.chargeMem_me (s : State) (n : Nat) : (s.chargeMem n).me = s.me.chargeM n := by
  simp [State.chargeMem]

/-! ### Updates of a team -/

@[simp] theorem Team.chargeI_crew (t : Team) (c : Nat) : (t.chargeI c).crew = t.crew := rfl
@[simp] theorem Team.chargeI_idx (t : Team) (c : Nat) : (t.chargeI c).idx = t.idx := rfl
@[simp] theorem Team.chargeI_lanes (t : Team) (c : Nat) : (t.chargeI c).lanes = t.lanes := rfl
@[simp] theorem Team.chargeI_role (t : Team) (c : Nat) : (t.chargeI c).role = t.role := rfl
@[simp] theorem Team.chargeI_slot (t : Team) (c : Nat) : (t.chargeI c).slot = t.slot := rfl
@[simp] theorem Team.chargeI_place (t : Team) (c : Nat) : (t.chargeI c).place = t.place := rfl
@[simp] theorem Team.chargeI_pc (t : Team) (c : Nat) : (t.chargeI c).pc = t.pc := rfl
@[simp] theorem Team.chargeI_mask (t : Team) (c : Nat) : (t.chargeI c).mask = t.mask := rfl
@[simp] theorem Team.chargeI_stack (t : Team) (c : Nat) : (t.chargeI c).stack = t.stack := rfl
@[simp] theorem Team.chargeI_spilled (t : Team) (c : Nat) : (t.chargeI c).spilled = t.spilled := rfl
@[simp] theorem Team.chargeI_window (t : Team) (c : Nat) : (t.chargeI c).window = t.window := rfl
@[simp] theorem Team.chargeI_vregs (t : Team) (c : Nat) : (t.chargeI c).vregs = t.vregs := rfl
@[simp] theorem Team.chargeI_sregs (t : Team) (c : Nat) : (t.chargeI c).sregs = t.sregs := rfl
@[simp] theorem Team.chargeI_preds (t : Team) (c : Nat) : (t.chargeI c).preds = t.preds := rfl
@[simp] theorem Team.chargeI_mode (t : Team) (c : Nat) : (t.chargeI c).mode = t.mode := rfl
@[simp] theorem Team.chargeI_mbud (t : Team) (c : Nat) : (t.chargeI c).mbud = t.mbud := rfl
@[simp] theorem Team.chargeI_contpc (t : Team) (c : Nat) : (t.chargeI c).contpc = t.contpc := rfl
@[simp] theorem Team.chargeI_gang (t : Team) (c : Nat) : (t.chargeI c).gang = t.gang := rfl
@[simp] theorem Team.chargeI_accBase (t : Team) (c : Nat) : (t.chargeI c).accBase = t.accBase := rfl
@[simp] theorem Team.chargeI_accLim (t : Team) (c : Nat) : (t.chargeI c).accLim = t.accLim := rfl
@[simp] theorem Team.chargeI_sinkSite (t : Team) (c : Nat) : (t.chargeI c).sinkSite = t.sinkSite := rfl
@[simp] theorem Team.chargeI_clockh (t : Team) (c : Nat) : (t.chargeI c).clockh = t.clockh := rfl
@[simp] theorem Team.chargeI_batchNext (t : Team) (c : Nat) : (t.chargeI c).batchNext = t.batchNext := rfl
@[simp] theorem Team.chargeI_batchDone (t : Team) (c : Nat) : (t.chargeI c).batchDone = t.batchDone := rfl
@[simp] theorem Team.chargeI_batches (t : Team) (c : Nat) : (t.chargeI c).batches = t.batches := rfl
@[simp] theorem Team.chargeI_pins (t : Team) (c : Nat) : (t.chargeI c).pins = t.pins := rfl
@[simp] theorem Team.chargeI_trap (t : Team) (c : Nat) : (t.chargeI c).trap = t.trap := rfl
@[simp] theorem Team.chargeI_chain (t : Team) (c : Nat) : (t.chargeI c).chain = t.chain := rfl
@[simp] theorem Team.chargeI_mma (t : Team) (c : Nat) : (t.chargeI c).mma = t.mma := rfl
@[simp] theorem Team.chargeI_outs (t : Team) (c : Nat) : (t.chargeI c).outs = t.outs := rfl
@[simp] theorem Team.chargeI_nextOut (t : Team) (c : Nat) : (t.chargeI c).nextOut = t.nextOut := rfl
@[simp] theorem Team.chargeI_behind (t : Team) (c : Nat) : (t.chargeI c).behind = t.behind := rfl
@[simp] theorem Team.chargeI_faultLines (t : Team) (c : Nat) : (t.chargeI c).faultLines = t.faultLines := rfl
@[simp] theorem Team.chargeI_scaleFaults (t : Team) (c : Nat) : (t.chargeI c).scaleFaults = t.scaleFaults := rfl
@[simp] theorem Team.chargeI_holds (t : Team) (c : Nat) : (t.chargeI c).holds = t.holds := rfl
@[simp] theorem Team.chargeI_unsettled (t : Team) (c : Nat) : (t.chargeI c).unsettled = t.unsettled := rfl
@[simp] theorem Team.chargeI_wait (t : Team) (c : Nat) : (t.chargeI c).wait = t.wait := rfl
@[simp] theorem Team.chargeI_waitSince (t : Team) (c : Nat) : (t.chargeI c).waitSince = t.waitSince := rfl
@[simp] theorem Team.chargeI_untracked (t : Team) (c : Nat) : (t.chargeI c).untracked = t.untracked := rfl
@[simp] theorem Team.chargeI_waitUntracked (t : Team) (c : Nat) : (t.chargeI c).waitUntracked = t.waitUntracked := rfl
@[simp] theorem Team.chargeI_waitExt (t : Team) (c : Nat) : (t.chargeI c).waitExt = t.waitExt := rfl
@[simp] theorem Team.chargeI_farHolds (t : Team) (c : Nat) : (t.chargeI c).farHolds = t.farHolds := rfl
@[simp] theorem Team.chargeI_parkedIn (t : Team) (c : Nat) : (t.chargeI c).parkedIn = t.parkedIn := rfl
@[simp] theorem Team.chargeI_entries (t : Team) (c : Nat) : (t.chargeI c).entries = t.entries := rfl
@[simp] theorem Team.chargeI_standing (t : Team) (c : Nat) : (t.chargeI c).standing = t.standing := rfl
@[simp] theorem Team.chargeI_standSince (t : Team) (c : Nat) : (t.chargeI c).standSince = t.standSince := rfl
@[simp] theorem Team.chargeI_admission (t : Team) (c : Nat) : (t.chargeI c).admission = t.admission := rfl
@[simp] theorem Team.chargeI_holdings (t : Team) (c : Nat) : (t.chargeI c).holdings = t.holdings := rfl
@[simp] theorem Team.chargeI_stood (t : Team) (c : Nat) : (t.chargeI c).stood = t.stood := rfl
@[simp] theorem Team.chargeI_triggered (t : Team) (c : Nat) : (t.chargeI c).triggered = t.triggered := rfl
@[simp] theorem Team.chargeI_pending (t : Team) (c : Nat) : (t.chargeI c).pending = t.pending := rfl
@[simp] theorem Team.chargeI_halt (t : Team) (c : Nat) : (t.chargeI c).halt = t.halt := rfl
@[simp] theorem Team.chargeI_halted (t : Team) (c : Nat) : (t.chargeI c).halted = t.halted := rfl
@[simp] theorem Team.chargeI_reissue (t : Team) (c : Nat) : (t.chargeI c).reissue = t.reissue := rfl
@[simp] theorem Team.chargeI_heldStop (t : Team) (c : Nat) : (t.chargeI c).heldStop = t.heldStop := rfl
@[simp] theorem Team.chargeI_laterStops (t : Team) (c : Nat) : (t.chargeI c).laterStops = t.laterStops := rfl
@[simp] theorem Team.chargeI_packet (t : Team) (c : Nat) : (t.chargeI c).packet = t.packet := rfl
@[simp] theorem Team.chargeI_stalled (t : Team) (c : Nat) : (t.chargeI c).stalled = t.stalled := rfl
@[simp] theorem Team.chargeI_struck (t : Team) (c : Nat) : (t.chargeI c).struck = t.struck := rfl
@[simp] theorem Team.chargeI_evict (t : Team) (c : Nat) : (t.chargeI c).evict = t.evict := rfl
@[simp] theorem Team.chargeI_mustYield (t : Team) (c : Nat) : (t.chargeI c).mustYield = t.mustYield := rfl
@[simp] theorem Team.chargeI_parkedAt (t : Team) (c : Nat) : (t.chargeI c).parkedAt = t.parkedAt := rfl
@[simp] theorem Team.chargeI_active (t : Team) (c : Nat) : (t.chargeI c).active = t.active := rfl
@[simp] theorem Team.chargeI_lastIssue (t : Team) (c : Nat) : (t.chargeI c).lastIssue = t.lastIssue := rfl
@[simp] theorem Team.chargeI_readySince (t : Team) (c : Nat) : (t.chargeI c).readySince = t.readySince := rfl
@[simp] theorem Team.chargeI_overdue (t : Team) (c : Nat) : (t.chargeI c).overdue = t.overdue := rfl
@[simp] theorem Team.chargeI_escals (t : Team) (c : Nat) : (t.chargeI c).escals = t.escals := rfl
@[simp] theorem Team.chargeI_noHolder (t : Team) (c : Nat) : (t.chargeI c).noHolder = t.noHolder := rfl
@[simp] theorem Team.chargeM_crew (t : Team) (c : Nat) : (t.chargeM c).crew = t.crew := rfl
@[simp] theorem Team.chargeM_idx (t : Team) (c : Nat) : (t.chargeM c).idx = t.idx := rfl
@[simp] theorem Team.chargeM_lanes (t : Team) (c : Nat) : (t.chargeM c).lanes = t.lanes := rfl
@[simp] theorem Team.chargeM_role (t : Team) (c : Nat) : (t.chargeM c).role = t.role := rfl
@[simp] theorem Team.chargeM_slot (t : Team) (c : Nat) : (t.chargeM c).slot = t.slot := rfl
@[simp] theorem Team.chargeM_place (t : Team) (c : Nat) : (t.chargeM c).place = t.place := rfl
@[simp] theorem Team.chargeM_pc (t : Team) (c : Nat) : (t.chargeM c).pc = t.pc := rfl
@[simp] theorem Team.chargeM_mask (t : Team) (c : Nat) : (t.chargeM c).mask = t.mask := rfl
@[simp] theorem Team.chargeM_stack (t : Team) (c : Nat) : (t.chargeM c).stack = t.stack := rfl
@[simp] theorem Team.chargeM_spilled (t : Team) (c : Nat) : (t.chargeM c).spilled = t.spilled := rfl
@[simp] theorem Team.chargeM_window (t : Team) (c : Nat) : (t.chargeM c).window = t.window := rfl
@[simp] theorem Team.chargeM_vregs (t : Team) (c : Nat) : (t.chargeM c).vregs = t.vregs := rfl
@[simp] theorem Team.chargeM_sregs (t : Team) (c : Nat) : (t.chargeM c).sregs = t.sregs := rfl
@[simp] theorem Team.chargeM_preds (t : Team) (c : Nat) : (t.chargeM c).preds = t.preds := rfl
@[simp] theorem Team.chargeM_mode (t : Team) (c : Nat) : (t.chargeM c).mode = t.mode := rfl
@[simp] theorem Team.chargeM_ibud (t : Team) (c : Nat) : (t.chargeM c).ibud = t.ibud := rfl
@[simp] theorem Team.chargeM_contpc (t : Team) (c : Nat) : (t.chargeM c).contpc = t.contpc := rfl
@[simp] theorem Team.chargeM_gang (t : Team) (c : Nat) : (t.chargeM c).gang = t.gang := rfl
@[simp] theorem Team.chargeM_accBase (t : Team) (c : Nat) : (t.chargeM c).accBase = t.accBase := rfl
@[simp] theorem Team.chargeM_accLim (t : Team) (c : Nat) : (t.chargeM c).accLim = t.accLim := rfl
@[simp] theorem Team.chargeM_sinkSite (t : Team) (c : Nat) : (t.chargeM c).sinkSite = t.sinkSite := rfl
@[simp] theorem Team.chargeM_clockh (t : Team) (c : Nat) : (t.chargeM c).clockh = t.clockh := rfl
@[simp] theorem Team.chargeM_batchNext (t : Team) (c : Nat) : (t.chargeM c).batchNext = t.batchNext := rfl
@[simp] theorem Team.chargeM_batchDone (t : Team) (c : Nat) : (t.chargeM c).batchDone = t.batchDone := rfl
@[simp] theorem Team.chargeM_batches (t : Team) (c : Nat) : (t.chargeM c).batches = t.batches := rfl
@[simp] theorem Team.chargeM_pins (t : Team) (c : Nat) : (t.chargeM c).pins = t.pins := rfl
@[simp] theorem Team.chargeM_trap (t : Team) (c : Nat) : (t.chargeM c).trap = t.trap := rfl
@[simp] theorem Team.chargeM_chain (t : Team) (c : Nat) : (t.chargeM c).chain = t.chain := rfl
@[simp] theorem Team.chargeM_mma (t : Team) (c : Nat) : (t.chargeM c).mma = t.mma := rfl
@[simp] theorem Team.chargeM_outs (t : Team) (c : Nat) : (t.chargeM c).outs = t.outs := rfl
@[simp] theorem Team.chargeM_nextOut (t : Team) (c : Nat) : (t.chargeM c).nextOut = t.nextOut := rfl
@[simp] theorem Team.chargeM_behind (t : Team) (c : Nat) : (t.chargeM c).behind = t.behind := rfl
@[simp] theorem Team.chargeM_faultLines (t : Team) (c : Nat) : (t.chargeM c).faultLines = t.faultLines := rfl
@[simp] theorem Team.chargeM_scaleFaults (t : Team) (c : Nat) : (t.chargeM c).scaleFaults = t.scaleFaults := rfl
@[simp] theorem Team.chargeM_holds (t : Team) (c : Nat) : (t.chargeM c).holds = t.holds := rfl
@[simp] theorem Team.chargeM_unsettled (t : Team) (c : Nat) : (t.chargeM c).unsettled = t.unsettled := rfl
@[simp] theorem Team.chargeM_wait (t : Team) (c : Nat) : (t.chargeM c).wait = t.wait := rfl
@[simp] theorem Team.chargeM_waitSince (t : Team) (c : Nat) : (t.chargeM c).waitSince = t.waitSince := rfl
@[simp] theorem Team.chargeM_untracked (t : Team) (c : Nat) : (t.chargeM c).untracked = t.untracked := rfl
@[simp] theorem Team.chargeM_waitUntracked (t : Team) (c : Nat) : (t.chargeM c).waitUntracked = t.waitUntracked := rfl
@[simp] theorem Team.chargeM_waitExt (t : Team) (c : Nat) : (t.chargeM c).waitExt = t.waitExt := rfl
@[simp] theorem Team.chargeM_farHolds (t : Team) (c : Nat) : (t.chargeM c).farHolds = t.farHolds := rfl
@[simp] theorem Team.chargeM_parkedIn (t : Team) (c : Nat) : (t.chargeM c).parkedIn = t.parkedIn := rfl
@[simp] theorem Team.chargeM_entries (t : Team) (c : Nat) : (t.chargeM c).entries = t.entries := rfl
@[simp] theorem Team.chargeM_standing (t : Team) (c : Nat) : (t.chargeM c).standing = t.standing := rfl
@[simp] theorem Team.chargeM_standSince (t : Team) (c : Nat) : (t.chargeM c).standSince = t.standSince := rfl
@[simp] theorem Team.chargeM_admission (t : Team) (c : Nat) : (t.chargeM c).admission = t.admission := rfl
@[simp] theorem Team.chargeM_holdings (t : Team) (c : Nat) : (t.chargeM c).holdings = t.holdings := rfl
@[simp] theorem Team.chargeM_stood (t : Team) (c : Nat) : (t.chargeM c).stood = t.stood := rfl
@[simp] theorem Team.chargeM_triggered (t : Team) (c : Nat) : (t.chargeM c).triggered = t.triggered := rfl
@[simp] theorem Team.chargeM_pending (t : Team) (c : Nat) : (t.chargeM c).pending = t.pending := rfl
@[simp] theorem Team.chargeM_halt (t : Team) (c : Nat) : (t.chargeM c).halt = t.halt := rfl
@[simp] theorem Team.chargeM_halted (t : Team) (c : Nat) : (t.chargeM c).halted = t.halted := rfl
@[simp] theorem Team.chargeM_reissue (t : Team) (c : Nat) : (t.chargeM c).reissue = t.reissue := rfl
@[simp] theorem Team.chargeM_heldStop (t : Team) (c : Nat) : (t.chargeM c).heldStop = t.heldStop := rfl
@[simp] theorem Team.chargeM_laterStops (t : Team) (c : Nat) : (t.chargeM c).laterStops = t.laterStops := rfl
@[simp] theorem Team.chargeM_packet (t : Team) (c : Nat) : (t.chargeM c).packet = t.packet := rfl
@[simp] theorem Team.chargeM_stalled (t : Team) (c : Nat) : (t.chargeM c).stalled = t.stalled := rfl
@[simp] theorem Team.chargeM_struck (t : Team) (c : Nat) : (t.chargeM c).struck = t.struck := rfl
@[simp] theorem Team.chargeM_evict (t : Team) (c : Nat) : (t.chargeM c).evict = t.evict := rfl
@[simp] theorem Team.chargeM_mustYield (t : Team) (c : Nat) : (t.chargeM c).mustYield = t.mustYield := rfl
@[simp] theorem Team.chargeM_parkedAt (t : Team) (c : Nat) : (t.chargeM c).parkedAt = t.parkedAt := rfl
@[simp] theorem Team.chargeM_active (t : Team) (c : Nat) : (t.chargeM c).active = t.active := rfl
@[simp] theorem Team.chargeM_lastIssue (t : Team) (c : Nat) : (t.chargeM c).lastIssue = t.lastIssue := rfl
@[simp] theorem Team.chargeM_readySince (t : Team) (c : Nat) : (t.chargeM c).readySince = t.readySince := rfl
@[simp] theorem Team.chargeM_overdue (t : Team) (c : Nat) : (t.chargeM c).overdue = t.overdue := rfl
@[simp] theorem Team.chargeM_escals (t : Team) (c : Nat) : (t.chargeM c).escals = t.escals := rfl
@[simp] theorem Team.chargeM_noHolder (t : Team) (c : Nat) : (t.chargeM c).noHolder = t.noHolder := rfl
@[simp] theorem Team.writeV_crew (t : Team) (j l : Nat) (w : Word) : (t.writeV j l w).crew = t.crew := rfl
@[simp] theorem Team.writeV_idx (t : Team) (j l : Nat) (w : Word) : (t.writeV j l w).idx = t.idx := rfl
@[simp] theorem Team.writeV_lanes (t : Team) (j l : Nat) (w : Word) : (t.writeV j l w).lanes = t.lanes := rfl
@[simp] theorem Team.writeV_role (t : Team) (j l : Nat) (w : Word) : (t.writeV j l w).role = t.role := rfl
@[simp] theorem Team.writeV_slot (t : Team) (j l : Nat) (w : Word) : (t.writeV j l w).slot = t.slot := rfl
@[simp] theorem Team.writeV_place (t : Team) (j l : Nat) (w : Word) : (t.writeV j l w).place = t.place := rfl
@[simp] theorem Team.writeV_pc (t : Team) (j l : Nat) (w : Word) : (t.writeV j l w).pc = t.pc := rfl
@[simp] theorem Team.writeV_mask (t : Team) (j l : Nat) (w : Word) : (t.writeV j l w).mask = t.mask := rfl
@[simp] theorem Team.writeV_stack (t : Team) (j l : Nat) (w : Word) : (t.writeV j l w).stack = t.stack := rfl
@[simp] theorem Team.writeV_spilled (t : Team) (j l : Nat) (w : Word) : (t.writeV j l w).spilled = t.spilled := rfl
@[simp] theorem Team.writeV_window (t : Team) (j l : Nat) (w : Word) : (t.writeV j l w).window = t.window := rfl
@[simp] theorem Team.writeV_sregs (t : Team) (j l : Nat) (w : Word) : (t.writeV j l w).sregs = t.sregs := rfl
@[simp] theorem Team.writeV_preds (t : Team) (j l : Nat) (w : Word) : (t.writeV j l w).preds = t.preds := rfl
@[simp] theorem Team.writeV_mode (t : Team) (j l : Nat) (w : Word) : (t.writeV j l w).mode = t.mode := rfl
@[simp] theorem Team.writeV_ibud (t : Team) (j l : Nat) (w : Word) : (t.writeV j l w).ibud = t.ibud := rfl
@[simp] theorem Team.writeV_mbud (t : Team) (j l : Nat) (w : Word) : (t.writeV j l w).mbud = t.mbud := rfl
@[simp] theorem Team.writeV_contpc (t : Team) (j l : Nat) (w : Word) : (t.writeV j l w).contpc = t.contpc := rfl
@[simp] theorem Team.writeV_gang (t : Team) (j l : Nat) (w : Word) : (t.writeV j l w).gang = t.gang := rfl
@[simp] theorem Team.writeV_accBase (t : Team) (j l : Nat) (w : Word) : (t.writeV j l w).accBase = t.accBase := rfl
@[simp] theorem Team.writeV_accLim (t : Team) (j l : Nat) (w : Word) : (t.writeV j l w).accLim = t.accLim := rfl
@[simp] theorem Team.writeV_sinkSite (t : Team) (j l : Nat) (w : Word) : (t.writeV j l w).sinkSite = t.sinkSite := rfl
@[simp] theorem Team.writeV_clockh (t : Team) (j l : Nat) (w : Word) : (t.writeV j l w).clockh = t.clockh := rfl
@[simp] theorem Team.writeV_batchNext (t : Team) (j l : Nat) (w : Word) : (t.writeV j l w).batchNext = t.batchNext := rfl
@[simp] theorem Team.writeV_batchDone (t : Team) (j l : Nat) (w : Word) : (t.writeV j l w).batchDone = t.batchDone := rfl
@[simp] theorem Team.writeV_batches (t : Team) (j l : Nat) (w : Word) : (t.writeV j l w).batches = t.batches := rfl
@[simp] theorem Team.writeV_pins (t : Team) (j l : Nat) (w : Word) : (t.writeV j l w).pins = t.pins := rfl
@[simp] theorem Team.writeV_trap (t : Team) (j l : Nat) (w : Word) : (t.writeV j l w).trap = t.trap := rfl
@[simp] theorem Team.writeV_chain (t : Team) (j l : Nat) (w : Word) : (t.writeV j l w).chain = t.chain := rfl
@[simp] theorem Team.writeV_mma (t : Team) (j l : Nat) (w : Word) : (t.writeV j l w).mma = t.mma := rfl
@[simp] theorem Team.writeV_outs (t : Team) (j l : Nat) (w : Word) : (t.writeV j l w).outs = t.outs := rfl
@[simp] theorem Team.writeV_nextOut (t : Team) (j l : Nat) (w : Word) : (t.writeV j l w).nextOut = t.nextOut := rfl
@[simp] theorem Team.writeV_behind (t : Team) (j l : Nat) (w : Word) : (t.writeV j l w).behind = t.behind := rfl
@[simp] theorem Team.writeV_faultLines (t : Team) (j l : Nat) (w : Word) : (t.writeV j l w).faultLines = t.faultLines := rfl
@[simp] theorem Team.writeV_scaleFaults (t : Team) (j l : Nat) (w : Word) : (t.writeV j l w).scaleFaults = t.scaleFaults := rfl
@[simp] theorem Team.writeV_holds (t : Team) (j l : Nat) (w : Word) : (t.writeV j l w).holds = t.holds := rfl
@[simp] theorem Team.writeV_unsettled (t : Team) (j l : Nat) (w : Word) : (t.writeV j l w).unsettled = t.unsettled := rfl
@[simp] theorem Team.writeV_wait (t : Team) (j l : Nat) (w : Word) : (t.writeV j l w).wait = t.wait := rfl
@[simp] theorem Team.writeV_waitSince (t : Team) (j l : Nat) (w : Word) : (t.writeV j l w).waitSince = t.waitSince := rfl
@[simp] theorem Team.writeV_untracked (t : Team) (j l : Nat) (w : Word) : (t.writeV j l w).untracked = t.untracked := rfl
@[simp] theorem Team.writeV_waitUntracked (t : Team) (j l : Nat) (w : Word) : (t.writeV j l w).waitUntracked = t.waitUntracked := rfl
@[simp] theorem Team.writeV_waitExt (t : Team) (j l : Nat) (w : Word) : (t.writeV j l w).waitExt = t.waitExt := rfl
@[simp] theorem Team.writeV_farHolds (t : Team) (j l : Nat) (w : Word) : (t.writeV j l w).farHolds = t.farHolds := rfl
@[simp] theorem Team.writeV_parkedIn (t : Team) (j l : Nat) (w : Word) : (t.writeV j l w).parkedIn = t.parkedIn := rfl
@[simp] theorem Team.writeV_entries (t : Team) (j l : Nat) (w : Word) : (t.writeV j l w).entries = t.entries := rfl
@[simp] theorem Team.writeV_standing (t : Team) (j l : Nat) (w : Word) : (t.writeV j l w).standing = t.standing := rfl
@[simp] theorem Team.writeV_standSince (t : Team) (j l : Nat) (w : Word) : (t.writeV j l w).standSince = t.standSince := rfl
@[simp] theorem Team.writeV_admission (t : Team) (j l : Nat) (w : Word) : (t.writeV j l w).admission = t.admission := rfl
@[simp] theorem Team.writeV_holdings (t : Team) (j l : Nat) (w : Word) : (t.writeV j l w).holdings = t.holdings := rfl
@[simp] theorem Team.writeV_stood (t : Team) (j l : Nat) (w : Word) : (t.writeV j l w).stood = t.stood := rfl
@[simp] theorem Team.writeV_triggered (t : Team) (j l : Nat) (w : Word) : (t.writeV j l w).triggered = t.triggered := rfl
@[simp] theorem Team.writeV_pending (t : Team) (j l : Nat) (w : Word) : (t.writeV j l w).pending = t.pending := rfl
@[simp] theorem Team.writeV_halt (t : Team) (j l : Nat) (w : Word) : (t.writeV j l w).halt = t.halt := rfl
@[simp] theorem Team.writeV_halted (t : Team) (j l : Nat) (w : Word) : (t.writeV j l w).halted = t.halted := rfl
@[simp] theorem Team.writeV_reissue (t : Team) (j l : Nat) (w : Word) : (t.writeV j l w).reissue = t.reissue := rfl
@[simp] theorem Team.writeV_heldStop (t : Team) (j l : Nat) (w : Word) : (t.writeV j l w).heldStop = t.heldStop := rfl
@[simp] theorem Team.writeV_laterStops (t : Team) (j l : Nat) (w : Word) : (t.writeV j l w).laterStops = t.laterStops := rfl
@[simp] theorem Team.writeV_packet (t : Team) (j l : Nat) (w : Word) : (t.writeV j l w).packet = t.packet := rfl
@[simp] theorem Team.writeV_stalled (t : Team) (j l : Nat) (w : Word) : (t.writeV j l w).stalled = t.stalled := rfl
@[simp] theorem Team.writeV_struck (t : Team) (j l : Nat) (w : Word) : (t.writeV j l w).struck = t.struck := rfl
@[simp] theorem Team.writeV_evict (t : Team) (j l : Nat) (w : Word) : (t.writeV j l w).evict = t.evict := rfl
@[simp] theorem Team.writeV_mustYield (t : Team) (j l : Nat) (w : Word) : (t.writeV j l w).mustYield = t.mustYield := rfl
@[simp] theorem Team.writeV_parkedAt (t : Team) (j l : Nat) (w : Word) : (t.writeV j l w).parkedAt = t.parkedAt := rfl
@[simp] theorem Team.writeV_active (t : Team) (j l : Nat) (w : Word) : (t.writeV j l w).active = t.active := rfl
@[simp] theorem Team.writeV_lastIssue (t : Team) (j l : Nat) (w : Word) : (t.writeV j l w).lastIssue = t.lastIssue := rfl
@[simp] theorem Team.writeV_readySince (t : Team) (j l : Nat) (w : Word) : (t.writeV j l w).readySince = t.readySince := rfl
@[simp] theorem Team.writeV_overdue (t : Team) (j l : Nat) (w : Word) : (t.writeV j l w).overdue = t.overdue := rfl
@[simp] theorem Team.writeV_escals (t : Team) (j l : Nat) (w : Word) : (t.writeV j l w).escals = t.escals := rfl
@[simp] theorem Team.writeV_noHolder (t : Team) (j l : Nat) (w : Word) : (t.writeV j l w).noHolder = t.noHolder := rfl
@[simp] theorem Team.writeS_crew (t : Team) (j : Nat) (w : Word) : (t.writeS j w).crew = t.crew := by unfold Team.writeS; split <;> rfl
@[simp] theorem Team.writeS_idx (t : Team) (j : Nat) (w : Word) : (t.writeS j w).idx = t.idx := by unfold Team.writeS; split <;> rfl
@[simp] theorem Team.writeS_lanes (t : Team) (j : Nat) (w : Word) : (t.writeS j w).lanes = t.lanes := by unfold Team.writeS; split <;> rfl
@[simp] theorem Team.writeS_role (t : Team) (j : Nat) (w : Word) : (t.writeS j w).role = t.role := by unfold Team.writeS; split <;> rfl
@[simp] theorem Team.writeS_slot (t : Team) (j : Nat) (w : Word) : (t.writeS j w).slot = t.slot := by unfold Team.writeS; split <;> rfl
@[simp] theorem Team.writeS_place (t : Team) (j : Nat) (w : Word) : (t.writeS j w).place = t.place := by unfold Team.writeS; split <;> rfl
@[simp] theorem Team.writeS_pc (t : Team) (j : Nat) (w : Word) : (t.writeS j w).pc = t.pc := by unfold Team.writeS; split <;> rfl
@[simp] theorem Team.writeS_mask (t : Team) (j : Nat) (w : Word) : (t.writeS j w).mask = t.mask := by unfold Team.writeS; split <;> rfl
@[simp] theorem Team.writeS_stack (t : Team) (j : Nat) (w : Word) : (t.writeS j w).stack = t.stack := by unfold Team.writeS; split <;> rfl
@[simp] theorem Team.writeS_spilled (t : Team) (j : Nat) (w : Word) : (t.writeS j w).spilled = t.spilled := by unfold Team.writeS; split <;> rfl
@[simp] theorem Team.writeS_window (t : Team) (j : Nat) (w : Word) : (t.writeS j w).window = t.window := by unfold Team.writeS; split <;> rfl
@[simp] theorem Team.writeS_vregs (t : Team) (j : Nat) (w : Word) : (t.writeS j w).vregs = t.vregs := by unfold Team.writeS; split <;> rfl
@[simp] theorem Team.writeS_preds (t : Team) (j : Nat) (w : Word) : (t.writeS j w).preds = t.preds := by unfold Team.writeS; split <;> rfl
@[simp] theorem Team.writeS_mode (t : Team) (j : Nat) (w : Word) : (t.writeS j w).mode = t.mode := by unfold Team.writeS; split <;> rfl
@[simp] theorem Team.writeS_ibud (t : Team) (j : Nat) (w : Word) : (t.writeS j w).ibud = t.ibud := by unfold Team.writeS; split <;> rfl
@[simp] theorem Team.writeS_mbud (t : Team) (j : Nat) (w : Word) : (t.writeS j w).mbud = t.mbud := by unfold Team.writeS; split <;> rfl
@[simp] theorem Team.writeS_contpc (t : Team) (j : Nat) (w : Word) : (t.writeS j w).contpc = t.contpc := by unfold Team.writeS; split <;> rfl
@[simp] theorem Team.writeS_gang (t : Team) (j : Nat) (w : Word) : (t.writeS j w).gang = t.gang := by unfold Team.writeS; split <;> rfl
@[simp] theorem Team.writeS_accBase (t : Team) (j : Nat) (w : Word) : (t.writeS j w).accBase = t.accBase := by unfold Team.writeS; split <;> rfl
@[simp] theorem Team.writeS_accLim (t : Team) (j : Nat) (w : Word) : (t.writeS j w).accLim = t.accLim := by unfold Team.writeS; split <;> rfl
@[simp] theorem Team.writeS_sinkSite (t : Team) (j : Nat) (w : Word) : (t.writeS j w).sinkSite = t.sinkSite := by unfold Team.writeS; split <;> rfl
@[simp] theorem Team.writeS_clockh (t : Team) (j : Nat) (w : Word) : (t.writeS j w).clockh = t.clockh := by unfold Team.writeS; split <;> rfl
@[simp] theorem Team.writeS_batchNext (t : Team) (j : Nat) (w : Word) : (t.writeS j w).batchNext = t.batchNext := by unfold Team.writeS; split <;> rfl
@[simp] theorem Team.writeS_batchDone (t : Team) (j : Nat) (w : Word) : (t.writeS j w).batchDone = t.batchDone := by unfold Team.writeS; split <;> rfl
@[simp] theorem Team.writeS_batches (t : Team) (j : Nat) (w : Word) : (t.writeS j w).batches = t.batches := by unfold Team.writeS; split <;> rfl
@[simp] theorem Team.writeS_pins (t : Team) (j : Nat) (w : Word) : (t.writeS j w).pins = t.pins := by unfold Team.writeS; split <;> rfl
@[simp] theorem Team.writeS_trap (t : Team) (j : Nat) (w : Word) : (t.writeS j w).trap = t.trap := by unfold Team.writeS; split <;> rfl
@[simp] theorem Team.writeS_chain (t : Team) (j : Nat) (w : Word) : (t.writeS j w).chain = t.chain := by unfold Team.writeS; split <;> rfl
@[simp] theorem Team.writeS_mma (t : Team) (j : Nat) (w : Word) : (t.writeS j w).mma = t.mma := by unfold Team.writeS; split <;> rfl
@[simp] theorem Team.writeS_outs (t : Team) (j : Nat) (w : Word) : (t.writeS j w).outs = t.outs := by unfold Team.writeS; split <;> rfl
@[simp] theorem Team.writeS_nextOut (t : Team) (j : Nat) (w : Word) : (t.writeS j w).nextOut = t.nextOut := by unfold Team.writeS; split <;> rfl
@[simp] theorem Team.writeS_behind (t : Team) (j : Nat) (w : Word) : (t.writeS j w).behind = t.behind := by unfold Team.writeS; split <;> rfl
@[simp] theorem Team.writeS_faultLines (t : Team) (j : Nat) (w : Word) : (t.writeS j w).faultLines = t.faultLines := by unfold Team.writeS; split <;> rfl
@[simp] theorem Team.writeS_scaleFaults (t : Team) (j : Nat) (w : Word) : (t.writeS j w).scaleFaults = t.scaleFaults := by unfold Team.writeS; split <;> rfl
@[simp] theorem Team.writeS_holds (t : Team) (j : Nat) (w : Word) : (t.writeS j w).holds = t.holds := by unfold Team.writeS; split <;> rfl
@[simp] theorem Team.writeS_unsettled (t : Team) (j : Nat) (w : Word) : (t.writeS j w).unsettled = t.unsettled := by unfold Team.writeS; split <;> rfl
@[simp] theorem Team.writeS_wait (t : Team) (j : Nat) (w : Word) : (t.writeS j w).wait = t.wait := by unfold Team.writeS; split <;> rfl
@[simp] theorem Team.writeS_waitSince (t : Team) (j : Nat) (w : Word) : (t.writeS j w).waitSince = t.waitSince := by unfold Team.writeS; split <;> rfl
@[simp] theorem Team.writeS_untracked (t : Team) (j : Nat) (w : Word) : (t.writeS j w).untracked = t.untracked := by unfold Team.writeS; split <;> rfl
@[simp] theorem Team.writeS_waitUntracked (t : Team) (j : Nat) (w : Word) : (t.writeS j w).waitUntracked = t.waitUntracked := by unfold Team.writeS; split <;> rfl
@[simp] theorem Team.writeS_waitExt (t : Team) (j : Nat) (w : Word) : (t.writeS j w).waitExt = t.waitExt := by unfold Team.writeS; split <;> rfl
@[simp] theorem Team.writeS_farHolds (t : Team) (j : Nat) (w : Word) : (t.writeS j w).farHolds = t.farHolds := by unfold Team.writeS; split <;> rfl
@[simp] theorem Team.writeS_parkedIn (t : Team) (j : Nat) (w : Word) : (t.writeS j w).parkedIn = t.parkedIn := by unfold Team.writeS; split <;> rfl
@[simp] theorem Team.writeS_entries (t : Team) (j : Nat) (w : Word) : (t.writeS j w).entries = t.entries := by unfold Team.writeS; split <;> rfl
@[simp] theorem Team.writeS_standing (t : Team) (j : Nat) (w : Word) : (t.writeS j w).standing = t.standing := by unfold Team.writeS; split <;> rfl
@[simp] theorem Team.writeS_standSince (t : Team) (j : Nat) (w : Word) : (t.writeS j w).standSince = t.standSince := by unfold Team.writeS; split <;> rfl
@[simp] theorem Team.writeS_admission (t : Team) (j : Nat) (w : Word) : (t.writeS j w).admission = t.admission := by unfold Team.writeS; split <;> rfl
@[simp] theorem Team.writeS_holdings (t : Team) (j : Nat) (w : Word) : (t.writeS j w).holdings = t.holdings := by unfold Team.writeS; split <;> rfl
@[simp] theorem Team.writeS_stood (t : Team) (j : Nat) (w : Word) : (t.writeS j w).stood = t.stood := by unfold Team.writeS; split <;> rfl
@[simp] theorem Team.writeS_triggered (t : Team) (j : Nat) (w : Word) : (t.writeS j w).triggered = t.triggered := by unfold Team.writeS; split <;> rfl
@[simp] theorem Team.writeS_pending (t : Team) (j : Nat) (w : Word) : (t.writeS j w).pending = t.pending := by unfold Team.writeS; split <;> rfl
@[simp] theorem Team.writeS_halt (t : Team) (j : Nat) (w : Word) : (t.writeS j w).halt = t.halt := by unfold Team.writeS; split <;> rfl
@[simp] theorem Team.writeS_halted (t : Team) (j : Nat) (w : Word) : (t.writeS j w).halted = t.halted := by unfold Team.writeS; split <;> rfl
@[simp] theorem Team.writeS_reissue (t : Team) (j : Nat) (w : Word) : (t.writeS j w).reissue = t.reissue := by unfold Team.writeS; split <;> rfl
@[simp] theorem Team.writeS_heldStop (t : Team) (j : Nat) (w : Word) : (t.writeS j w).heldStop = t.heldStop := by unfold Team.writeS; split <;> rfl
@[simp] theorem Team.writeS_laterStops (t : Team) (j : Nat) (w : Word) : (t.writeS j w).laterStops = t.laterStops := by unfold Team.writeS; split <;> rfl
@[simp] theorem Team.writeS_packet (t : Team) (j : Nat) (w : Word) : (t.writeS j w).packet = t.packet := by unfold Team.writeS; split <;> rfl
@[simp] theorem Team.writeS_stalled (t : Team) (j : Nat) (w : Word) : (t.writeS j w).stalled = t.stalled := by unfold Team.writeS; split <;> rfl
@[simp] theorem Team.writeS_struck (t : Team) (j : Nat) (w : Word) : (t.writeS j w).struck = t.struck := by unfold Team.writeS; split <;> rfl
@[simp] theorem Team.writeS_evict (t : Team) (j : Nat) (w : Word) : (t.writeS j w).evict = t.evict := by unfold Team.writeS; split <;> rfl
@[simp] theorem Team.writeS_mustYield (t : Team) (j : Nat) (w : Word) : (t.writeS j w).mustYield = t.mustYield := by unfold Team.writeS; split <;> rfl
@[simp] theorem Team.writeS_parkedAt (t : Team) (j : Nat) (w : Word) : (t.writeS j w).parkedAt = t.parkedAt := by unfold Team.writeS; split <;> rfl
@[simp] theorem Team.writeS_active (t : Team) (j : Nat) (w : Word) : (t.writeS j w).active = t.active := by unfold Team.writeS; split <;> rfl
@[simp] theorem Team.writeS_lastIssue (t : Team) (j : Nat) (w : Word) : (t.writeS j w).lastIssue = t.lastIssue := by unfold Team.writeS; split <;> rfl
@[simp] theorem Team.writeS_readySince (t : Team) (j : Nat) (w : Word) : (t.writeS j w).readySince = t.readySince := by unfold Team.writeS; split <;> rfl
@[simp] theorem Team.writeS_overdue (t : Team) (j : Nat) (w : Word) : (t.writeS j w).overdue = t.overdue := by unfold Team.writeS; split <;> rfl
@[simp] theorem Team.writeS_escals (t : Team) (j : Nat) (w : Word) : (t.writeS j w).escals = t.escals := by unfold Team.writeS; split <;> rfl
@[simp] theorem Team.writeS_noHolder (t : Team) (j : Nat) (w : Word) : (t.writeS j w).noHolder = t.noHolder := by unfold Team.writeS; split <;> rfl
@[simp] theorem Team.wr_crew (t : Team) (r : Reg) (l : Nat) (w : Word) : (t.wr r l w).crew = t.crew := by cases r <;> simp [Team.wr]
@[simp] theorem Team.wr_idx (t : Team) (r : Reg) (l : Nat) (w : Word) : (t.wr r l w).idx = t.idx := by cases r <;> simp [Team.wr]
@[simp] theorem Team.wr_lanes (t : Team) (r : Reg) (l : Nat) (w : Word) : (t.wr r l w).lanes = t.lanes := by cases r <;> simp [Team.wr]
@[simp] theorem Team.wr_role (t : Team) (r : Reg) (l : Nat) (w : Word) : (t.wr r l w).role = t.role := by cases r <;> simp [Team.wr]
@[simp] theorem Team.wr_slot (t : Team) (r : Reg) (l : Nat) (w : Word) : (t.wr r l w).slot = t.slot := by cases r <;> simp [Team.wr]
@[simp] theorem Team.wr_place (t : Team) (r : Reg) (l : Nat) (w : Word) : (t.wr r l w).place = t.place := by cases r <;> simp [Team.wr]
@[simp] theorem Team.wr_pc (t : Team) (r : Reg) (l : Nat) (w : Word) : (t.wr r l w).pc = t.pc := by cases r <;> simp [Team.wr]
@[simp] theorem Team.wr_mask (t : Team) (r : Reg) (l : Nat) (w : Word) : (t.wr r l w).mask = t.mask := by cases r <;> simp [Team.wr]
@[simp] theorem Team.wr_stack (t : Team) (r : Reg) (l : Nat) (w : Word) : (t.wr r l w).stack = t.stack := by cases r <;> simp [Team.wr]
@[simp] theorem Team.wr_spilled (t : Team) (r : Reg) (l : Nat) (w : Word) : (t.wr r l w).spilled = t.spilled := by cases r <;> simp [Team.wr]
@[simp] theorem Team.wr_window (t : Team) (r : Reg) (l : Nat) (w : Word) : (t.wr r l w).window = t.window := by cases r <;> simp [Team.wr]
@[simp] theorem Team.wr_preds (t : Team) (r : Reg) (l : Nat) (w : Word) : (t.wr r l w).preds = t.preds := by cases r <;> simp [Team.wr]
@[simp] theorem Team.wr_mode (t : Team) (r : Reg) (l : Nat) (w : Word) : (t.wr r l w).mode = t.mode := by cases r <;> simp [Team.wr]
@[simp] theorem Team.wr_ibud (t : Team) (r : Reg) (l : Nat) (w : Word) : (t.wr r l w).ibud = t.ibud := by cases r <;> simp [Team.wr]
@[simp] theorem Team.wr_mbud (t : Team) (r : Reg) (l : Nat) (w : Word) : (t.wr r l w).mbud = t.mbud := by cases r <;> simp [Team.wr]
@[simp] theorem Team.wr_contpc (t : Team) (r : Reg) (l : Nat) (w : Word) : (t.wr r l w).contpc = t.contpc := by cases r <;> simp [Team.wr]
@[simp] theorem Team.wr_gang (t : Team) (r : Reg) (l : Nat) (w : Word) : (t.wr r l w).gang = t.gang := by cases r <;> simp [Team.wr]
@[simp] theorem Team.wr_accBase (t : Team) (r : Reg) (l : Nat) (w : Word) : (t.wr r l w).accBase = t.accBase := by cases r <;> simp [Team.wr]
@[simp] theorem Team.wr_accLim (t : Team) (r : Reg) (l : Nat) (w : Word) : (t.wr r l w).accLim = t.accLim := by cases r <;> simp [Team.wr]
@[simp] theorem Team.wr_sinkSite (t : Team) (r : Reg) (l : Nat) (w : Word) : (t.wr r l w).sinkSite = t.sinkSite := by cases r <;> simp [Team.wr]
@[simp] theorem Team.wr_clockh (t : Team) (r : Reg) (l : Nat) (w : Word) : (t.wr r l w).clockh = t.clockh := by cases r <;> simp [Team.wr]
@[simp] theorem Team.wr_batchNext (t : Team) (r : Reg) (l : Nat) (w : Word) : (t.wr r l w).batchNext = t.batchNext := by cases r <;> simp [Team.wr]
@[simp] theorem Team.wr_batchDone (t : Team) (r : Reg) (l : Nat) (w : Word) : (t.wr r l w).batchDone = t.batchDone := by cases r <;> simp [Team.wr]
@[simp] theorem Team.wr_batches (t : Team) (r : Reg) (l : Nat) (w : Word) : (t.wr r l w).batches = t.batches := by cases r <;> simp [Team.wr]
@[simp] theorem Team.wr_pins (t : Team) (r : Reg) (l : Nat) (w : Word) : (t.wr r l w).pins = t.pins := by cases r <;> simp [Team.wr]
@[simp] theorem Team.wr_trap (t : Team) (r : Reg) (l : Nat) (w : Word) : (t.wr r l w).trap = t.trap := by cases r <;> simp [Team.wr]
@[simp] theorem Team.wr_chain (t : Team) (r : Reg) (l : Nat) (w : Word) : (t.wr r l w).chain = t.chain := by cases r <;> simp [Team.wr]
@[simp] theorem Team.wr_mma (t : Team) (r : Reg) (l : Nat) (w : Word) : (t.wr r l w).mma = t.mma := by cases r <;> simp [Team.wr]
@[simp] theorem Team.wr_outs (t : Team) (r : Reg) (l : Nat) (w : Word) : (t.wr r l w).outs = t.outs := by cases r <;> simp [Team.wr]
@[simp] theorem Team.wr_nextOut (t : Team) (r : Reg) (l : Nat) (w : Word) : (t.wr r l w).nextOut = t.nextOut := by cases r <;> simp [Team.wr]
@[simp] theorem Team.wr_behind (t : Team) (r : Reg) (l : Nat) (w : Word) : (t.wr r l w).behind = t.behind := by cases r <;> simp [Team.wr]
@[simp] theorem Team.wr_faultLines (t : Team) (r : Reg) (l : Nat) (w : Word) : (t.wr r l w).faultLines = t.faultLines := by cases r <;> simp [Team.wr]
@[simp] theorem Team.wr_scaleFaults (t : Team) (r : Reg) (l : Nat) (w : Word) : (t.wr r l w).scaleFaults = t.scaleFaults := by cases r <;> simp [Team.wr]
@[simp] theorem Team.wr_holds (t : Team) (r : Reg) (l : Nat) (w : Word) : (t.wr r l w).holds = t.holds := by cases r <;> simp [Team.wr]
@[simp] theorem Team.wr_unsettled (t : Team) (r : Reg) (l : Nat) (w : Word) : (t.wr r l w).unsettled = t.unsettled := by cases r <;> simp [Team.wr]
@[simp] theorem Team.wr_wait (t : Team) (r : Reg) (l : Nat) (w : Word) : (t.wr r l w).wait = t.wait := by cases r <;> simp [Team.wr]
@[simp] theorem Team.wr_waitSince (t : Team) (r : Reg) (l : Nat) (w : Word) : (t.wr r l w).waitSince = t.waitSince := by cases r <;> simp [Team.wr]
@[simp] theorem Team.wr_untracked (t : Team) (r : Reg) (l : Nat) (w : Word) : (t.wr r l w).untracked = t.untracked := by cases r <;> simp [Team.wr]
@[simp] theorem Team.wr_waitUntracked (t : Team) (r : Reg) (l : Nat) (w : Word) : (t.wr r l w).waitUntracked = t.waitUntracked := by cases r <;> simp [Team.wr]
@[simp] theorem Team.wr_waitExt (t : Team) (r : Reg) (l : Nat) (w : Word) : (t.wr r l w).waitExt = t.waitExt := by cases r <;> simp [Team.wr]
@[simp] theorem Team.wr_farHolds (t : Team) (r : Reg) (l : Nat) (w : Word) : (t.wr r l w).farHolds = t.farHolds := by cases r <;> simp [Team.wr]
@[simp] theorem Team.wr_parkedIn (t : Team) (r : Reg) (l : Nat) (w : Word) : (t.wr r l w).parkedIn = t.parkedIn := by cases r <;> simp [Team.wr]
@[simp] theorem Team.wr_entries (t : Team) (r : Reg) (l : Nat) (w : Word) : (t.wr r l w).entries = t.entries := by cases r <;> simp [Team.wr]
@[simp] theorem Team.wr_standing (t : Team) (r : Reg) (l : Nat) (w : Word) : (t.wr r l w).standing = t.standing := by cases r <;> simp [Team.wr]
@[simp] theorem Team.wr_standSince (t : Team) (r : Reg) (l : Nat) (w : Word) : (t.wr r l w).standSince = t.standSince := by cases r <;> simp [Team.wr]
@[simp] theorem Team.wr_admission (t : Team) (r : Reg) (l : Nat) (w : Word) : (t.wr r l w).admission = t.admission := by cases r <;> simp [Team.wr]
@[simp] theorem Team.wr_holdings (t : Team) (r : Reg) (l : Nat) (w : Word) : (t.wr r l w).holdings = t.holdings := by cases r <;> simp [Team.wr]
@[simp] theorem Team.wr_stood (t : Team) (r : Reg) (l : Nat) (w : Word) : (t.wr r l w).stood = t.stood := by cases r <;> simp [Team.wr]
@[simp] theorem Team.wr_triggered (t : Team) (r : Reg) (l : Nat) (w : Word) : (t.wr r l w).triggered = t.triggered := by cases r <;> simp [Team.wr]
@[simp] theorem Team.wr_pending (t : Team) (r : Reg) (l : Nat) (w : Word) : (t.wr r l w).pending = t.pending := by cases r <;> simp [Team.wr]
@[simp] theorem Team.wr_halt (t : Team) (r : Reg) (l : Nat) (w : Word) : (t.wr r l w).halt = t.halt := by cases r <;> simp [Team.wr]
@[simp] theorem Team.wr_halted (t : Team) (r : Reg) (l : Nat) (w : Word) : (t.wr r l w).halted = t.halted := by cases r <;> simp [Team.wr]
@[simp] theorem Team.wr_reissue (t : Team) (r : Reg) (l : Nat) (w : Word) : (t.wr r l w).reissue = t.reissue := by cases r <;> simp [Team.wr]
@[simp] theorem Team.wr_heldStop (t : Team) (r : Reg) (l : Nat) (w : Word) : (t.wr r l w).heldStop = t.heldStop := by cases r <;> simp [Team.wr]
@[simp] theorem Team.wr_laterStops (t : Team) (r : Reg) (l : Nat) (w : Word) : (t.wr r l w).laterStops = t.laterStops := by cases r <;> simp [Team.wr]
@[simp] theorem Team.wr_packet (t : Team) (r : Reg) (l : Nat) (w : Word) : (t.wr r l w).packet = t.packet := by cases r <;> simp [Team.wr]
@[simp] theorem Team.wr_stalled (t : Team) (r : Reg) (l : Nat) (w : Word) : (t.wr r l w).stalled = t.stalled := by cases r <;> simp [Team.wr]
@[simp] theorem Team.wr_struck (t : Team) (r : Reg) (l : Nat) (w : Word) : (t.wr r l w).struck = t.struck := by cases r <;> simp [Team.wr]
@[simp] theorem Team.wr_evict (t : Team) (r : Reg) (l : Nat) (w : Word) : (t.wr r l w).evict = t.evict := by cases r <;> simp [Team.wr]
@[simp] theorem Team.wr_mustYield (t : Team) (r : Reg) (l : Nat) (w : Word) : (t.wr r l w).mustYield = t.mustYield := by cases r <;> simp [Team.wr]
@[simp] theorem Team.wr_parkedAt (t : Team) (r : Reg) (l : Nat) (w : Word) : (t.wr r l w).parkedAt = t.parkedAt := by cases r <;> simp [Team.wr]
@[simp] theorem Team.wr_active (t : Team) (r : Reg) (l : Nat) (w : Word) : (t.wr r l w).active = t.active := by cases r <;> simp [Team.wr]
@[simp] theorem Team.wr_lastIssue (t : Team) (r : Reg) (l : Nat) (w : Word) : (t.wr r l w).lastIssue = t.lastIssue := by cases r <;> simp [Team.wr]
@[simp] theorem Team.wr_readySince (t : Team) (r : Reg) (l : Nat) (w : Word) : (t.wr r l w).readySince = t.readySince := by cases r <;> simp [Team.wr]
@[simp] theorem Team.wr_overdue (t : Team) (r : Reg) (l : Nat) (w : Word) : (t.wr r l w).overdue = t.overdue := by cases r <;> simp [Team.wr]
@[simp] theorem Team.wr_escals (t : Team) (r : Reg) (l : Nat) (w : Word) : (t.wr r l w).escals = t.escals := by cases r <;> simp [Team.wr]
@[simp] theorem Team.wr_noHolder (t : Team) (r : Reg) (l : Nat) (w : Word) : (t.wr r l w).noHolder = t.noHolder := by cases r <;> simp [Team.wr]
@[simp] theorem Team.writePred_crew (t : Team) (p : Nat) (m v : LaneMask) : (t.writePred p m v).crew = t.crew := by unfold Team.writePred; split <;> rfl
@[simp] theorem Team.writePred_idx (t : Team) (p : Nat) (m v : LaneMask) : (t.writePred p m v).idx = t.idx := by unfold Team.writePred; split <;> rfl
@[simp] theorem Team.writePred_lanes (t : Team) (p : Nat) (m v : LaneMask) : (t.writePred p m v).lanes = t.lanes := by unfold Team.writePred; split <;> rfl
@[simp] theorem Team.writePred_role (t : Team) (p : Nat) (m v : LaneMask) : (t.writePred p m v).role = t.role := by unfold Team.writePred; split <;> rfl
@[simp] theorem Team.writePred_slot (t : Team) (p : Nat) (m v : LaneMask) : (t.writePred p m v).slot = t.slot := by unfold Team.writePred; split <;> rfl
@[simp] theorem Team.writePred_place (t : Team) (p : Nat) (m v : LaneMask) : (t.writePred p m v).place = t.place := by unfold Team.writePred; split <;> rfl
@[simp] theorem Team.writePred_pc (t : Team) (p : Nat) (m v : LaneMask) : (t.writePred p m v).pc = t.pc := by unfold Team.writePred; split <;> rfl
@[simp] theorem Team.writePred_mask (t : Team) (p : Nat) (m v : LaneMask) : (t.writePred p m v).mask = t.mask := by unfold Team.writePred; split <;> rfl
@[simp] theorem Team.writePred_stack (t : Team) (p : Nat) (m v : LaneMask) : (t.writePred p m v).stack = t.stack := by unfold Team.writePred; split <;> rfl
@[simp] theorem Team.writePred_spilled (t : Team) (p : Nat) (m v : LaneMask) : (t.writePred p m v).spilled = t.spilled := by unfold Team.writePred; split <;> rfl
@[simp] theorem Team.writePred_window (t : Team) (p : Nat) (m v : LaneMask) : (t.writePred p m v).window = t.window := by unfold Team.writePred; split <;> rfl
@[simp] theorem Team.writePred_vregs (t : Team) (p : Nat) (m v : LaneMask) : (t.writePred p m v).vregs = t.vregs := by unfold Team.writePred; split <;> rfl
@[simp] theorem Team.writePred_sregs (t : Team) (p : Nat) (m v : LaneMask) : (t.writePred p m v).sregs = t.sregs := by unfold Team.writePred; split <;> rfl
@[simp] theorem Team.writePred_mode (t : Team) (p : Nat) (m v : LaneMask) : (t.writePred p m v).mode = t.mode := by unfold Team.writePred; split <;> rfl
@[simp] theorem Team.writePred_ibud (t : Team) (p : Nat) (m v : LaneMask) : (t.writePred p m v).ibud = t.ibud := by unfold Team.writePred; split <;> rfl
@[simp] theorem Team.writePred_mbud (t : Team) (p : Nat) (m v : LaneMask) : (t.writePred p m v).mbud = t.mbud := by unfold Team.writePred; split <;> rfl
@[simp] theorem Team.writePred_contpc (t : Team) (p : Nat) (m v : LaneMask) : (t.writePred p m v).contpc = t.contpc := by unfold Team.writePred; split <;> rfl
@[simp] theorem Team.writePred_gang (t : Team) (p : Nat) (m v : LaneMask) : (t.writePred p m v).gang = t.gang := by unfold Team.writePred; split <;> rfl
@[simp] theorem Team.writePred_accBase (t : Team) (p : Nat) (m v : LaneMask) : (t.writePred p m v).accBase = t.accBase := by unfold Team.writePred; split <;> rfl
@[simp] theorem Team.writePred_accLim (t : Team) (p : Nat) (m v : LaneMask) : (t.writePred p m v).accLim = t.accLim := by unfold Team.writePred; split <;> rfl
@[simp] theorem Team.writePred_sinkSite (t : Team) (p : Nat) (m v : LaneMask) : (t.writePred p m v).sinkSite = t.sinkSite := by unfold Team.writePred; split <;> rfl
@[simp] theorem Team.writePred_clockh (t : Team) (p : Nat) (m v : LaneMask) : (t.writePred p m v).clockh = t.clockh := by unfold Team.writePred; split <;> rfl
@[simp] theorem Team.writePred_batchNext (t : Team) (p : Nat) (m v : LaneMask) : (t.writePred p m v).batchNext = t.batchNext := by unfold Team.writePred; split <;> rfl
@[simp] theorem Team.writePred_batchDone (t : Team) (p : Nat) (m v : LaneMask) : (t.writePred p m v).batchDone = t.batchDone := by unfold Team.writePred; split <;> rfl
@[simp] theorem Team.writePred_batches (t : Team) (p : Nat) (m v : LaneMask) : (t.writePred p m v).batches = t.batches := by unfold Team.writePred; split <;> rfl
@[simp] theorem Team.writePred_pins (t : Team) (p : Nat) (m v : LaneMask) : (t.writePred p m v).pins = t.pins := by unfold Team.writePred; split <;> rfl
@[simp] theorem Team.writePred_trap (t : Team) (p : Nat) (m v : LaneMask) : (t.writePred p m v).trap = t.trap := by unfold Team.writePred; split <;> rfl
@[simp] theorem Team.writePred_chain (t : Team) (p : Nat) (m v : LaneMask) : (t.writePred p m v).chain = t.chain := by unfold Team.writePred; split <;> rfl
@[simp] theorem Team.writePred_mma (t : Team) (p : Nat) (m v : LaneMask) : (t.writePred p m v).mma = t.mma := by unfold Team.writePred; split <;> rfl
@[simp] theorem Team.writePred_outs (t : Team) (p : Nat) (m v : LaneMask) : (t.writePred p m v).outs = t.outs := by unfold Team.writePred; split <;> rfl
@[simp] theorem Team.writePred_nextOut (t : Team) (p : Nat) (m v : LaneMask) : (t.writePred p m v).nextOut = t.nextOut := by unfold Team.writePred; split <;> rfl
@[simp] theorem Team.writePred_behind (t : Team) (p : Nat) (m v : LaneMask) : (t.writePred p m v).behind = t.behind := by unfold Team.writePred; split <;> rfl
@[simp] theorem Team.writePred_faultLines (t : Team) (p : Nat) (m v : LaneMask) : (t.writePred p m v).faultLines = t.faultLines := by unfold Team.writePred; split <;> rfl
@[simp] theorem Team.writePred_scaleFaults (t : Team) (p : Nat) (m v : LaneMask) : (t.writePred p m v).scaleFaults = t.scaleFaults := by unfold Team.writePred; split <;> rfl
@[simp] theorem Team.writePred_holds (t : Team) (p : Nat) (m v : LaneMask) : (t.writePred p m v).holds = t.holds := by unfold Team.writePred; split <;> rfl
@[simp] theorem Team.writePred_unsettled (t : Team) (p : Nat) (m v : LaneMask) : (t.writePred p m v).unsettled = t.unsettled := by unfold Team.writePred; split <;> rfl
@[simp] theorem Team.writePred_wait (t : Team) (p : Nat) (m v : LaneMask) : (t.writePred p m v).wait = t.wait := by unfold Team.writePred; split <;> rfl
@[simp] theorem Team.writePred_waitSince (t : Team) (p : Nat) (m v : LaneMask) : (t.writePred p m v).waitSince = t.waitSince := by unfold Team.writePred; split <;> rfl
@[simp] theorem Team.writePred_untracked (t : Team) (p : Nat) (m v : LaneMask) : (t.writePred p m v).untracked = t.untracked := by unfold Team.writePred; split <;> rfl
@[simp] theorem Team.writePred_waitUntracked (t : Team) (p : Nat) (m v : LaneMask) : (t.writePred p m v).waitUntracked = t.waitUntracked := by unfold Team.writePred; split <;> rfl
@[simp] theorem Team.writePred_waitExt (t : Team) (p : Nat) (m v : LaneMask) : (t.writePred p m v).waitExt = t.waitExt := by unfold Team.writePred; split <;> rfl
@[simp] theorem Team.writePred_farHolds (t : Team) (p : Nat) (m v : LaneMask) : (t.writePred p m v).farHolds = t.farHolds := by unfold Team.writePred; split <;> rfl
@[simp] theorem Team.writePred_parkedIn (t : Team) (p : Nat) (m v : LaneMask) : (t.writePred p m v).parkedIn = t.parkedIn := by unfold Team.writePred; split <;> rfl
@[simp] theorem Team.writePred_entries (t : Team) (p : Nat) (m v : LaneMask) : (t.writePred p m v).entries = t.entries := by unfold Team.writePred; split <;> rfl
@[simp] theorem Team.writePred_standing (t : Team) (p : Nat) (m v : LaneMask) : (t.writePred p m v).standing = t.standing := by unfold Team.writePred; split <;> rfl
@[simp] theorem Team.writePred_standSince (t : Team) (p : Nat) (m v : LaneMask) : (t.writePred p m v).standSince = t.standSince := by unfold Team.writePred; split <;> rfl
@[simp] theorem Team.writePred_admission (t : Team) (p : Nat) (m v : LaneMask) : (t.writePred p m v).admission = t.admission := by unfold Team.writePred; split <;> rfl
@[simp] theorem Team.writePred_holdings (t : Team) (p : Nat) (m v : LaneMask) : (t.writePred p m v).holdings = t.holdings := by unfold Team.writePred; split <;> rfl
@[simp] theorem Team.writePred_stood (t : Team) (p : Nat) (m v : LaneMask) : (t.writePred p m v).stood = t.stood := by unfold Team.writePred; split <;> rfl
@[simp] theorem Team.writePred_triggered (t : Team) (p : Nat) (m v : LaneMask) : (t.writePred p m v).triggered = t.triggered := by unfold Team.writePred; split <;> rfl
@[simp] theorem Team.writePred_pending (t : Team) (p : Nat) (m v : LaneMask) : (t.writePred p m v).pending = t.pending := by unfold Team.writePred; split <;> rfl
@[simp] theorem Team.writePred_halt (t : Team) (p : Nat) (m v : LaneMask) : (t.writePred p m v).halt = t.halt := by unfold Team.writePred; split <;> rfl
@[simp] theorem Team.writePred_halted (t : Team) (p : Nat) (m v : LaneMask) : (t.writePred p m v).halted = t.halted := by unfold Team.writePred; split <;> rfl
@[simp] theorem Team.writePred_reissue (t : Team) (p : Nat) (m v : LaneMask) : (t.writePred p m v).reissue = t.reissue := by unfold Team.writePred; split <;> rfl
@[simp] theorem Team.writePred_heldStop (t : Team) (p : Nat) (m v : LaneMask) : (t.writePred p m v).heldStop = t.heldStop := by unfold Team.writePred; split <;> rfl
@[simp] theorem Team.writePred_laterStops (t : Team) (p : Nat) (m v : LaneMask) : (t.writePred p m v).laterStops = t.laterStops := by unfold Team.writePred; split <;> rfl
@[simp] theorem Team.writePred_packet (t : Team) (p : Nat) (m v : LaneMask) : (t.writePred p m v).packet = t.packet := by unfold Team.writePred; split <;> rfl
@[simp] theorem Team.writePred_stalled (t : Team) (p : Nat) (m v : LaneMask) : (t.writePred p m v).stalled = t.stalled := by unfold Team.writePred; split <;> rfl
@[simp] theorem Team.writePred_struck (t : Team) (p : Nat) (m v : LaneMask) : (t.writePred p m v).struck = t.struck := by unfold Team.writePred; split <;> rfl
@[simp] theorem Team.writePred_evict (t : Team) (p : Nat) (m v : LaneMask) : (t.writePred p m v).evict = t.evict := by unfold Team.writePred; split <;> rfl
@[simp] theorem Team.writePred_mustYield (t : Team) (p : Nat) (m v : LaneMask) : (t.writePred p m v).mustYield = t.mustYield := by unfold Team.writePred; split <;> rfl
@[simp] theorem Team.writePred_parkedAt (t : Team) (p : Nat) (m v : LaneMask) : (t.writePred p m v).parkedAt = t.parkedAt := by unfold Team.writePred; split <;> rfl
@[simp] theorem Team.writePred_active (t : Team) (p : Nat) (m v : LaneMask) : (t.writePred p m v).active = t.active := by unfold Team.writePred; split <;> rfl
@[simp] theorem Team.writePred_lastIssue (t : Team) (p : Nat) (m v : LaneMask) : (t.writePred p m v).lastIssue = t.lastIssue := by unfold Team.writePred; split <;> rfl
@[simp] theorem Team.writePred_readySince (t : Team) (p : Nat) (m v : LaneMask) : (t.writePred p m v).readySince = t.readySince := by unfold Team.writePred; split <;> rfl
@[simp] theorem Team.writePred_overdue (t : Team) (p : Nat) (m v : LaneMask) : (t.writePred p m v).overdue = t.overdue := by unfold Team.writePred; split <;> rfl
@[simp] theorem Team.writePred_escals (t : Team) (p : Nat) (m v : LaneMask) : (t.writePred p m v).escals = t.escals := by unfold Team.writePred; split <;> rfl
@[simp] theorem Team.writePred_noHolder (t : Team) (p : Nat) (m v : LaneMask) : (t.writePred p m v).noHolder = t.noHolder := by unfold Team.writePred; split <;> rfl

/-! ### Registers read after they are written (R67, R69) -/

@[simp] theorem Team.readS_63 (t : Team) : t.readS 63 = 0 := rfl
@[simp] theorem Team.readS_writeS (t : Team) (j : Nat) (w : Word) (h : j ≠ 63) : (t.writeS j w).readS j = w := by
  simp [Team.readS, Team.writeS, h]
theorem Team.readS_writeS_other (t : Team) (i j : Nat) (w : Word) (h : i ≠ j) : (t.writeS j w).readS i = t.readS i := by
  unfold Team.readS Team.writeS
  split
  · rfl
  · split
    · rfl
    · exact SMap.get_set_other 0 t.sregs j i w h
/-- A write to s63 is discarded (R67). -/
theorem Team.writeS_63 (t : Team) (w : Word) : t.writeS 63 w = t := rfl
@[simp] theorem Team.readV_writeV (t : Team) (j l : Nat) (w : Word) : (t.writeV j l w).readV j l = w := by
  simp [Team.readV, Team.writeV]
theorem Team.readV_writeV_other (t : Team) (i j k l : Nat) (w : Word) (hk : k < 1024) (hl : l < 1024)
    (h : ¬ (i = j ∧ k = l)) : (t.writeV j l w).readV i k = t.readV i k := by
  unfold Team.readV Team.writeV
  exact SMap.get_set_other 0 t.vregs _ _ w (by omega)
@[simp] theorem Team.predMask_7 (t : Team) : t.predMask 7 = BitVec.allOnes 1024 := rfl
/-- A write to p7 is discarded (R71). -/
theorem Team.writePred_7 (t : Team) (m v : LaneMask) : t.writePred 7 m v = t := rfl
theorem Team.predMask_writePred (t : Team) (p : Nat) (m v : LaneMask) (h : p ≠ 7) :
    (t.writePred p m v).predMask p = (t.predMask p &&& ~~~m) ||| (v &&& m) := by
  simp [Team.predMask, Team.writePred, h]
theorem Team.predMask_writePred_other (t : Team) (p q : Nat) (m v : LaneMask) (h : q ≠ p) :
    (t.writePred p m v).predMask q = t.predMask q := by
  unfold Team.predMask Team.writePred
  split
  · rfl
  · split
    · rfl
    · exact SMap.get_set_other 0 t.preds p q _ h

end Sys2Proof.Machine
end

