-- ==== Sys2Proof/Laws/Issue.lean ====
section
/-!
SUPPORT. What each shared operation of an issue can do, said once: lanes written, the charge, the advance, the frame of an
issue, a register result, a trap. Proofs about instructions cite these and unfold none of them.
-/
namespace Sys2Proof.Machine

/-! ### Lanes -/

/-- Active lanes are lanes of the machine. -/
theorem Team.lt_of_mem_actives (t : Team) {l : Nat} (h : l ∈ t.actives) : l < 1024 := by
  simp only [Team.actives, Team.lanesOf, List.mem_filter] at h
  exact BitVec.lt_of_getLsbD h.2

/-- Lanes written by a fold over a list of lanes. -/
theorem Team.readV_foldl_writeV (L : List Nat) : ∀ (t : Team) (j : Nat) (f : Nat → Word), (∀ l ∈ L, l < 1024) →
    ∀ k l, l < 1024 → (L.foldl (fun u l => u.writeV j l (f l)) t).readV k l =
      if k = j ∧ l ∈ L then f l else t.readV k l := by
  induction L with
  | nil => intros; simp
  | cons x r ih =>
    intro t j f hL k l hl
    rw [List.foldl_cons, ih _ _ _ (fun l h => hL l (by simp [h])) k l hl]
    by_cases h : k = j ∧ l ∈ r
    · simp [h]
    · rw [if_neg h]
      by_cases hx : k = j ∧ l = x
      · obtain ⟨rfl, rfl⟩ := hx; simp
      · rw [Team.readV_writeV_other _ _ _ _ _ _ hl (hL x (by simp)) hx]
        rw [if_neg]
        rintro ⟨rfl, hm⟩
        simp only [List.mem_cons] at hm
        rcases hm with rfl | hm
        · exact hx ⟨rfl, rfl⟩
        · exact h ⟨rfl, hm⟩

/-- A fold of vector writes changes the vector registers only. -/
theorem Team.foldl_writeV_eq (L : List Nat) : ∀ (t : Team) (j : Nat) (f : Nat → Word),
    L.foldl (fun u l => u.writeV j l (f l)) t =
      { t with vregs := (L.foldl (fun u l => u.writeV j l (f l)) t).vregs } := by
  induction L with
  | nil => intros; rfl
  | cons x r ih => intro t j f; rw [List.foldl_cons, ih]; rfl

/-- `wrLanes` changes registers only. -/
theorem Team.wrLanes_eq (t : Team) (d : Reg) (L : List Nat) (f : Nat → Word) :
    t.wrLanes d L f = { t with vregs := (t.wrLanes d L f).vregs, sregs := (t.wrLanes d L f).sregs } := by
  cases d with
  | v j =>
    have h := Team.foldl_writeV_eq L t j f
    simp only [Team.wrLanes]
    rw [h]
  | s j => simp only [Team.wrLanes, Team.writeS]; split <;> rfl

@[simp] theorem Team.wrLanes_reissue (t : Team) (d : Reg) (L : List Nat) (f : Nat → Word) :
    (t.wrLanes d L f).reissue = t.reissue := by rw [Team.wrLanes_eq]
@[simp] theorem Team.wrLanes_pc (t : Team) (d : Reg) (L : List Nat) (f : Nat → Word) :
    (t.wrLanes d L f).pc = t.pc := by rw [Team.wrLanes_eq]

/-- What `wrLanes` writes, and what it leaves (R69). -/
theorem Team.wrLanes_v (t : Team) (j : Fin 192) (L : List Nat) (f : Nat → Word) (hL : ∀ l ∈ L, l < 1024) (k l : Nat)
    (hl : l < 1024) : (t.wrLanes (.v j) L f).readV k l = if k = j.val ∧ l ∈ L then f l else t.readV k l :=
  Team.readV_foldl_writeV L t j f hL k l hl
theorem Team.wrLanes_v_sregs (t : Team) (j : Fin 192) (L : List Nat) (f : Nat → Word) :
    (t.wrLanes (.v j) L f).sregs = t.sregs := by
  simp only [Team.wrLanes]; rw [Team.foldl_writeV_eq]
@[simp] theorem Team.wrLanes_s (t : Team) (j : Fin 64) (L : List Nat) (f : Nat → Word) :
    t.wrLanes (.s j) L f = t.writeS j (f 0) := rfl

/-! ### The charge and the advance -/

/-- A team that stands at no instruction has charged nothing in advance. -/
theorem Team.charged_of_stood (t : Team) (h : t.stood = none) : t.charged = false := by simp [Team.charged, h]

/-- The charge of a first issue (R285). -/
theorem State.charge_eq (s : State) (n : Nat) (h : s.me.stood = none) : s.charge n = s.setMe (s.me.chargeI n) := by
  simp [State.charge, Team.charged_of_stood _ h, State.mapMe]

/-- Where a team that is not re-issuing stands after `advanceTo` (R275). -/
def Team.moved (t : Team) (pc : Word) : Team := { t with pc := pc, stood := none, standing := t.keeps, admission := 0 }

theorem State.advanceTo_eq (s : State) (pc : Word) (h : s.me.reissue = none) : s.advanceTo pc = s.setMe (s.me.moved pc) := by
  simp [State.advanceTo, h, Team.moved]

theorem State.advance_eq (s : State) (h : s.me.reissue = none) : s.advance = s.setMe (s.me.moved (s.me.pc + 4)) :=
  State.advanceTo_eq s _ h

/-! ### The frame of an issue (R447, R449) -/

theorem State.issue_ok (s : State) (i : Instr) (body : State → State) (h : decodeCheck i s.me = none) :
    s.issue i body = .next (body (s.charge (issueCharge i s.me))) := by simp [State.issue, h]

theorem State.issue_trap (s : State) (i : Instr) (body : State → State) (r : TrapRec) (h : decodeCheck i s.me = some r) :
    s.issue i body = .next (s.trap r) := by simp [State.issue, h]

theorem State.issueIf_ok (s : State) (i : Instr) (checks : State → Option TrapRec) (body : State → State)
    (h : decodeCheck i s.me = none) (hc : checks s = none) :
    s.issueIf i checks body = .next (body (s.charge (issueCharge i s.me))) := by simp [State.issueIf, h, hc]

theorem State.issueIf_trap (s : State) (i : Instr) (checks : State → Option TrapRec) (body : State → State) (r : TrapRec)
    (h : decodeCheck i s.me = none) (hc : checks s = some r) :
    s.issueIf i checks body = .next (s.trap r) := by simp [State.issueIf, h, hc]

/-- The active lanes do not depend on the budgets. -/
@[simp] theorem Team.actives_chargeI (t : Team) (n : Nat) : (t.chargeI n).actives = t.actives := rfl
@[simp] theorem Team.rd_chargeI (t : Team) (n : Nat) (r : Reg) (l : Nat) : (t.chargeI n).rd r l = t.rd r l := by
  cases r <;> rfl
@[simp] theorem Team.readS_chargeI (t : Team) (n j : Nat) : (t.chargeI n).readS j = t.readS j := rfl
@[simp] theorem Team.readV_chargeI (t : Team) (n j l : Nat) : (t.chargeI n).readV j l = t.readV j l := rfl
@[simp] theorem Team.rd64_chargeI (t : Team) (n : Nat) (r : Reg) (l : Nat) : (t.chargeI n).rd64 r l = t.rd64 r l := by
  simp [Team.rd64]
@[simp] theorem Team.predMask_chargeI (t : Team) (n p : Nat) : (t.chargeI n).predMask p = t.predMask p := rfl
@[simp] theorem Team.pred_chargeI (t : Team) (n p l : Nat) : (t.chargeI n).pred p l = t.pred p l := rfl
@[simp] theorem Team.guard_chargeI (t : Team) (n l : Nat) : (t.chargeI n).guard l = t.guard l := rfl
@[simp] theorem Team.guardAny_chargeI (t : Team) (n : Nat) : (t.chargeI n).guardAny = t.guardAny := rfl
@[simp] theorem Team.live_chargeI (t : Team) (n : Nat) : (t.chargeI n).live = t.live := rfl
@[simp] theorem Team.etype_chargeI (t : Team) (n : Nat) : (t.chargeI n).etype = t.etype := rfl
@[simp] theorem Team.sat_chargeI (t : Team) (n : Nat) : (t.chargeI n).sat = t.sat := rfl
@[simp] theorem Team.rnd_chargeI (t : Team) (n : Nat) : (t.chargeI n).rnd = t.rnd := rfl
@[simp] theorem Team.ftz_chargeI (t : Team) (n : Nat) : (t.chargeI n).ftz = t.ftz := rfl

/-! ### Register results -/

/-- A register result of a team that is not re-issuing: its registers, and the advance. -/
theorem State.result_eq (s : State) (d : Reg) (f : Team → Nat → Word) (h : s.me.reissue = none) :
    s.result d f = s.setMe ((s.me.wrLanes d s.me.actives (f s.me)).moved (s.me.pc + 4)) := by
  unfold State.result
  rw [State.advance_eq _ (by simp [h])]
  simp [State.mapMe_eq]

theorem State.result64_eq (s : State) (d : Reg) (f : Team → Nat → BitVec 64) (h : s.me.reissue = none) :
    s.result64 d f = s.setMe ((s.me.wrLanes64 d s.me.actives (f s.me)).moved (s.me.pc + 4)) := by
  unfold State.result64
  rw [State.advance_eq _ (by simp [h, Team.wrLanes64])]
  simp [State.mapMe_eq, Team.wrLanes64]

theorem State.resultPred_eq (s : State) (p : Nat) (f : Team → Nat → Bool) (h : s.me.reissue = none) :
    s.resultPred p f =
      s.setMe ((s.me.writePred p s.me.live (s.me.maskOf (f s.me))).moved (s.me.pc + 4)) := by
  unfold State.resultPred
  rw [State.advance_eq _ (by simp [h])]
  simp [State.mapMe_eq]

/-! ### Taking an exception (R439, R440) -/

/-- The team in its handler, after the trap `r` at `pc` with resume PC `tnpc`. -/
def Team.inHandlerOf (t : Team) (r : TrapRec) (pc tnpc : Word) : Team :=
  { t with
    trap := { t.trap with
      tcause := trapWord r false, tpc := pc, tnpc := tnpc, tinfo0 := BitVec.ofNat 32 r.info0,
      tinfo1 := BitVec.ofNat 32 r.info1, tskid := 0, restart := r.lanes, tmode := t.mode, inHandler := true },
    mode := 7, pc := t.trap.tvbase &&& ~~~3, reissue := none, wait := none, halt := none, halted := false }

/-- Every way a trap can go. -/
theorem State.takeTrap_cases (s : State) (k : Nat) (r : TrapRec) (pc tnpc : Word) (t : Team)
    (ht : SMap.look s.teams k = some t) :
    ((∃ h, (s.crewAt t.crew).handler = some h ∧ h ≠ k) ∧
      s.takeTrap k r pc tnpc = s.setTeam k { t with pending := t.pending ++ [(r, pc)] }) ∨
    (t.trap.inHandler = true ∧ s.takeTrap k r pc tnpc = s.terminateCrew t.crew 1 t.idx r pc) ∨
    (t.trap.inHandler = false ∧ t.trap.tvbase.getLsbD 0 = true ∧
      s.takeTrap k r pc tnpc =
        ((s.setTeam k (t.inHandlerOf r pc tnpc)).mapCrew t.crew (fun c => { c with handler := some k })).haltCrew k r) ∨
    (t.trap.inHandler = false ∧ t.trap.tvbase.getLsbD 0 = false ∧
      s.takeTrap k r pc tnpc = s.terminateCrew t.crew 0 t.idx r pc) := by
  unfold State.takeTrap
  rw [ht]
  dsimp only
  cases hh : (s.crewAt t.crew).handler with
  | none =>
    simp only [Bool.false_eq_true, if_false]
    cases h1 : t.trap.inHandler <;> cases h2 : t.trap.tvbase.getLsbD 0 <;> simp [Team.inHandlerOf]
  | some h =>
    by_cases hk : h = k
    · subst hk
      simp only [ne_eq, not_true_eq_false, decide_false, Bool.false_eq_true, if_false]
      cases h1 : t.trap.inHandler <;> cases h2 : t.trap.tvbase.getLsbD 0 <;> simp [Team.inHandlerOf]
    · left
      simp [hk]

/-! ### Masks built from a test (R40) -/

theorem foldl_bits (f : Nat → Bool) : ∀ n, (List.range n).foldl (fun acc l => if f l then acc + 2 ^ l else acc) 0 < 2 ^ n ∧
    ∀ l, ((List.range n).foldl (fun acc l => if f l then acc + 2 ^ l else acc) 0).testBit l = (decide (l < n) && f l) := by
  intro n
  induction n with
  | zero => simp
  | succ n ih =>
    obtain ⟨hlt, hbit⟩ := ih
    rw [List.range_succ, List.foldl_append]
    simp only [List.foldl_cons, List.foldl_nil]
    generalize (List.range n).foldl (fun acc l => if f l then acc + 2 ^ l else acc) 0 = x at *
    constructor
    · rw [Nat.pow_succ]; split <;> omega
    · intro l
      by_cases hf : f n
      · rw [if_pos hf, Nat.add_comm]
        rcases Nat.lt_trichotomy l n with h | h | h
        · rw [Nat.testBit_two_pow_add_gt h, hbit]; simp [h, Nat.lt_succ_of_lt h]
        · subst h; rw [Nat.testBit_two_pow_add_eq, Nat.testBit_lt_two_pow hlt]; simp [hf]
        · have : 2 ^ n + x < 2 ^ l := by
            have : 2 ^ (n + 1) ≤ 2 ^ l := Nat.pow_le_pow_right (by decide) h
            rw [Nat.pow_succ] at this; omega
          rw [Nat.testBit_lt_two_pow this]
          simp; omega
      · rw [if_neg hf, hbit]
        rcases Nat.lt_trichotomy l n with h | h | h
        · simp [h, Nat.lt_succ_of_lt h]
        · subst h; simp at hf; simp [hf]
        · have h1 : ¬ l < n := by omega
          have h2 : ¬ l < n + 1 := by omega
          simp [h1, h2]

/-- A bit of a mask built from a test: the test, on the lanes that exist (R40). -/
theorem Team.getLsbD_maskOf (t : Team) (f : Nat → Bool) (l : Nat) :
    (t.maskOf f).getLsbD l = (decide (l < 1024) && decide (l < t.lanes) && f l) := by
  rw [Team.maskOf, BitVec.getLsbD_ofNat, (foldl_bits f t.lanes).2 l, Bool.and_assoc]

/-- A predicate bit after a write to the active lanes (R71, R294). -/
theorem Team.pred_writePred (t : Team) (p l : Nat) (f : Nat → Bool) (hp : p ≠ 7) :
    (l ∈ t.actives → (t.writePred p t.live (t.maskOf f)).pred p l = f l) ∧
    (t.live.getLsbD l = false → (t.writePred p t.live (t.maskOf f)).pred p l = t.pred p l) := by
  unfold Team.pred
  rw [Team.predMask_writePred t p _ _ hp]
  simp only [BitVec.getLsbD_or, BitVec.getLsbD_and, BitVec.getLsbD_not, Team.getLsbD_maskOf]
  constructor
  · intro h
    have hl := Team.lt_of_mem_actives t h
    simp only [Team.actives, Team.lanesOf, List.mem_filter, List.mem_range] at h
    rw [h.2]
    simp [h.1, hl]
  · intro h
    rw [h]
    by_cases hl : l < 1024
    · simp [hl]
    · have : (t.predMask p).getLsbD l = false := BitVec.getLsbD_of_ge _ _ (by omega)
      rw [this]; simp

end Sys2Proof.Machine
end

