-- ==== Sys2Proof/Laws/Memory.lean ====
section
/-!
SUPPORT. Laws of byte memory: reading after writing, and the canonical form, which every memory operation keeps.
-/
namespace Sys2Proof.Machine

@[simp] theorem Mem.byte_setByte (m : Mem) (pa : Nat) (b : Byte) : (Mem.setByte m pa b).byte pa = b := by
  simp [Mem.byte, Mem.setByte]

theorem Mem.byte_setByte_other (m : Mem) (pa x : Nat) (b : Byte) (h : x ≠ pa) :
    (Mem.setByte m pa b).byte x = Mem.byte m x := SMap.get_set_other 0 m pa x b h

/-- Bytes outside a write keep their value. -/
theorem Mem.byte_setBytes_outside (bs : List Byte) : ∀ (m : Mem) (pa x : Nat), (x < pa ∨ pa + bs.length ≤ x) →
    (Mem.setBytes m pa bs).byte x = Mem.byte m x := by
  induction bs with
  | nil => intros; rfl
  | cons b r ih =>
    intro m pa x h
    simp only [List.length_cons] at h
    rw [Mem.setBytes, ih _ _ _ (by omega), Mem.byte_setByte_other _ _ _ _ (by omega)]

/-- A written byte reads as the byte written. -/
theorem Mem.byte_setBytes_inside (bs : List Byte) : ∀ (m : Mem) (pa i : Nat) (h : i < bs.length),
    (Mem.setBytes m pa bs).byte (pa + i) = bs[i] := by
  induction bs with
  | nil => intro m pa i h; simp at h
  | cons b r ih =>
    intro m pa i h
    rw [Mem.setBytes]
    cases i with
    | zero => rw [Mem.byte_setBytes_outside _ _ _ _ (by omega)]; simp
    | succ i =>
      have := ih (m.setByte pa b) (pa + 1) i (by simpa using h)
      simpa [Nat.add_assoc, Nat.add_comm, Nat.add_left_comm] using this

/-- The empty memory has the canonical form. -/
theorem Memory.wf_nil : Memory.wf [] = true := rfl

/-- A byte write keeps the canonical form. -/
theorem Memory.wf_setByte (m : Mem) (pa : Nat) (b : Byte) (h : Memory.wf m = true) : Memory.wf (m.setByte pa b) = true :=
  SMap.wf_set 0 m pa b h

/-- A write of bytes keeps the canonical form. -/
theorem Memory.wf_setBytes (bs : List Byte) : ∀ (m : Mem) (pa : Nat), Memory.wf m = true →
    Memory.wf (m.setBytes pa bs) = true := by
  induction bs with
  | nil => intro m pa h; exact h
  | cons b r ih => intro m pa h; exact ih _ _ (Memory.wf_setByte m pa b h)

/-- A physical write keeps the canonical form of device memory. -/
theorem State.physWrite_wf (s : State) (pa : Nat) (bs : List Byte) (h : Memory.wf s.dram = true) :
    Memory.wf (s.physWrite pa bs).dram = true := Memory.wf_setBytes bs s.dram pa h

/-- Device memory after reset has the canonical form. -/
theorem Memory.wf_reset : Memory.wf State.reset.dram = true := rfl

/-- Two canonical memories that read alike everywhere are equal. -/
theorem SMap.eq_of_get [DecidableEq α] (d : α) : ∀ (m n : List (Nat × α)), SMap.wf d m = true → SMap.wf d n = true →
    (∀ x, SMap.get d m x = SMap.get d n x) → m = n := by
  have low : ∀ (m : List (Nat × α)) (a x : Nat), SMap.sortedFrom a m = true → x < a → SMap.look m x = none := by
    intro m
    induction m with
    | nil => intros; rfl
    | cons p r ih =>
      obtain ⟨k, v⟩ := p
      intro a x h hx
      simp only [SMap.sortedFrom, Bool.and_eq_true, decide_eq_true_eq] at h
      simp only [SMap.look]
      rw [if_neg (by omega)]
      exact ih (k + 1) x h.2 (by omega)
  have key : ∀ (m n : List (Nat × α)) (a : Nat), SMap.sortedFrom a m = true → SMap.sortedFrom a n = true →
      (∀ p ∈ m, p.2 ≠ d) → (∀ p ∈ n, p.2 ≠ d) → (∀ x, SMap.get d m x = SMap.get d n x) → m = n := by
    intro m
    induction m with
    | nil =>
      intro n a _ hn _ dn e
      cases n with
      | nil => rfl
      | cons p r =>
        obtain ⟨k, v⟩ := p
        have := e k
        simp [SMap.get, SMap.look] at this
        exact absurd this.symm (dn (k, v) (by simp))
    | cons p r ih =>
      obtain ⟨k, v⟩ := p
      intro n a hm hn dm dn e
      simp only [SMap.sortedFrom, Bool.and_eq_true, decide_eq_true_eq] at hm
      cases n with
      | nil =>
        have := e k
        simp [SMap.get, SMap.look] at this
        exact absurd this (dm (k, v) (by simp))
      | cons q r' =>
        obtain ⟨k', v'⟩ := q
        simp only [SMap.sortedFrom, Bool.and_eq_true, decide_eq_true_eq] at hn
        have hk : k = k' := by
          rcases Nat.lt_trichotomy k k' with h | h | h
          · have := e k
            simp only [SMap.get, SMap.look, if_true, Option.getD_some] at this
            rw [if_neg (by omega), low r' (k' + 1) k hn.2 (by omega)] at this
            exact absurd this (dm (k, v) (by simp))
          · exact h
          · have := e k'
            simp only [SMap.get, SMap.look, if_true, Option.getD_some] at this
            rw [if_neg (by omega), low r (k + 1) k' hm.2 (by omega)] at this
            exact absurd this.symm (dn (k', v') (by simp))
        subst hk
        have hv : v = v' := by have := e k; simpa [SMap.get, SMap.look] using this
        subst hv
        congr 1
        refine ih r' (k + 1) hm.2 hn.2 (fun p hp => dm p (by simp [hp])) (fun p hp => dn p (by simp [hp])) (fun x => ?_)
        have := e x
        simp only [SMap.get, SMap.look] at this
        by_cases hx : x = k
        · subst hx
          simp [SMap.get, low r (x + 1) x hm.2 (by omega), low r' (x + 1) x hn.2 (by omega)]
        · simpa [hx, SMap.get] using this
  intro m n hm hn e
  simp only [SMap.wf, Bool.and_eq_true, List.all_eq_true, decide_eq_true_eq] at hm hn
  exact key m n 0 hm.1 hn.1 hm.2 hn.2 e

end Sys2Proof.Machine
end

