-- ==== Sys2Proof/WellFormed.lean ====
section
/-!
DEFINITION. Which instructions are well formed as text, whatever the team that issues them: they have a word (11_encoding
R275, R284), each field holds a value its instruction lists (R450 SUB 0x01, 0x02, 0x07), each register is of the kind its
operand takes (SUB 0x03), pairs and blocks start where they may (SUB 0x05), and a scalar destination has no vector source
(SUB 0x06). The window, MODE and handler checks need the team and stand in Machine/Operands.lean.
-/
namespace Sys2Proof

open Sys2Proof.Machine

/-- The instruction has a word: it is not an event of the device (R284). -/
def WellFormed.hasWord (i : Instr) : Bool := (encode i).isSome

/-- Every field holds a value the instruction lists (R450, R458, R463). -/
def WellFormed.valuesOk (i : Instr) : Bool := (valueBreach i).isNone

/-- A special register is read and written as R458 lets it be. -/
def WellFormed.specialOk (i : Instr) : Bool := (specialBreach i).isNone

/-- Every register is of the kind its operand takes (R450 SUB 0x03). -/
def WellFormed.kindsOk (i : Instr) : Bool :=
  (roles i).all fun r => match r.kind with
    | .scalar => !isVec r.reg
    | .vector => isVec r.reg
    | .any => true

/-- Pairs and blocks start at a register they may start at (R68, R450 SUB 0x05). -/
def WellFormed.alignOk (i : Instr) : Bool := (roles i).all fun r => decide (r.reg.code % r.align = 0)

/-- A scalar destination has no vector source (R279, R450 SUB 0x06). -/
def WellFormed.destOk (i : Instr) : Bool := !scalarDestBreach i

/-- A well-formed instruction. -/
def WellFormed (i : Instr) : Bool :=
  WellFormed.hasWord i && WellFormed.valuesOk i && WellFormed.specialOk i && WellFormed.kindsOk i &&
    WellFormed.alignOk i && WellFormed.destOk i

end Sys2Proof
end

