-- ==== Sys2Proof/Tests/Slice0.lean ====
section
/-!
SUPPORT. Tests: well-formedness refuses an ill-formed term at each of its checks; words written out from the encoding tables
decode to their instructions; single steps give the results worked out from the rules; and, for each statement with
hypotheses, a concrete state that meets them.
-/
namespace Sys2Proof.Tests

open Sys2Proof Sys2Proof.Machine Sys2Proof.Claims

set_option maxRecDepth 20000
set_option Elab.async false
set_option exponentiation.threshold 1024

/-! ### Well-formedness -/

theorem test_event_has_no_word : WellFormed.hasWord (.mmaFinish 0) = false := by decide
theorem test_reserved_etype_refused : WellFormed.valuesOk (.setmode 0x00A7) = false := by decide
theorem test_cvt_to_same_format_refused : WellFormed.valuesOk (.cvt (.v 0) (.v 1) 5 5) = false := by decide
theorem test_claim_of_zero_refused : WellFormed.valuesOk (.claim 0) = false := by decide
theorem test_special_0x30_refused : WellFormed.specialOk (.movsr (.v 0) 0x30) = false := by decide
theorem test_vector_address_of_row_bytes_refused : WellFormed.kindsOk (.rowld (.v 0) (.v 2) (.v 3)) = false := by decide
theorem test_odd_pair_refused : WellFormed.alignOk (.add64 (.v 1) (.v 2) (.v 4)) = false := by decide
theorem test_scalar_from_vector_refused : WellFormed.destOk (.add (.s 1) (.v 2) (.s 3)) = false := by decide
theorem test_add_well_formed : WellFormed (.add (.v 1) (.v 2) (.s 3)) = true := by decide
theorem test_ill_formed : ∀ i ∈ [Instr.mmaFinish 0, .setmode 0x00A7, .cvt (.v 0) (.v 1) 5 5, .claim 0, .movsr (.v 0) 0x30,
    .rowld (.v 0) (.v 2) (.v 3), .add64 (.v 1) (.v 2) (.v 4), .add (.s 1) (.v 2) (.s 3)], WellFormed i = false := by decide

/-! ### Words: those of the spec's own examples (11 to 15, 22, 23, 26), and some written out from its encoding tables -/

theorem test_decode_control : decode 0x010000E7 = .ok (.setmode 0x00E7) ∧ decode 0x02FFFFFF = .ok (.br 0xFFFFFF) ∧
    decode 0x0300C500 = .ok (.bri (.s 5)) ∧ decode 0x07030000 = .ok (.split 3) ∧ decode 0x12C1C200 = .ok (.icinv (.s 1) (.s 2)) ∧
    decode 0x130012AB = .ok (.trap 0x12AB) ∧ decode 0x14000000 = .ok .rett := by decide
theorem test_decode_integer : decode 0x21D40002 = .ok (.movi (.s 20) 2) ∧ decode 0x22C41234 = .ok (.movhi (.s 4) 0x1234) ∧
    decode 0x23030405 = .ok (.add (.v 3) (.v 4) (.v 5)) ∧ decode 0x3E0204C6 = .ok (.add64 (.v 2) (.v 4) (.s 6)) ∧
    decode 0x427100C1 = .ok (.cmp 3 2 1 (.v 0) (.s 1)) ∧ decode 0x45010203 = .ok (.pand 1 2 3) ∧
    decode 0x49040500 = .ok (.ptov (.v 4) 5) := by decide
theorem test_decode_float : decode 0x60060285 = .ok (.cvt (.v 6) (.v 2) 8 5) ∧ decode 0x6007037A = .ok (.cvt (.v 7) (.v 3) 7 10) ∧
    decode 0x53010203 = .ok (.ffma (.v 1) (.v 2) (.v 3)) ∧ decode 0x58CA0405 = .ok (.fcmp 6 1 2 (.v 4) (.v 5)) := by decide
theorem test_decode_lanes : decode 0x70C3010A = .ok (.vote (.s 3) 1 1 2) ∧ decode 0x71090408 = .ok (.red (.v 9) (.v 4) 8) ∧
    decode 0x73C72000 = .ok (.movsr (.s 7) 0x20) ∧ decode 0x7422C800 = .ok (.movrs 0x22 (.s 8)) := by decide
theorem test_decode_memory : decode 0x7C0305FF = .ok (.ld32 (.v 3) (.v 5) (.s 63)) ∧
    decode 0x7F020608 = .ok (.st4 (.v 2) (.v 6) (.v 8)) ∧ decode 0x8503D401 = .ok (.ldl32 (.v 3) (.s 20) (.v 1)) ∧
    decode 0x8B000002 = .ok (.sink false false 2) ∧ decode 0x8B000013 = .ok (.sink false true 3) ∧
    decode 0x8C1004C9 = .ok (.rowld (.v 16) (.v 4) (.s 9)) ∧ decode 0xA00C0408 = .ok (.aadd (.v 12) (.v 4) (.v 8)) ∧
    decode 0xA90D04C2 = .ok (.acas (.v 13) (.v 4) (.s 2)) := by decide
theorem test_bytes_of_st4 : bytesOfWord 0x7F020608 = [0x08, 0x06, 0x02, 0x7F] := by decide
theorem test_decode_sync : decode 0xB400C800 = .ok (.lock (.s 8)) ∧ decode 0xB9000001 = .ok (.bar true) ∧
    decode 0xBAC50000 = .ok (.bararr (.s 5) false) ∧ decode 0xC102CA00 = .ok (.pin 2 (.s 10)) ∧
    decode 0xC3C3CACC = .ok (.reclaim (.s 3) (.s 10) (.s 12)) ∧ decode 0xC700C408 = .ok (.spawn (.s 4) (.v 8)) ∧
    decode 0xC8C3CAFF = .ok (.launch (.s 3) (.s 10) (.s 63)) ∧ decode 0xCB030000 = .ok (.claim 3) := by decide
theorem test_decode_engines : decode 0xD1D4D6DE = .ok (.cpys (.s 20) (.s 22) (.s 30)) ∧ decode 0xD7C90000 = .ok (.bseal (.s 9)) ∧
    decode 0xD902E800 = .ok (.bwaity 2 (.s 40)) := by decide
theorem test_decode_matrix : decode 0xE000C400 = .ok (.gang (.s 4)) ∧ decode 0xE1C3C400 = .ok (.accalloc (.s 3) (.s 4)) ∧
    decode 0xE420CACC = .ok (.mma (.v 32) (.s 10) (.s 12)) ∧ decode 0xE5D2D400 = .ok (.mdrain (.s 18) (.s 20)) ∧
    decode 0xE618D501 = .ok (.accrd (.v 24) (.s 21) (.v 1)) ∧ decode 0xE9D4CAD1 = .ok (.scld (.s 20) (.s 10) (.s 17)) := by decide
theorem test_decode_system : decode 0xF0C6C900 = .ok (.ctr (.s 6) (.s 9)) ∧
    decode 0xF3C6C9CA = .ok (.privw (.s 6) (.s 9) (.s 10)) := by decide
theorem test_decode_refuses : decode 0x90000000 = .error .unassigned ∧ decode 0xFF000000 = .error .unassigned ∧
    decode 0x00000001 = .error .mustBeZero ∧ decode 0xC104CA00 = .error .badValue := by decide

/-! ### A small device: one crew of two teams of four lanes on core 0 -/

/-- The team of the tests: lanes 0, 1 and 3 of four are active. -/
def team0 : Team := { crew := 1, lanes := 4, mask := 0xB, window := 192, ibud := 100, mbud := 100, active := true, pc := 0x40,
                      vregs := [(1024, 5), (1025, 0x80000000), (1026, 7), (1027, 0xFFFFFFFF)], sregs := [(2, 64), (3, 3)] }
def crew0 : Crew := { grid := 1, teams := 2, localBytes := 256 }
def grid0 : Grid := { launch := { crewTeams := 2, lanes := 4, vregs := 192, localBytes := 256, iquant := 50, mquant := 50 }, dealt := 1,
                      ipool := 1000, mpool := 1000 }

/-- The device whose running team is `f team0`. -/
def dev (f : Team → Team := id) : State where
  teams := [(16, f team0), (17, { team0 with idx := 1, vregs := [], sregs := [] })]
  crews := [(1, crew0)]
  grids := [(1, grid0)]
  cur := 16
  nextHandle := 2
  nextId := 2

/-- The same in another MODE. -/
def devMode (m : BitVec 16) : State := dev fun t => { t with mode := m }

/-! ### Witnesses: integer, float and lane words issue -/

/-- Words that need nothing but their registers; MODE 0x0007 has ETYPE 0. -/
theorem witness_register_words_issue : ∀ i ∈ [Instr.mov (.v 2) (.v 1), .movi (.s 1) 5, .movhi (.v 2) 5, .add (.v 2) (.v 1) (.s 2),
    .addi (.v 2) 5, .sub (.v 2) (.v 1) (.s 2), .mul (.v 2) (.v 1) (.s 2), .mad (.v 2) (.v 1) (.s 2), .mulhi (.v 2) (.v 1) (.v 1),
    .mulhu (.v 2) (.v 1) (.v 1), .min (.v 2) (.v 1) (.s 2), .max (.v 2) (.v 1) (.s 2), .minu (.v 2) (.v 1) (.s 2),
    .maxu (.v 2) (.v 1) (.s 2), .abs (.v 2) (.v 1), .neg (.v 2) (.v 1), .and (.v 2) (.v 1) (.s 2), .or (.v 2) (.v 1) (.s 2),
    .xor (.v 2) (.v 1) (.s 2), .andn (.v 2) (.v 1) (.s 2), .not (.v 2) (.v 1), .shl (.v 2) (.v 1) (.s 2), .shr (.v 2) (.v 1) (.s 2),
    .sar (.v 2) (.v 1) (.s 2), .rol (.v 2) (.v 1) (.s 2), .popc (.v 2) (.v 1), .clz (.v 2) (.v 1), .brev (.v 2) (.v 1),
    .bfx (.v 2) (.v 1) (.s 2)], Issues i dev := by unfold Issues; decide +kernel
theorem witness_predicate_words_issue : ∀ i ∈ [Instr.bfi (.v 2) (.v 1) (.s 2), .add64 (.v 2) (.v 4) (.s 2), .sub64 (.v 2) (.v 4) (.s 2),
    .mad64 (.v 2) (.v 4) (.s 2), .lea (.s 4) (.s 2) (.s 3), .cmp 0 0 1 (.v 1) (.s 2), .cmpu 5 2 7 (.v 1) (.s 2),
    .sel (.v 2) (.v 1) (.s 2), .sel (.s 4) (.s 2) (.s 3), .pand 1 2 3, .por 1 2 3, .pxor 1 2 3, .pnot 1 2, .ptov (.v 2) 1,
    .vtop 1 (.v 1), .mov (.s 63) (.s 2)], Issues i dev := by unfold Issues; decide +kernel
theorem witness_packed_words_issue : ∀ i ∈ [Instr.add (.v 2) (.v 1) (.s 2), .addi (.v 2) 5, .sub (.v 2) (.v 1) (.s 2),
    .mul (.v 2) (.v 1) (.s 2), .mad (.v 2) (.v 1) (.s 2), .min (.v 2) (.v 1) (.s 2), .max (.v 2) (.v 1) (.s 2),
    .minu (.v 2) (.v 1) (.s 2), .maxu (.v 2) (.v 1) (.s 2), .abs (.v 2) (.v 1), .neg (.v 2) (.v 1), .cmp 0 0 1 (.v 1) (.s 2),
    .cmpu 0 0 1 (.v 1) (.s 2), .pack (.v 2) (.v 1) (.v 1), .unpackl (.v 2) (.v 1), .unpackh (.v 2) (.v 1)],
    (Issues i (devMode 0x0087) ∧ (devMode 0x0087).me.etype = 4 ∧ (devMode 0x0087).me.sat = false) ∧
    Issues i (devMode 0x0487) ∧ (devMode 0x0487).me.etype = 4 ∧ (devMode 0x0487).me.sat = true := by unfold Issues; decide +kernel
theorem witness_saturating_words_issue : ∀ i ∈ [Instr.add (.v 2) (.v 1) (.s 2), .addi (.v 2) 5, .sub (.v 2) (.v 1) (.s 2),
    .mul (.v 2) (.v 1) (.s 2), .mad (.v 2) (.v 1) (.s 2)],
    Issues i (devMode 0x0407) ∧ (devMode 0x0407).me.etype ≠ 4 ∧ (devMode 0x0407).me.sat = true := by unfold Issues; decide +kernel
theorem witness_odd_pairs : (Reg.v 1).code % 2 = 1 ∧ (Reg.s 3).code % 2 = 1 := by decide
theorem witness_sel_paths : namesVector (.sel (.v 2) (.v 1) (.s 2)) = true ∧ namesVector (.sel (.s 4) (.s 2) (.s 3)) = false ∧
    isVec (.s 4) = false := by decide

theorem witness_float_words_issue : ∀ i ∈ [Instr.fadd (.v 2) (.v 1) (.s 2), .fsub (.v 2) (.v 1) (.s 2), .fmul (.v 2) (.v 1) (.s 2),
    .ffma (.v 2) (.v 1) (.s 2), .fmin (.v 2) (.v 1) (.s 2), .fmax (.v 2) (.v 1) (.s 2), .frcp (.v 2) (.v 1), .frsq (.v 2) (.v 1),
    .fsqrt (.v 2) (.v 1), .fexp2 (.v 2) (.v 1), .flog2 (.v 2) (.v 1), .ftanh (.v 2) (.v 1), .frnd (.v 2) (.v 1), .fabs (.v 2) (.v 1),
    .fneg (.v 2) (.v 1), .fclass (.v 2) (.v 1), .fcmp 6 1 1 (.v 1) (.s 2), .cvt (.v 2) (.v 1) 0 5, .cvt (.v 2) (.v 1) 4 0,
    .cvt (.v 2) (.v 1) 5 7],
    Issues i (devMode 0x0027) ∧ (devMode 0x0027).me.etype = 1 ∧ Issues i (devMode 0x0047) ∧ (devMode 0x0047).me.etype = 2 ∧
    Issues i (devMode 0x0067) ∧ (devMode 0x0067).me.etype = 3 ∧ (devMode 0x0067).me.ftz = false := by unfold Issues; decide +kernel
theorem witness_packed_conversions_issue : ∀ i ∈ [Instr.pack (.v 2) (.v 1) (.v 1), .unpackl (.v 2) (.v 1), .unpackh (.v 2) (.v 1)],
    Issues i (devMode 0x0047) ∧ Issues i (devMode 0x0067) := by unfold Issues; decide +kernel
/-- 1.0 in each format is finite, and its sum with itself does not overflow; a NaN of F32; an exact tie and a finite value. -/
theorem witness_finite_operands : (∀ f ∈ [fmtF32, fmtF16, fmtBF16], f.decode (f.bias * 2 ^ f.frac) = .num false (2 ^ f.frac) (-f.frac)) ∧
    fmtF32.decode 0x7FC00000 = .nan ∧ fmtF32.decode 0x7F800001 = .nan ∧ fmtF32.decode 0x80000000 = .num true 0 (-149) := by
  decide +kernel
theorem witness_finite_sums : ratOf (fmtF32.decode 0x3F800000) = some 1 ∧ |(1 : ℚ) + 1| ≤ largest fmtF32 := by
  have h : fmtF32.decode 0x3F800000 = .num false (2 ^ 23) (-23) := by decide +kernel
  have h' : fmtF32.decode fmtF32.maxFinite = .num false (2 ^ 24 - 1) 104 := by decide +kernel
  constructor
  · rw [h]; norm_num [ratOf]
  · rw [largest, h']; norm_num [ratOf]

theorem witness_lane_words_issue : ∀ i ∈ [Instr.shfl (.v 2) (.v 1) (.s 2), .shflup (.v 2) (.v 1) (.s 2), .shfldn (.v 2) (.v 1) (.s 2),
    .shflx (.v 2) (.v 1) (.s 2), .bcast (.v 2) (.v 1) (.s 2), .rdfl (.s 4) (.v 1), .rdlane (.s 4) (.v 1) (.s 3),
    .wrlane (.v 2) (.s 2) (.s 3), .vote (.s 4) 1 0 0, .vote (.v 2) 1 0 1, .vote (.s 4) 1 31 2, .vote (.v 2) 1 0 2,
    .red (.s 4) (.v 1) 0, .scan (.v 2) (.v 1) false 0, .scan (.v 2) (.v 1) true 7], Issues i dev := by unfold Issues; decide +kernel
theorem witness_integer_reductions : (dev).me.etype ≠ 4 ∧ (dev).me.sat = false ∧ (dev).me.lanes ≤ 1024 := by decide
theorem witness_special_registers : mayName dev 0x14 false ∧ mayName dev 0x09 true ∧ Issues (.movsr (.v 2) 0x14) dev ∧
    Issues (.movsr (.v 2) 0x00) dev ∧ (∀ sr ∈ [(0x09 : BitVec 8), 0x0C, 0x22, 0x26, 0x27, 0x2B, 0x29, 0x2A, 0x2C, 0x2D, 0x2E, 0x2F, 0x01],
      Issues (.movrs sr (.s 3)) dev ∧ mayName dev sr.toNat true) := by unfold Issues mayName; decide +kernel
theorem witness_special_register_traps :
    let s := { dev with crews := [(1, { crew0 with ctx := 4 })] }
    ¬ mayName s 0x20 false ∧ ¬ mayName s 0x28 true ∧ Issues (.movsr (.s 4) 0x20) s ∧ Issues (.movrs 0x28 (.s 2)) s ∧
    (4#3 < (rdl (dev fun t => { t with sregs := [(2, 0xA0)] }) (.s 2) 0).extractLsb' 5 3) ∧
    (rdl (dev fun t => { t with sregs := [(2, 0x3800)] }) (.s 2) 0).extractLsb' 11 3 = 7#3 := by unfold Issues mayName; decide +kernel

/-! ### Witnesses: control -/

def handling (t : Team) : Team := { t with trap := { tvbase := 0x101, inHandler := true, tmode := 7, tpc := 0x40, tnpc := 0x44 } }

theorem witness_branches : (∀ i ∈ [Instr.br 5, .call 5, .bri (.s 2), .calli (.s 2), .ret], Issues i dev ∧ Issues i (devMode 0)) ∧
    (dev).me.guardAny = true ∧ (devMode 0).me.guardAny = false ∧ (rdl dev (.s 2) 0).toNat % 4 = 0 ∧ (dev.me.readS 61).toNat % 4 = 0 ∧
    (rdl dev (.s 3) 0).toNat % 4 ≠ 0 ∧ ((dev fun t => { t with sregs := [(61, 2)] }).me.readS 61).toNat % 4 ≠ 0 ∧
    dev.me.trap.inHandler = false ∧ dev.me.lanes ≤ 1024 := by unfold Issues; decide +kernel

def stacked (n sp : Nat) (loop : Bool) (m : LaneMask) : State := dev fun t =>
  { t with stack := ⟨loop, 0xF⟩ :: List.replicate n ⟨true, 0xF⟩, spilled := sp, mask := m }

theorem witness_mask_stack : (∀ i ∈ [Instr.split 1, .lbegin, .flip, .join, .lend 5, .lbrk 1],
      Issues i dev ∧ Issues i (stacked 0 0 false 3) ∧ Issues i (stacked 0 0 true 3) ∧ Issues i (stacked 31 0 true 0) ∧
      Issues i (stacked 40 8 false 3) ∧ Issues i (stacked 2 2 true 0)) ∧
    dev.me.stack = [] ∧ (stacked 30 0 false 3).me.stack.length < 32 + (stacked 30 0 false 3).me.spilled ∧
    (stacked 0 0 false 3).me.stack = [⟨false, 0xF⟩] ∧ (stacked 0 0 true 3).me.stack = [⟨true, 0xF⟩] ∧
    (stacked 0 0 true 3).me.mask ≠ 0 ∧ (stacked 0 0 true 0).me.mask = 0 := by unfold Issues; decide +kernel
theorem witness_mask_stack_spills : (∀ e ∈ (stacked 0 0 false 3).me.stack, e.loop = false) ∧
    (stacked 2 1 false 3).me.stack = [⟨false, 0xF⟩] ++ ⟨true, 0xF⟩ :: [⟨true, 0xF⟩] ∧ (stacked 2 1 false 3).me.spilled ≤ 1 ∧
    32 + (stacked 31 0 false 3).me.spilled ≤ (stacked 31 0 false 3).me.stack.length ∧
    (stacked 31 0 false 3).spillFree 0 (stackBytes 1 - stackBytes 0) = false ∧
    ({ stacked 31 0 false 3 with dram := [(0x1A, 1)] } : State).spillFree 0 (stackBytes 1 - stackBytes 0) = true ∧
    0 < (stacked 2 2 false 3).me.spilled ∧ 2 ≤ (stacked 2 2 false 3).me.spilled := by decide +kernel

theorem witness_team_words : (∀ i ∈ [Instr.nop, .ifence, .setmode 0x27, .cont 5, .sleep (.s 2), .sleep (.s 63), .exit, .trigger, .yield,
      .icinv (.s 2) (.s 3), .trap 5], Issues i dev) ∧ rdl dev (.s 63) 0 = 0 ∧ rdl dev (.s 2) 0 ≠ 0 ∧
    Issues .exit (dev fun t => { t with batches := [(1, 1)] }) ∧ dev.me.batches = [] ∧ dev.me.trap.inHandler = false ∧
    (SMap.look dev.teams dev.cur).isSome = true ∧ dev.me.gang = 0 ∧ dev.me.evict = false := by unfold Issues; decide +kernel
theorem witness_invalidations : (({ dev with cores := [(0, { icinvs := [⟨16, 0, 0, 64, 3⟩] })] } : State).coreAt 0).icinvs = [⟨16, 0, 0, 64, 3⟩] := by
  decide +kernel
theorem witness_trap_and_return :
    (let s := dev fun t => { t with trap := { tvbase := 0x101 } }
     Issues (.trap 5) s ∧ Issues (.syscall (.s 2)) s ∧ SMap.look s.teams s.cur = some s.me ∧ s.me.trap.tvbase.getLsbD 0 = true ∧
     s.me.trap.inHandler = false ∧ s.myCrew.handler = none ∧ (SMap.look s.crews s.me.crew).isSome = true) ∧
    (let s := dev fun t => { handling t with trap := { (handling t).trap with tcause := 0x0002000B, restart := 3 } }
     Issues .rett s ∧ s.me.trap.tcause.getLsbD 17 = true ∧ s.me.trap.restart &&& s.me.mask ≠ 0) ∧
    (let s := dev handling
     Issues .rett s ∧ ¬ (s.me.trap.tcause.getLsbD 17 = true ∧ s.me.trap.restart &&& s.me.mask ≠ 0) ∧ s.me.heldStop = none ∧
     (∀ k ∈ s.teamsOfCrew s.me.crew, (SMap.get default s.teams k).pending = []) ∧ s.me.halted = false ∧
     SMap.sortedFrom 0 s.teams = true) := by unfold Issues; decide +kernel
theorem witness_returns : ∀ s ∈ [dev handling, dev fun t => { handling t with trap := { (handling t).trap with tcause := 0x0002000B, restart := 3 } }],
    Issues .rett s ∧ (SMap.look s.teams s.cur).isSome = true ∧ SMap.sortedFrom 0 s.teams = true ∧ s.me.halted = false ∧
    s.me.heldStop = none ∧ ∀ k ∈ s.teamsOfCrew s.me.crew, (SMap.get default s.teams k).pending = [] := by unfold Issues; decide +kernel
theorem witness_no_handler : dev.me.trap.tvbase.getLsbD 0 = false ∧ dev.myCrew.handler = none ∧
    SMap.sortedFrom 0 dev.teams = true ∧ SMap.look dev.teams dev.cur = some dev.me := by decide +kernel

/-! ### Witnesses: memory -/

/-- s20:s21 hold the address 0x10000; the line stands in the core's L1 when `hit`. -/
def memDev (hit : Bool := false) (m : BitVec 16 := 7) (va : Word := 0x10000) (f : Team → Team := id) : State :=
  { dev (fun t => f { t with sregs := [(20, va), (24, 64)], mode := m }) with
    cores := if hit then [(0, { l1 := [(lineId 0 0x10000, { data := 5, rd := true, wr := true })] })] else [] }

def loadWords : List Instr :=
  [.ld8 (.v 4) (.s 20) (.v 5), .ld8s (.v 4) (.s 20) (.v 5), .ld16 (.v 4) (.s 20) (.v 5), .ld16s (.v 4) (.s 20) (.v 5),
   .ld32 (.v 4) (.s 20) (.v 5), .ld64 (.v 4) (.s 20) (.v 5), .ld128 (.v 4) (.s 20) (.v 5), .ld32 (.s 4) (.s 20) (.s 5)]
def storeWords : List Instr :=
  [.st8 (.v 4) (.s 20) (.v 5), .st16 (.v 4) (.s 20) (.v 5), .st32 (.v 4) (.s 20) (.v 5), .st64 (.v 4) (.s 20) (.v 5),
   .st128 (.v 4) (.s 20) (.v 5)]
def atomWords : List Instr :=
  [.aadd (.v 4) (.s 20) (.v 5), .amin (.v 4) (.s 20) (.v 5), .amax (.v 4) (.s 20) (.v 5), .aminu (.v 4) (.s 20) (.v 5),
   .amaxu (.v 4) (.s 20) (.v 5), .aand (.v 4) (.s 20) (.v 5), .aor (.v 4) (.s 20) (.v 5), .axor (.v 4) (.s 20) (.v 5)]

theorem witness_loads_hit : ∀ i ∈ loadWords, Issues i (memDev true) ∧ ∀ p ∈ memAccs i (memDev true).me, p.2.1 % p.2.2 = 0 ∧
    (memDev true).laneFault p.2.1 p.2.2 false = none ∧
    (memDev true).l1Line 0 (lineId 0 p.2.1) = some { data := 5, rd := true, wr := true } := by unfold Issues; decide +kernel
theorem witness_loads_miss : ∀ i ∈ loadWords, Issues i memDev ∧ Quiet memDev ∧ CleanAccs memDev i false ∧ memAccs i (memDev).me ≠ [] ∧
    ∀ p ∈ memAccs i (memDev).me, (memDev).l1Line 0 (lineId ((memDev).locate 0 0 p.2.1).1 ((memDev).locate 0 0 p.2.1).2) = none := by
  unfold Issues Quiet CleanAccs; decide +kernel
theorem witness_stores : (∀ i ∈ Instr.st4 (.v 4) (.s 20) (.v 5) :: storeWords, Issues i memDev ∧ Quiet memDev ∧ CleanAccs memDev i true ∧
    memAccs i (memDev).me ≠ []) ∧ ∀ i ∈ storeWords, Issues i (memDev false 0) ∧ memAccs i (memDev false 0).me = [] := by
  unfold Issues Quiet CleanAccs; decide +kernel
theorem witness_store_of_one_lane : (∃ p, memAccs (.st32 (.v 4) (.s 20) (.v 5)) (memDev true 7 0x10000 fun t => { t with mask := 1 }).me = [p]) ∧
    (memDev true).l1Line 0 (lineId 0 0x10000) = some { data := 5, rd := true, wr := true } := by
  exact ⟨⟨(0, 0x10000, 4), by decide +kernel⟩, by decide +kernel⟩
theorem witness_misaligned : ∀ i ∈ [Instr.ld16 (.v 4) (.s 20) (.v 5), .ld128 (.v 4) (.s 20) (.v 5), .st64 (.v 4) (.s 20) (.v 5),
    .aadd (.v 4) (.s 20) (.v 5), .acas (.v 4) (.s 20) (.v 5), .afadd (.v 4) (.s 20) (.v 5)],
    Issues i (memDev false 7 0x10001) ∧ (memAccs i (memDev false 7 0x10001).me).filter (fun p => decide (p.2.1 % p.2.2 ≠ 0)) ≠ [] := by
  unfold Issues; decide +kernel
theorem witness_non_canonical :
    let s := memDev false 7 0x10000 fun t => { t with sregs := [(20, 0), (21, 0x01000000)] }
    ∀ i ∈ [Instr.ld32 (.v 4) (.s 20) (.v 5), .st128 (.v 4) (.s 20) (.v 5)], Issues i s ∧ memAccs i s.me ≠ [] ∧
    ∀ q ∈ memAccs i s.me, q.2.1 % q.2.2 = 0 ∧ canonical q.2.1 = false := by unfold Issues; decide +kernel
theorem witness_local : ∀ i ∈ [Instr.ldl32 (.v 4) (.s 24) (.v 5), .ldl128 (.v 4) (.s 24) (.v 5), .stl32 (.v 4) (.s 24) (.v 5),
    .stl128 (.v 4) (.s 24) (.v 5)], Issues i memDev ∧ (SMap.look (memDev).crews (memDev).me.crew).isSome = true ∧
    ∀ l ∈ (memDev).me.actLanes i, (memDev).me.la (.s 24) (.v 5) l % 16 = 0 ∧ (memDev).me.la (.s 24) (.v 5) l + 16 ≤ 256 := by
  unfold Issues; decide +kernel
theorem witness_atomics : (∀ i ∈ Instr.axch (.v 4) (.s 20) (.v 5) :: .acas (.v 4) (.s 20) (.v 5) :: .afadd (.v 4) (.s 20) (.v 5) :: atomWords,
    Issues i (memDev false 0x1007) ∧ (memDev false 0x1007).me.scope ≠ 1 ∧ Quiet (memDev false 0x1007) ∧
    CleanAccs (memDev false 0x1007) i true ∧ memAccs i (memDev false 0x1007).me ≠ []) := by unfold Issues Quiet CleanAccs; decide +kernel
theorem witness_crew_atomics :
    let s := memDev true 0x0807 0x10000 fun t => { t with mask := 1 }
    s.me.scope = 1 ∧ Quiet s ∧ s.l1Line 0 (lineId 0 (s.me.addr (.s 20) 0)) = some { data := 5, rd := true, wr := true } ∧
    ∀ i ∈ atomWords, Issues i s ∧ CleanAccs s i true ∧ memAccs i s.me = [(0, 0x10000, 4)] := by
  unfold Issues Quiet CleanAccs; decide +kernel
theorem witness_prefetch_discard : Issues (.prefetch true (.s 20) (.v 5)) memDev ∧
    (let s := memDev false 7 0x10000
     let i : Instr := .discard (.s 24) (.s 20) (.v 5)
     Issues i s ∧ Quiet s ∧ memAccs i s.me ≠ [] ∧ ∀ p ∈ memAccs i s.me, canonical p.2.1 = true ∧ p.2.2 ∈ [32, 64, 96, 128] ∧
       p.2.1 % 32 = 0 ∧ p.2.1 % 128 + p.2.2 ≤ 128) := by unfold Issues Quiet; decide +kernel

/-- Four active lanes whose rows stand at 0x10000, 64 bytes. -/
def rowDev : State := memDev false 0x0067 0x10000 fun t =>
  { t with mask := 0xF, vregs := (List.range 4).map fun l => (1024 * 6 + l, 0x10000) }
theorem witness_rows : ∀ i ∈ [Instr.rowst (.v 8) (.v 6) (.s 24), .rowadd (.v 8) (.v 6) (.s 24), .rowld (.v 8) (.v 6) (.s 24)],
    Issues i rowDev ∧ Quiet rowDev ∧ rowCheck (.v 6) (.s 24) rowDev = none ∧ rowDev.me.actingGroups 64 true ≠ [] ∧
    rowDev.me.actingGroups 64 false ≠ [] ∧
    ∀ f ∈ rowDev.me.actingGroups 64 true, rowDev.laneFault (rowDev.me.addr (.v 6) f) 64 true = none := by
  unfold Issues Quiet; decide +kernel
theorem witness_rows_miss (lid : Nat) : rowDev.l1Line rowDev.myCore lid = none := rfl
theorem witness_row_limits : rowDev.me.actives ≠ [] ∧ (rdl rowDev (.s 25) 0).toNat ∉ [64, 128, 256, 512] ∧
    (let s := memDev; (∃ f ∈ rowGroups s.me 64, (∃ l ∈ groupLanes 64 f, l ∈ s.me.actives) ∧ ∃ l ∈ groupLanes 64 f, l ∉ s.me.actives)) ∧
    (let s := { rowDev with teams := [(16, { rowDev.me with vregs := [(1024 * 6, 0x10010)] })] }
     (∀ f ∈ rowGroups s.me 64, (∃ l ∈ groupLanes 64 f, l ∈ s.me.actives) → ∀ l ∈ groupLanes 64 f, l ∈ s.me.actives) ∧
     ∃ f ∈ rowGroups s.me 64, f ∈ s.me.actives ∧ s.me.addr (.v 6) f % 64 ≠ 0) := by decide +kernel

/-! ### Witnesses: home slices -/

/-- The home slice holds the line of 0x10000 for core 0. -/
def lineW : L2Line := { data := 5, rd := true, wr := true, pa := 0x10000 }
def homeDev (x : L2Line := lineW) : State := { dev with l2 := [(lineId 0 0x10000, x)] }
def reqW (op : HomeOp) (n : Nat := 1) (va : Nat := 0x10000) : HomeReq :=
  ⟨.team 16 1, 0, 0, 0x10000, op, (List.range n).map fun l => ⟨l, va, va, 0⟩⟩

theorem witness_home_requests : ∀ op ∈ [HomeOp.load 16, .store 16, .rowSt 64, .rowLd 64, .atom .add false, .atom .cas false, .lock 9,
    .unlock], HeldFor (homeDev) (reqW op) lineW 16 ∧ (reqW op).accs ≠ [] := by unfold HeldFor; decide +kernel
theorem witness_home_nibble : (reqW .store4).accs = [⟨0, 0x10000, 0x10000, 0⟩] ∧ HeldFor homeDev (reqW .store4) lineW 1 := by
  unfold HeldFor; decide +kernel
theorem witness_row_addition : (reqW (.rowAdd 64 false)).accs = [⟨0, 0x10000, 0x10000, 0⟩] ∧
    HeldFor homeDev (reqW (.rowAdd 64 false)) lineW 16 := by unfold HeldFor; decide +kernel
theorem witness_shared_line : others { lineW with sharers := [0, 3] } (some 0) = [3] ∧ others lineW none = [] := by decide
theorem witness_locks : (reqW (.lock 9)).who = .team 16 1 ∧ (0x10000 : Nat) % 8 = 0 ∧ HeldFor (homeDev { lineW with data := 0 }) (reqW (.lock 9)) { lineW with data := 0 } 8 ∧
    ((0 : Line).extractLsb' (8 * (0x10000 % 128)) 64).toNat = 0 ∧ ((5 : Line).extractLsb' (8 * (0x10000 % 128)) 64).toNat ≠ 0 ∧
    homeDev.waiters = [] ∧ homeDev.writes = [] ∧ homeDev.hostLines = [] ∧ (let w : HomeWaiter := ⟨0, 0, 0x10000, 17, ⟨.team 17 3, 0, 0, 0x10000, .lock 9, []⟩⟩
      ({ homeDev with waiters := [w] } : State).waiters = [w] ∧ w.kind = 0 ∧ w.ctx = 0 ∧ w.team = 17 ∧ w.q.who = .team 17 3) := by
  unfold HeldFor; decide +kernel
/-- PENDING 5, with the phase bit, OVR and ABT clear; a spent object; the bounds of the two counts. -/
theorem witness_barrier_words : (5 < 2 ^ 64 ∧ 7 < 2 ^ 48) ∧ (Nat.testBit 5 49 = false ∧ Nat.testBit 5 50 = false) ∧
    Nat.testBit (2 ^ 49) 49 = true ∧ 5 + (2 ^ 48 - 6) < 2 ^ 48 ∧ 2 ^ 48 ≤ 5 + (2 ^ 48 - 5) ∧ (4 < 5 ∧ 5 = 5 ∧ 5 < 6) := by decide +kernel
theorem witness_barrier_requests : ∀ op ∈ [HomeOp.tbInit 3, .tbExpect 3, .tbArrive 2, .tbAbort, .tbTest, .tbWait false],
    (⟨.team 16 1, 0, 0, 0x10000, op, [⟨0, 0x10000, 0, 0⟩]⟩ : HomeReq).va % 16 = 0 ∧
    HeldFor homeDev ⟨.team 16 1, 0, 0, 0x10000, op, [⟨0, 0x10000, 0, 0⟩]⟩ lineW 16 := by unfold HeldFor; decide +kernel
theorem witness_barrier_outcomes : (tbStep (.tbArrive 2) 5 7).1 ≠ (5, 7) ∧ (tbStep (.tbArrive 2) 5 7).2.2.2 = false ∧
    (tbStep (.tbInit 5) 5 5).1 = (5, 5) ∧ (tbStep (.tbExpect (2 ^ 48 - 1)) 5 7).2.2.2 = true ∧
    tbSpent 5 = false ∧ tbPhase 5 = false ∧ tbSpent (2 ^ 49) = true := by decide +kernel
theorem witness_absent_lines : dev.fills = [] ∧ SMap.look dev.l2 (lineId 0 0x10000) = none ∧
    ({ dev with fills := [(lineId 0 0x10000, [reqW (.load 4)])] } : State).fills = [(lineId 0 0x10000, [reqW (.load 4)])] ∧
    dev.l2 = [] := by decide +kernel
/-- One table at 0x1000 whose first entry points to itself, and whose second is a leaf with RD (WR when `wr`). -/
def walkDev (leaf : Byte) : State :=
  { dev with dram := [(0, 1), (1, 0x10), (0x1000, 1), (0x1001, 0x10), (0x1008, leaf)] }
theorem witness_translations : dev.cachedLeaf 0 0x10000 = none ∧ dev.hostMode 0 = false ∧ dev.walk 0 0x10000 = .error ⟨0x0B, 2, 0, 0x10000⟩ ∧
    (∃ e, (walkDev 0x43).walk 0 0x10000 = .ok (0, e) ∧ (leafOf 0 e (va57 0x10000)).rd = true ∧ (leafOf 0 e (va57 0x10000)).tbl = false ∧
      (leafOf 0 e (va57 0x10000)).host = false) ∧ (walkDev 0x43).chans = [] ∧
    (∃ e, (walkDev 0x41).walk 0 0x10000 = .ok (0, e) ∧ (leafOf 0 e (va57 0x10000)).rd = false) := by
  refine ⟨by decide +kernel, by decide +kernel, by rfl, ⟨0x43, by rfl, by decide +kernel⟩, by decide +kernel,
    ⟨0x41, by rfl, by decide +kernel⟩⟩
def sharedW (w : PendingWrite) : State := { homeDev with writes := [w] }
theorem witness_sharers : (∀ p ∈ [((0x10000 : Nat), (255 : Nat))], lineId 0 p.1 = lineId 0 0x10000 ∧ p.2 < 256) ∧
    (memDev true).l1Line 0 (lineId 0 0x10000) = some { data := 5, rd := true, wr := true } ∧ ((memDev true).coreAt 0).stores = [] ∧
    (let w : PendingWrite := ⟨7, lineId 0 0x10000, [3], [], .writerAck (reqW (.store 4)) [] none, []⟩
     (sharedW w).writes = [w] ∧ w.wid = 7 ∧ w.waits = [3] ∧ w.reply = .writerAck (reqW (.store 4)) [] none) ∧
    ([3, 4] : List Nat).erase 3 ≠ [] := by decide +kernel
/-- One outstanding word of the team, with `pend` answers to come. -/
def outW (i : Instr) (cls : OutClass) (pend : Nat) (got : List (Nat × Nat)) : Outstanding :=
  ⟨1, i, 0x40, cls, 7, pend, [4], [], got, none, 0, [], false, [], []⟩
theorem witness_answers : (∀ pend ∈ [1, 2], let o := outW (.ld32 (.v 4) (.s 20) (.v 5)) .load pend []
    let s := dev fun t => { t with outs := [o] }
    SMap.look s.teams 16 = some s.me ∧ s.me.outs = [o] ∧ o.id = 1 ∧ o.bad = none ∧ o.lanes = 0 ∧ o.stops = [] ∧ o.pend = pend) ∧
    (reqW (.load 4)).who = .team 16 1 ∧ (reqW (.load 4)).op = .load 4 ∧ (reqW (.atom .add false)).op = .atom .add false := by
  decide +kernel
theorem witness_wait_returns : (∀ w ∈ [WaitObj.lock 0x10000, .tb 0x10000, .wreg 0x10000],
    let o := outW (.wreg (.v 4) (.s 20) (.s 24)) .sync 1 [(0, 0x10000)]
    let s := dev fun t => { t with outs := [o], wait := some w }
    SMap.look s.teams 16 = some s.me ∧ s.me.outs = [o] ∧ o.id = 1 ∧ o.got = [(0, 0x10000)] ∧ o.pc = s.me.pc ∧ s.me.reissue = none ∧
    s.me.halted = false ∧ s.wftCount (dieOfCore (s.crewOf s.me).core) < 4096 ∧ s.me.wait = some w ∧ o.instr = .wreg (.v 4) (.s 20) (.s 24)) := by decide +kernel

/-! ### Witnesses: synchronisation words -/

def hold20 (f : Team → Team := id) (va : Word := 0x10000) : State := memDev false 0x1007 va f
def heldLock : Holding := ⟨0x10000, true, false, false⟩

theorem witness_fences : ∀ i ∈ [Instr.phase, .pub, .acq, .efence], Issues i hold20 := by unfold Issues; decide +kernel
theorem witness_lock : Issues (.lock (.s 20)) hold20 ∧ (hold20).me.addr (.s 20) 0 % 8 = 0 ∧ (hold20).me.holdsLock 0x10000 = false ∧
    (hold20).me.holdingCount < 8 ∧ canonical 0x10000 = true ∧ Admitted hold20 (.lock 0x10000) := by
  unfold Issues Admitted Listed; decide +kernel
theorem witness_lock_granted : let s := hold20 fun t => { t with stood := some (t.pc, true) }
    decodeCheck (.lock (.s 20)) s.me = none ∧ s.me.stood = some (s.me.pc, true) ∧ s.me.reissue = none ∧ s.waitOpen = false := by
  decide +kernel
def eightLocks : List Holding := List.replicate 8 { heldLock with va := 8 }
def declaredHold : Holding := { heldLock with isLock := false }
theorem witness_lock_limits : (let s := hold20 fun t => { t with holdings := [heldLock] }
      Issues (.unlock (.s 20)) s ∧ s.me.holdsLock 0x10000 = true ∧ s.me.addr (.s 20) 0 % 8 = 0) ∧
    (hold20 id 0x10004).me.addr (.s 20) 0 % 8 ≠ 0 ∧
    (let s := hold20 fun t => { t with holdings := eightLocks }
     s.me.holdsLock 0x10000 = false ∧ 8 ≤ s.me.holdingCount ∧ Issues (.lock (.s 20)) s ∧ s.me.declared 0x10000 = false) ∧
    (Issues (.whold (.s 20)) hold20 ∧ Issues (.wdrop (.s 20)) hold20 ∧ (hold20).me.declared 0x10000 = false ∧
      (hold20).wftCount (dieOfCore (hold20).myCore) < 4096) ∧
    (hold20 fun t => { t with holdings := [declaredHold] }).me.declared 0x10000 = true := by
  unfold Issues; decide +kernel
theorem witness_waits : (∀ i ∈ [Instr.wreg (.s 4) (.s 20) (.s 24), .tbwait (.s 20) (.s 24)], Issues i hold20) ∧
    (0x10000 : Nat) % 4 = 0 ∧ (0x10000 : Nat) % 16 = 0 ∧ Admitted hold20 (.wreg 0x10000) ∧ Admitted hold20 (.tb 0x10000) ∧
    (hold20 id 0x10001).me.addr (.s 20) 0 % 4 ≠ 0 ∧ (hold20 id 0x10008).me.addr (.s 20) 0 % 16 ≠ 0 := by
  unfold Issues Admitted Listed; decide +kernel
theorem witness_barrier_words_issue : (∀ i ∈ [Instr.tbinit (.s 20) (.s 24), .tbexp (.s 20) (.s 24), .tbarr (.s 20) (.s 24),
      .tbtest (.s 4) (.s 20)], Issues i hold20) ∧ Quiet hold20 ∧ 1 ≤ ((hold20).me.rd64 (.s 24) 0).toNat ∧
    ((hold20).me.rd64 (.s 24) 0).toNat < 2 ^ 48 ∧ ((hold20).me.rd64 (.s 26) 0).toNat = 0 ∧
    2 ^ 48 ≤ ((dev fun t => { t with sregs := [(25, 0x10000)] }).me.rd64 (.s 24) 0).toNat := by unfold Issues Quiet; decide +kernel

def barDev (x : Bar) (f : Team → Team := id) : State := { dev f with bars := [(.crew 1, x)] }
theorem witness_execution_barriers :
    (let s := barDev { opened := true, parts := [16, 17], arrived := [17] }
     (s.barAt (s.barId false)).opened = true ∧ s.cur ∈ (s.barAt (s.barId false)).parts ∧ s.cur ∉ (s.barAt (s.barId false)).arrived ∧
     Admitted s (.barrier (s.barId false) 0) ∧ Issues (.bar false) s ∧ Issues (.bararr (.s 4) false) s ∧ s.me.standing = none ∧ s.me.wait = none ∧
     (s.barAt (s.barId false)).parts.length + s.unplaced (s.barId false) ≤ (s.barAt (s.barId false)).arrived.length + 1) ∧
    (let s := barDev { opened := true, parts := [16, 17] }
     ¬ (s.barAt (s.barId false)).parts.length + s.unplaced (s.barId false) ≤ (s.barAt (s.barId false)).arrived.length + 1) ∧
    (let s := barDev { c := 1, opened := true, parts := [16, 17] }
     s.cur ∈ s.phaseParts (s.barId false) ∧ 1 ≤ ((s.barAt (s.barId false)).c - rdl s (.s 63) 0).toInt ∧
     ((s.barAt (s.barId false)).c - rdl s (.s 3) 0).toInt < 1 ∧ Admitted s (.barrier (s.barId false) (rdl s (.s 3) 0)) ∧
     Issues (.barwait (.s 3) false) s) ∧
    (let s := barDev { opened := true, parts := [17] }
     s.cur ∉ (s.barAt (s.barId false)).parts ∧ Issues (.bar false) s) ∧
    (let s := barDev { opened := true, parts := [16, 17], arrived := [16] }
     s.cur ∈ (s.barAt (s.barId false)).parts ∧ s.cur ∈ (s.barAt (s.barId false)).arrived) := by
  unfold Issues Admitted Listed; decide +kernel
theorem witness_pins : Issues (.pin 2 (.s 20)) hold20 ∧ Issues (.unpin 3) hold20 ∧ Issues (.pinq (.s 4) (.s 20)) hold20 ∧
    Issues (.reclaim (.s 4) (.s 20) (.s 20)) hold20 ∧ (hold20).me.rd64 (.s 20) 0 ≠ 0 ∧ ((hold20).me.rd64 (.s 20) 0).toNat < 2 ^ 48 ∧
    (hold20).accessOpen 16 (hold20).me (hold20).me.nextOut = false ∧
    (let s := hold20 fun t => { t with outs := [outW (.st32 (.v 4) (.s 20) (.v 5)) .store 1 []], nextOut := 2 }
     s.accessOpen s.cur s.me s.me.nextOut = true ∧ Issues (.unpin 3) s) ∧ (hold20).searches.length < 16 ∧ (hold20).me.addr (.s 20) 0 % 256 = 0 ∧
    16 ≤ ({ hold20 with searches := List.replicate 16 ⟨1, 1, 0, 0, .pinq 1 1, [], false⟩ } : State).searches.length ∧
    ¬ ((hold20).me.rd64 (.s 26) 0 ≠ 0) := by unfold Issues; decide +kernel
/-- Grid 1 runs the team, grid 2 is its child; a context above 3 is no supervisor. -/
def poolDev (ctx : Nat) (own : Bool) : State :=
  { dev (fun t => { t with sregs := [(2, 1), (3, 3), (4, 2), (6, 10), (7, 20)] }) with
    crews := [(1, { crew0 with ctx := ctx })]
    grids := [(1, { grid0 with launch := { grid0.launch with poolown := own } }), (2, { grid0 with parent := some 1 })] }
theorem witness_pools : (let s := poolDev 0 false
      s.myCtx < 4 ∧ s.gridRuns 2 = true ∧ s.poolGrid 2 = 2 ∧ s.parkedOn 2 = [] ∧ Issues (.topup (.s 4) (.s 6)) s ∧ s.gridRuns 3 = false ∧
      (s.gridAt 2).parent = some s.myCrew.grid ∧ s.poolGrid 1 = 1 ∧ (SMap.look s.grids 1).isSome = true ∧
      Issues (.bgrant (.s 8) (.s 4) (.s 6)) s ∧ (s.gridAt 1).parent ≠ some s.myCrew.grid ∧ Issues (.bgrant (.s 8) (.s 3) (.s 6)) s) ∧
    (let s := poolDev 4 true
     ¬ s.myCtx < 4 ∧ s.myGrid.launch.poolown = true ∧ (rdl s (.s 2) 0).toNat = s.myCrew.grid) ∧
    (let s := poolDev 4 false
     ¬ (s.myCtx < 4 ∨ (s.myGrid.launch.poolown = true ∧ (rdl s (.s 2) 0).toNat = s.myCrew.grid)) ∧ Issues (.topup (.s 2) (.s 6)) s) := by
  unfold Issues; decide +kernel
theorem witness_launches : (let s := hold20
      s.me.addr (.s 20) 0 % 128 = 0 ∧ s.myGrid.depth < 15 ∧ s.me.idx = 0 ∧ Issues (.launch (.s 4) (.s 20) (.s 63)) s) ∧
    (hold20 id 0x10010).me.addr (.s 20) 0 % 128 ≠ 0 ∧
    15 ≤ ({ hold20 with grids := [(1, { grid0 with depth := 15 })] } : State).myGrid.depth ∧
    (hold20 fun t => { t with idx := 1 }).me.idx ≠ 0 ∧
    (let s := poolDev 0 false
     s.ownLineage 2 = false ∧ s.handleRuns 2 = true ∧ s.handleRuns 3 = false ∧ s.ownLineage 3 = false ∧ s.ownLineage 1 = true ∧
     Admitted s (.grid 2) ∧ Issues (.gwait (.s 4)) s) := by unfold Issues Admitted Listed; decide +kernel
def poolTeams (f : Team → Team) : State := { dev with teams := [(16, { team0 with window := 64 }), (17, f { team0 with idx := 1, window := 8 })] }
def fullPool : State := { dev with teams := [(16, { team0 with window := 64 }), (17, { team0 with window := 192, lanes := 1024 }), (18, { team0 with window := 56, lanes := 1024 }), (19, { team0 with window := 8, lanes := 512 })] }
theorem witness_blocks : (8 * 1 + 8 ≤ dev.me.window ∧ dev.me.outs = [] ∧ Issues (.giveback 1) dev ∧ dev.me.window < 8 * 23 + 8 + 1) ∧
    (dev fun t => { t with window := 8 }).me.window < 8 * 1 + 8 ∧
    (let s := poolTeams id
     0 < s.me.lanes ∧ s.me.window + 8 * 16 ≤ 192 ∧ Listed s ∧ s.me.passes * 16 ≤ s.freeBlocks s.myCore ∧ s.claimQueue s.myCore = [] ∧
     Issues (.claim 16) s ∧ 192 < s.me.window + 8 * 17) ∧
    (let s := poolTeams fun t => { t with wait := some (.pool 4) }
     s.claimQueue 0 = [17] ∧ 4 ≤ s.freeBlocks 0 ∧ (∃ u, SMap.look s.teams 17 = some u ∧ u.wait = some (.pool 4) ∧ u.reissue = none)) ∧
    (fullPool.me.window + 8 * 16 ≤ 192 ∧ Listed fullPool ∧ fullPool.freeBlocks fullPool.myCore < fullPool.me.passes * 16 ∧
      Admitted fullPool (.pool (fullPool.me.passes * 16)) ∧ Issues (.claim 16) fullPool) := by
  refine ⟨?_, ?_, ?_, ⟨?_, ?_, _, rfl, ?_, ?_⟩, ?_⟩ <;> (try unfold Issues) <;> (try unfold Admitted) <;> (try unfold Listed) <;> decide +kernel

/-! ### Witnesses: sink groups, accumulators, matrix words -/

/-- The words `ws` stand in the instruction cache behind a SINK at 0x40. -/
def putCode (s : State) (ws : List Word) : State :=
  s.mapCore 0 fun c => { c with icache := [(lineId 0 0, { data := setLineCells 0 (codeCells ws 0), ex := true })] }
where codeCells : List Word → Nat → List (Nat × Nat)
  | [], _ => []
  | w :: r, i => (List.range 4).map (fun b => (0x44 + 4 * i + b, w.toNat / 2 ^ (8 * b) % 256)) ++ codeCells r (i + 1)
/-- LD32 v4, s20, v5 and ADD v6, v4, v1. -/
def groupWs : List Word := [0x7C04D405, 0x23060401]
def groupDev (ws : List Word) (hit : Bool := false) : State := putCode (memDev hit) ws

theorem witness_group : (∀ fl ∈ [(true, false), (false, true), (false, false)], GroupAt (groupDev groupWs) (.sink fl.1 fl.2 1) 2 groupWs) ∧
    anchorAccs groupWs (groupDev groupWs).me ≠ [] ∧ ∀ p ∈ anchorAccs groupWs (groupDev groupWs).me, canonical p.2.1 = true ∧
      (groupDev groupWs).rangeHit 0 0 (p.2.1 / 128 * 128) 128 true = false ∧
      (groupDev groupWs).l1Line 0 (lineId ((groupDev groupWs).locate 0 0 p.2.1).1 ((groupDev groupWs).locate 0 0 p.2.1).2) = none := by
  unfold GroupAt Issues; decide +kernel
theorem witness_group_hits : GroupAt (groupDev [0x7C04D405] true) (.sink false false 0) 1 [0x7C04D405] ∧
    decode 0x7C04D405 = .ok (.ld32 (.v 4) (.s 20) (.v 5)) ∧ ∀ l ∈ (groupDev [0x7C04D405] true).me.actives,
      canonical ((groupDev [0x7C04D405] true).me.ea (.s 20) (.v 5) l) = true ∧
      (groupDev [0x7C04D405] true).laneFault ((groupDev [0x7C04D405] true).me.ea (.s 20) (.v 5) l) 4 false = none ∧
      (groupDev [0x7C04D405] true).l1Line 0 (lineId 0 ((groupDev [0x7C04D405] true).me.ea (.s 20) (.v 5) l)) =
        some { data := 5, rd := true, wr := true } := by unfold GroupAt Issues; decide +kernel
theorem witness_group_refused : goodWords ((groupDev [0x00000000, 0]).myGroup 1) = some [0] ∧
    (groupBreach (groupDev [0x00000000]).me (wordOf (.sink false false 0)) [0]).isSome = true ∧
    goodWords ((memDev).myGroup 1) = none ∧ Issues (.sink false false 0) memDev ∧ sinkCheck (.sink false false 0) 1 memDev = none := by
  unfold Issues; decide +kernel
/-- A lane of the group at home, at its anchor, and after it. -/
def laneW : SinkEnv := ⟨0, 0x10000, 0, [(212, 0x10000), (213, 0), (5, 0), (1, 3)], none⟩
def laneS : SinkEnv := ⟨0, 0x10000, 0, [(212, 0x10000), (213, 0), (5, 0), (4, 7)], none⟩
theorem witness_packets : HeldFor homeDev (reqW (.sink groupWs 7 true ⟨0, [laneW], [], 0⟩)) lineW 1 ∧
    laneToAccess groupWs 7 16 laneW = (laneW, some ⟨0x10000, 4, none⟩) ∧ [laneW].find? (fun z => !laneOver groupWs z) = some laneW ∧
    SMap.look homeDev.l2 (lineId 0 (0x10000 / 128 * 128 + 0x10000 % 128)) = some lineW ∧ lineW.policy ≠ 1 ∧
    laneToAccess [0x8304D405] 7 16 laneS ≠ (laneS, none) ∧ dev.fills = [] ∧ SMap.look dev.l2 (lineId 0 0x10000) = none ∧
    laneOver groupWs { laneW with next := 2 } = true ∧ dev.writes = [] := by unfold HeldFor; decide +kernel
theorem witness_packet_stores : laneToAccess [0x8204D405] 7 16 laneS = (laneS, some ⟨0x10000, 4, some 7⟩) ∧
    decode 0x8204D405 = .ok (.st32 (.v 4) (.s 20) (.v 5)) := by decide +kernel
theorem witness_sink_results : let o := outW (.sink true false 0) .sink 1 []
    let s := dev fun t => { t with outs := [o] }
    SMap.look s.teams 16 = some s.me ∧ s.me.outs = [o] ∧ o.pend = 1 ∧ o.cls = .sink ∧ o.got = [] ∧ o.stops = [] ∧ o.lanes = 0 ∧
    4 ∈ (groupInstrs groupWs).flatMap memberWrites ∧ 4 < 192 ∧ (reqW (.sink groupWs 7 false ⟨1, [], [], 0⟩)).accs.length = 1 := by
  decide +kernel

/-- The team owns no rows; its crew has 64, of which row 0 is another team's. -/
def accDev (f : Team → Team := id) (owner : SMap Nat := [(0, 2)]) : State :=
  { dev (fun t => f { t with accBase := 8, accLim := 40, vregs := [], sregs := [(2, 6), (3, 37), (4, 3), (20, 0x20000)] }) with
    crews := [(1, { crew0 with accRows := 64, owner := owner })] }
theorem witness_accumulator_words :
    (∀ i ∈ [Instr.accalloc (.s 6) (.s 2), .accwin (.s 2) (.s 4), .accfree, .accwr (.v 3) (.v 1) (.v 2), .accrd (.v 3) (.v 1) (.v 2),
      .acczero (.s 4) (.s 3)], Issues i accDev) ∧ (SMap.look (accDev).crews 1).isSome = true ∧
    (¬ ∃ p ∈ (accDev).myCrew.owner, p.2 = (accDev).me.idx + 1) ∧ (rdl accDev (.s 2) 0).toNat = 6 ∧
    (1 + 6 ≤ (accDev).myCrew.accRows ∧ ∀ i < 6, SMap.look (accDev).myCrew.owner (1 + i) = none) ∧
    SMap.look (accDev).myCrew.owner 0 = some 2 ∧
    (∃ p ∈ (accDev id [(0, 1)]).myCrew.owner, p.2 = (accDev id [(0, 1)]).me.idx + 1) ∧
    ((accDev).me.actLanes (.accwr (.v 3) (.v 1) (.v 2)) ≠ [] ∧ ∀ l ∈ (accDev).me.actLanes (.accwr (.v 3) (.v 1) (.v 2)),
      ((accDev).me.rd (.v 1) l).toNat < (accDev).me.accLim ∧ ((accDev).me.rd (.v 2) l).toNat < 256) ∧
    (6 + 3 ≤ (accDev).myCrew.accRows ∧ 3 + 37 ≤ (accDev).me.accLim ∧ (accDev).me.accLim < 0x20000) ∧
    ¬ ∀ l ∈ (accDev).me.actLanes (.accwr (.v 3) (.s 20) (.v 2)), ((accDev).me.rd (.s 20) l).toNat < (accDev).me.accLim := by
  unfold Issues; decide +kernel
theorem witness_no_run_of_rows (r : Nat) : ¬ rowsFree { crew0 with accRows := 4 } r 6 := by
  simp only [rowsFree, not_and]; intro h; omega
theorem witness_datapath : (∀ o ∈ [AccOp.zero 1 16 5 9, .write 1 16 [(5, 9, 77)], .read 1 16 1 [(3, 2, 1)], .scale 1 16 1 9 0],
      (((accDev).mapCore 0 fun c => { c with jobs := [o] }).coreAt 0).jobs = [o]) ∧ SMap.look (accDev).crews 1 = some (accDev).myCrew ∧
    SMap.look (accDev).teams 16 = some (accDev).me ∧ (accDev).me.mma = none ∧ (accDev).myCrew.taken = false ∧
    (accDev).myCrew.taking = false ∧
    (let o := outW (.scld (.s 6) (.s 2) (.s 4)) .launch 1 [(4, 5)]; o.pend = 1 ∧ o.got = [(4, 5)] ∧ 5 < 2 ^ 128 ∧ o.bad = none) := by
  decide +kernel

/-- F32 by F32 of 4 by 2 by 8, at s22:s23 (fields of R391): CEND, PROW 2, pitch 1. -/
def fmtW : BitVec 64 := 0x0100010300020100#64
def mmaDev (n : Nat := 1) (f : Team → Team := id) : State :=
  let w := 256 + 2 * 2 ^ 16 + 3 * 2 ^ 32 + n * 2 ^ 40 + 1 * 2 ^ 56
  { accDev (fun t => f { t with sregs := [(20, 0x20000), (22, BitVec.ofNat 32 w), (23, BitVec.ofNat 32 (w / 2 ^ 32))] }) with
    l2 := (List.range 16).map fun q => (lineId 0 (0x20000 + 128 * q), { lineW with data := 9, pa := 0x20000 + 128 * q }) }
theorem witness_mma : Issues (.mma (.v 1) (.s 20) (.s 22)) mmaDev ∧ (mmaDev).gangOf (mmaDev).me = none ∧ 
    (mmaDev).me.fmtWords (.s 22) = [fmtW] ∧ (mmaDev).matrixLimit [(mmaDev).mmaCopy (.v 1) (.s 20) (.s 22)] (some fmtW) = none ∧
    ((mmaDev 1 fun t => { t with accLim := 1 }).matrixLimit [(mmaDev 1 fun t => { t with accLim := 1 }).mmaCopy (.v 1) (.s 20) (.s 22)]
      (some fmtW)).isSome = true := by unfold Issues; decide +kernel
theorem witness_mdrain : (let k : ChainKey := ⟨2, 4, 2, 0, 0, false⟩
     let s := mmaDev 1 fun t => { t with chain := { closed := some k }, sregs := [(20, 0xC000000C)] }
     Issues (.mdrain (.s 20) (.s 22)) s ∧ s.me.chain.openKey = none ∧ s.me.chain.closed = some k ∧
     drainLimit s.me.chain (rdl s (.s 20) 0).toNat s.me.accLim = none) ∧
    (mmaDev).me.chain.openKey = none ∧ (mmaDev).me.chain.closed = none ∧
    (mmaDev 1 fun t => { t with chain := { openKey := some ⟨2, 4, 2, 0, 0, false⟩ } }).me.chain.openKey.isSome = true := by
  unfold Issues; decide +kernel
/-- The MMA handed over; the same with K = 16; and the reads of its first step. -/
def jobW (fmt : BitVec 64 := fmtW) (reads : Option Nat := none) : MmaJob :=
  { crew := 1, parts := [⟨16, 0x40, 3, 1⟩], fmt := fmt, baddr := 0x20000, a := [], k0 := 0, base := 8, opens := true, seq := 0, count := 8,
    reads := reads }
def stepDev (fmt : BitVec 64) (outs : List Outstanding) : State :=
  (mmaDev 1 fun t => { t with outs := outs }).mapCore 0 fun c => { c with jobs := [.mma (jobW fmt (outs.head?.map Outstanding.id))] }
theorem witness_mma_steps : (∀ p ∈ [(fmtW, 8), (fmtW + 0x1000000000000, 16)], stepLen (fmtA p.1) (fmtB p.1) = some 8 ∧ fmtK p.1 = p.2) ∧
    (stepDev fmtW []).myCrew.taken = false ∧ (stepDev fmtW []).myCrew.taking = false ∧ (stepDev fmtW []).me.mma = none ∧
    ((stepDev fmtW []).coreAt 0).jobs = [.mma jobW] ∧ (jobW).parts = [⟨16, 0x40, 3, 1⟩] ∧ (stepDev fmtW []).me.outs = [] ∧
    (jobW).k0 < fmtK fmtW ∧ SMap.look (stepDev fmtW []).teams 16 = some (stepDev fmtW []).me := by decide +kernel
theorem witness_mma_room : (stepDev fmtW []).mmaRoom jobW = true := by decide +kernel
theorem witness_mma_reads : ∀ bad ∈ [none, some (⟨0x0B, 2, 2, 0x20000⟩ : BadAccess)],
    let o := { outW (.mma (.v 1) (.s 20) (.s 22)) .load 1 [] with bad := bad }
    let s := stepDev fmtW [o]
    (jobW fmtW (some o.id)).reads = some o.id ∧ (s.coreAt 0).jobs = [.mma (jobW fmtW (some o.id))] ∧ s.me.outs = [o] ∧ o.pend = 1 ∧ o.bad = bad := by
  decide +kernel
def metDev : State := { dev (fun t => { t with sregs := [(20, 3)] }) with crews := [(1, { crew0 with rendezvous := [(3, 17)] })] }
theorem witness_gang :
    (let s := dev fun t => { t with sregs := [(20, 3)] }
     (rdl s (.s 20) 0).extractLsb' 0 16 ≠ 0#16 ∧ s.me.gang = 0 ∧ ((rdl s (.s 20) 0).extractLsb' 0 16).getLsbD s.me.idx = true ∧
     2 ≤ countBits ((rdl s (.s 20) 0).extractLsb' 0 16).toNat 16 ∧ (rdl s (.s 20) 0).toNat < 2 ^ s.myGrid.launch.crewTeams ∧
     Issues (.gang (.s 20)) s ∧ Admitted s (.gang 3) ∧ (3#16, 17) ∉ s.myCrew.rendezvous ∧
     (∀ k ∈ s.teamsOfCrew s.me.crew, (SMap.get default s.teams k).reissue = none) ∧ s.me.wait = none) ∧
    (∀ j ∈ List.range 16, (3#16).getLsbD j = true → j ≠ metDev.me.idx → (3#16, 16 * metDev.me.crew + j) ∈ metDev.myCrew.rendezvous) ∧
    (gangWord 3 0).getLsbD 31 = true ∧ (2#16).getLsbD 0 = false ∧ countBits (1#16).toNat 16 < 2 := by
  unfold Issues Admitted Listed; decide +kernel
/-- The other member has met: GANG completes for this one. -/
theorem witness_gang_completes : Issues (.gang (.s 20)) metDev ∧ Listed metDev ∧ metDev.me.wait = none ∧ metDev.me.gang = 0 ∧
    (∀ k ∈ metDev.teamsOfCrew metDev.me.crew, (SMap.get default metDev.teams k).reissue = none) ∧ (rdl metDev (.s 20) 0).toNat = 3 ∧
    (3#16).getLsbD metDev.me.idx = true ∧ 3 < 2 ^ metDev.myGrid.launch.crewTeams ∧ (SMap.look metDev.crews metDev.me.crew).isSome = true := by
  unfold Issues Listed; decide +kernel
def gangDev (latch : List LatchCopy) (w : Option WaitObj) : State :=
  { mmaDev 1 (fun t => { t with gang := gangWord 3 0 }) with
    crews := [(1, { crew0 with accRows := 64, gangs := [{ members := 3, latch := latch }] })]
    teams := [(16, { (mmaDev 1 (fun t => { t with gang := gangWord 3 0 })).me with gang := gangWord 3 0 }),
      (17, { team0 with idx := 1, gang := gangWord 3 1, wait := w, stood := some (0x40, true) })] }
def copy17 (base : Nat) : LatchCopy := { (gangDev [] none).mmaCopy (.v 1) (.s 20) (.s 22) with team := 17, base := base }
theorem witness_gang_words :
    (let s := gangDev [] none
     let g : Gang := { members := 3 }
     s.gangOf s.me = some g ∧ g.members.getLsbD s.me.idx = true ∧ (SMap.look s.crews 1).isSome = true ∧ Admitted s .latch ∧
     Issues (.mma (.v 1) (.s 20) (.s 22)) s ∧ s.me.wait = none ∧ s.latched 1 { g with latch := [s.mmaCopy (.v 1) (.s 20) (.s 22)] } = none) ∧
    (let s := gangDev [copy17 8] (some .latch)
     let g : Gang := { members := 3, latch := [copy17 8] }
     s.gangOf s.me = some g ∧ (∀ x ∈ g.latch, x.team ≠ s.cur ∧ x.kept = none) ∧
     (∃ cs, s.latched 1 { g with latch := g.latch ++ [s.mmaCopy (.v 1) (.s 20) (.s 22)] } = some cs ∧ diverge cs = none ∧
       s.matrixLimit cs (some fmtW) = none ∧ ∀ x ∈ cs, x.fmt = some fmtW)) ∧
    (let s := gangDev [copy17 9] (some .latch)
     ∃ cs, s.latched 1 { members := 3, latch := [copy17 9, s.mmaCopy (.v 1) (.s 20) (.s 22)] } = some cs ∧ (diverge cs).isSome = true ∧
       s.myCrew.handler = none ∧ ∀ k ∈ s.teamsOfCrew 1, (SMap.get default s.teams k).trap.tvbase.getLsbD 0 = false) := by
  refine ⟨by unfold Issues Admitted Listed; decide +kernel, ⟨by decide +kernel, by decide +kernel, _, rfl, by decide +kernel⟩,
    ⟨_, rfl, by decide +kernel⟩⟩
theorem witness_scale_loads :
    (let s := mmaDev 1 fun t => { t with sregs := [(20, 0x20000), (22, 5)] }
     Issues (.scld (.s 24) (.s 20) (.s 22)) s ∧ (∀ n ∈ scaleChunks 0, s.laneFault (0x20000 + n.2.1) n.2.2 false = none) ∧
     s.me.addr (.s 20) 0 % 128 = 0 ∧ (rdl s (.s 22) 0).toNat % 512 < s.me.accLim ∧ (rdl s (.s 22) 0).toNat < 2 ^ 18) ∧
    (let s := { mmaDev 1 (fun t => { t with sregs := [(20, 0x20000), (22, 0x20005)] }) with
       cores := [(0, { l1 := (List.range 68).map fun q => (lineId 0 (0x20000 + 128 * q), { data := 9, rd := true }) })] }
     (rdl s (.s 22) 0).toNat / 2 ^ 16 % 4 = 2 ∧ ∀ n ∈ scaleChunks 2, ((s.l1Line 0 (lineId (s.locate 0 0 (0x20000 + n.2.1)).1
       (s.locate 0 0 (0x20000 + n.2.1)).2)).map L1Line.rd) = some true) := by unfold Issues; decide +kernel
theorem witness_scale_misses (lid : Nat) : (mmaDev).l1Line (mmaDev).myCore lid = none := rfl

/-! ### Witnesses: engine words, batches, packets and the peer fabric -/

def packet (raw : BitVec 512) (id : Nat := 77) : Packet :=
  { id := id, engine := 0, raw := raw, ctx := 0, team := some 16, teamIdx := 0, crew := 0, grid := 1, batch := 0, queue := none, stream := 0 }
/-- An engine word's registers: pairs at s20 and s22, the block at s30; at the port `n` packets stand already. -/
def wordDev (n : Nat := 0) (f : Team → Team := id) : State :=
  let s := dev fun t => f { t with sregs := [(20, 0x10040), (22, 0x20000), (30, 5), (34, 64)], batchNext := 5 }
  { s with packets := (List.range n).map fun i => packet 0 i }
def withL1 (s : State) : State := s.mapCore 0 fun c => { c with l1 := [(lineId 0 0x10000, { data := 5, rd := true, wr := true })] }

theorem witness_engine_words : (∀ i ∈ [Instr.cpy (.s 20) (.s 22) (.s 30), .cpys (.s 20) (.s 22) (.s 30), .cpyt (.s 20) (.s 22) (.s 30),
      .cpyr (.s 20) (.s 22) (.s 30), .rgath (.s 20) (.s 22) (.s 30), .coll (.s 20) (.s 22) (.s 30), .nmblk (.s 22) (.s 30)],
      Issues i wordDev ∧ Issues i (wordDev 16)) ∧
    wordDev.portFull (clusterOfCore wordDev.myCore) = false ∧ (wordDev 16).portFull (clusterOfCore (wordDev 16).myCore) = true := by
  unfold Issues; decide +kernel
theorem witness_qsub : Issues (.qsub (.s 20)) (withL1 wordDev) ∧ (withL1 wordDev).me.addr (.s 20) 0 % 64 = 0 ∧
    (withL1 wordDev).laneFault 0x10040 64 false = none ∧ wordDev.locate 0 0 0x10040 = (0, 0x10040) ∧
    (withL1 wordDev).l1Line 0 (lineId 0 0x10040) = some { data := 5, rd := true, wr := true } ∧
    Issues (.qsub (.s 20)) wordDev ∧ Quiet wordDev ∧ wordDev.l1Line 0 (lineId 0 0x10040) = none ∧
    (let s := wordDev 0 fun t => { t with stood := some (t.pc, false), packet := some 77 }
     decodeCheck (.qsub (.s 20)) s.me = none ∧ s.me.stood = some (s.me.pc, false) ∧ s.me.reissue = none ∧ s.me.packet = some 77) ∧
    (wordDev 0 fun t => { t with sregs := [(20, 8)] }).me.addr (.s 20) 0 % 64 ≠ 0 := by unfold Issues Quiet; decide +kernel
def manyBatches : SMap Nat := (List.range 32).map fun i => (i + 5, 1)
theorem witness_batches : (wordDev.me.batchCount wordDev.me.batchNext = 0 ∧ Issues (.bseal (.s 4)) wordDev ∧ wordDev.me.batches = []) ∧
    (let s := wordDev 0 fun t => { t with batches := manyBatches }
     s.me.batchCount s.me.batchNext ≠ 0 ∧ 32 ≤ s.me.unfinished ∧ Issues (.bseal (.s 4)) s ∧ ¬ s.me.unfinished ≤ 3 ∧
     Issues (.bwait 3) s ∧ Issues (.bwaity 3 (.s 20)) s ∧ s.me.gang = 0) ∧
    (wordDev.me.unfinished ≤ 3 ∧ Issues (.bwait 3) wordDev ∧ Issues (.bwaity 3 (.s 20)) wordDev ∧ (rdl wordDev (.s 20) 0).toNat % 4 = 0) ∧
    (rdl wordDev (.s 30) 0).toNat % 4 ≠ 0 ∧
    (∀ b ∈ [[(5, 1)], manyBatches], let s := wordDev 0 fun t => { t with batches := b, wait := some (.batchesYield 3 0x10040) }
     SMap.look s.teams 16 = some s.me ∧ s.me.wait = some (.batchesYield 3 0x10040) ∧ s.me.place = .resident ∧ s.me.gang = 0 ∧
     (b = [(5, 1)] → s.me.unfinished ≤ 3) ∧ (b = manyBatches → 3 < s.me.unfinished)) := by unfold Issues; decide +kernel
def command : Submission := ⟨7, 0, 0, [], 1, 0, 0, none, some 16, 5, 1, 0, 0, false, false, none, none, 0⟩
def cmdDev (cmd engine : Word) : State := dev fun t => { t with sregs := [(20, cmd), (30, engine)] }
theorem witness_commands_sent : ∀ s ∈ [cmdDev 0x103 77, cmdDev 0x102 383, cmdDev 0x105 0],
    2 ≤ (rdl s (.s 20) 0).toNat % 256 ∧ (rdl s (.s 20) 0).toNat % 256 ≤ 5 ∧ (rdl s (.s 30) 0).toNat ≤ 383 ∧
    Issues (.nmcmd (.s 20) (.s 30)) s := by unfold Issues; decide +kernel
theorem witness_commands_refused : (rdl (cmdDev 0x101 1) (.s 20) 0).toNat % 256 < 2 ∧ 5 < (rdl (cmdDev 0x106 1) (.s 20) 0).toNat % 256 ∧
    (rdl (cmdDev 0x102 384) (.s 20) 0).toNat % 256 = 2 ∧ 383 < (rdl (cmdDev 0x102 384) (.s 30) 0).toNat := by decide +kernel
theorem witness_commands_accepted : (let s : State := { dev (fun t => { t with wait := some .nmcmd }) with chans := [(77, { queue := [command] })] }
    s.chans = [(77, { queue := [command] })] ∧ SMap.look s.teams 16 = some s.me ∧ s.me.wait = some .nmcmd ∧ s.me.reissue = none) ∧
    command.pid = none ∧ command.team = some 16 ∧ command.cmds = [] := by
  refine ⟨⟨rfl, by decide +kernel, by decide +kernel, by decide +kernel⟩, by decide⟩

def withP (p : Packet) : State := { homeDev with packets := [p], mgmt := State.reset.mgmt }
def under (fs : List (Nat × Nat)) : Packet := { packet (packFields ([(0x10, 0x30000), (0x18, 0x10010)] ++ fs)) with accepted := true, started := true }
def offered (fs : List (Nat × Nat)) : Packet := packet (packFields ([(0x10, 0x30000), (0x18, 0x10010)] ++ fs))

/-- A plain copy; a scattered one with its descriptor to read; one whose SUB the engine does not know. -/
theorem witness_packets_offered : ∀ fs ∈ [[(0x28, 100)], [(0xA, 2), (0x30, 0x60040)], [(0xA, 3), (0x30, 0x60040)]],
    let p := offered fs
    (withP p).packets = [p] ∧ p.queue = none ∧ p.accepted = false ∧ p.failed = none ∧ p.id ≠ 0 ∧ (withP p).ranges = [] ∧
    (withP p).heq = [] ∧ p.ctx < 65536 ∧ p.ranges.length ≤ 1024 ∧ p.desc = none ∧ p.asked = false := by decide +kernel
theorem witness_packets_same_registers (p : Packet) : (withP p).mgmt = State.reset.mgmt := rfl
theorem witness_packets_sorted :
    (let p := offered [(0x28, 100)]; p.breach = none ∧ p.needsDesc = false) ∧
    (let p := offered [(0xA, 2), (0x30, 0x60040)]; p.fieldsOk = true ∧ p.needsDesc = true ∧ canonical p.p0 = true) ∧
    (let p := offered [(0xA, 3), (0x30, 0x60040)]; p.breach = some 0 ∧ p.fieldsOk = false) := by decide +kernel
/-- A tile of three rows of 40 bytes whose descriptor has been read; one whose descriptor is all zeros; and a range in its way. -/
def tileP (d : BitVec 512) : Packet := { offered [(0xA, 2), (0x30, 0x60040)] with asked := true, desc := some d }
def goodTile : BitVec 512 := packFields [(0, 1), (4, 40), (8, 3), (0xC, 1), (0x10, 1), (0x14, 1), (0x18, 64), (0x28, 128)]
theorem witness_tiles_offered : (let p := tileP goodTile;
      (withP p).packets = [p] ∧ p.queue = none ∧ p.accepted = false ∧ p.failed = none ∧ p.id ≠ 0 ∧ p.asked = true ∧ p.desc ≠ none) ∧
    (let p := tileP (packFields []);
      (withP p).packets = [p] ∧ p.queue = none ∧ p.accepted = false ∧ p.failed = none ∧ p.id ≠ 0 ∧ p.asked = true ∧ p.desc ≠ none) := by decide +kernel
theorem witness_tiles_accepted : (let p := tileP goodTile;
     p.breach = none ∧ (withP p).ranges = [] ∧ p.ranges.length ≤ 1024 ∧ p.total = 120 ∧ (withP p).rangesFree p = true ∧
     ({ withP p with ranges := [⟨0, 5, 0, 0x30020, 0x30040, true⟩] } : State).rangesFree p = false ∧ p.team = some 16 ∧ p.sub = 2 ∧ p.kind ≤ 1) ∧
    (let p := tileP (packFields []); p.breach = some 1 ∧ (withP p).heq = [] ∧ p.ctx < 65536) := by decide +kernel
theorem witness_plain_offered : (let p := offered [(0x28, 100)]; p.asked = false ∧ p.needsDesc = false) ∧
    (let p := offered [(0xA, 3), (0x30, 0x60040)]; p.asked = false ∧ p.fieldsOk = false) := by decide +kernel
theorem witness_packets_started : (let p := { offered [(0x28, 100)] with accepted := true }
      (withP p).packetAt p.id = some p ∧ p.started = false ∧ p.flagPeer = false ∧ (withP p).startable p = true) ∧
    (let p := { offered [(0x28, 100)] with accepted := true }
     let q := { offered [(9, 4), (0x28, 100)] with id := 78, accepted := true }
     let s : State := { withP p with packets := [p, q] }
     s.packetAt q.id = some q ∧ q.started = false ∧ s.startable q = false) := by decide +kernel
theorem witness_under_way : ∀ fs ∈ [[(0x28, 100)], [(8, 1), (0xB, 0x10), (0x28, 100)], [(8, 3), (0x28, 100)], [(8, 6), (0x38, 2)],
    [(8, 4), (0x28, 100)], [(8, 7), (0x28, 100)]], UnderWay (withP (under fs)) (under fs) := by unfold UnderWay; decide +kernel
theorem witness_units_read : (let p := under [(0x28, 100)]; p.pos < p.count ∧ p.got = [] ∧ (p.unitAt p.pos 1).src % (p.unitAt p.pos 1).n = 0 ∧
      ∀ j ∈ List.range (p.unitAt p.pos 1).n, canonical (((p.unitAt p.pos 1).src + j) % 2 ^ 64) = true) ∧
    (let p := under [(8, 1), (0xB, 0x10), (0x28, 100)]; p.pos < p.count ∧ (p.unitAt p.pos 4).src % (p.unitAt p.pos 4).n = 0) := by
  decide +kernel
theorem witness_units_written : (let p := { under [(0x28, 100)] with got := [(0, 0x1234)] }
      UnderWay (withP p) p ∧ p.got ≠ [] ∧ p.route = none ∧ p.writing = false ∧ p.before = [] ∧
      (∃ l, (withP p).agentTarget p.ctx (p.unitAt p.pos 1).dst = .ok l) ∧
      (∀ r ∈ p.ranges, r.2.2 = true ∨ (p.unitAt p.pos 1).dst + (p.unitAt p.pos 1).n ≤ r.1 ∨ r.2.1 ≤ (p.unitAt p.pos 1).dst)) ∧
    (let p := { under [(8, 3), (0x28, 100)] with pos := 16 }; p.pos < p.len ∧ UnderWay (withP p) p ∧
      addrAdd p.dst p.pos % 16 = 0 ∧ p.pos + 16 ≤ p.len) := by
  refine ⟨⟨by unfold UnderWay; decide +kernel, by decide +kernel, by decide +kernel, by decide +kernel, by decide +kernel, ⟨_, by rfl⟩,
    by decide +kernel⟩, by unfold UnderWay; decide +kernel⟩
theorem witness_rows_gathered : (let p := { under [(8, 2), (0x18, 0x10000), (0x28, 64), (0x30, 0x50000), (0x38, 10 + 2 ^ 32 * 64)] with pos := 3 };
      UnderWay (withP p) p ∧ p.pos < p.p1 % 2 ^ 32 ∧ p.index = none ∧ p.got = [] ∧ (p.p0 + 4 * p.pos) % 2 ^ 64 % 4 = 0) ∧
    (let p := { under [(8, 2), (0x18, 0x10000), (0x28, 64), (0x30, 0x50000), (0x38, 10 + 2 ^ 32 * 64)] with pos := 3, index := some 9 };
      UnderWay (withP p) p ∧ p.index = some 9 ∧ p.buf = [] ∧ 16 ≤ p.len ∧ (p.dst + p.pos * p.len) % 16 = 0 ∧
      (p.src + 9 * (p.p1 / 2 ^ 32)) % 2 ^ 64 % 16 = 0) ∧
    (let p := under [(0xA, 1), (0x28, 40), (0x30, 5), (0x38, 2 ^ 32 - 100), (0x3C, 300)];
      UnderWay (withP p) p ∧ p.kind ≤ 1 ∧ p.sub = 1 ∧ 0 < p.len ∧ 4 < p.p0 ∧ 39 < p.len) := by unfold UnderWay; decide +kernel
theorem witness_packets_end :
    (let p := under [(8, 4), (0x28, 100)]
     p.pos < p.len ∧ p.route = none ∧ canonical (addrAdd p.dst p.pos) = true ∧ canonical (2 ^ 63 : Nat) = false) ∧
    (let p := { under [(8, 8), (0x20, 0x10040), (0x30, 9)] with arrived := 2 }
     (withP p).packetAt p.id = some p ∧ p.failed = none ∧ p.stop = false ∧ p.aborted = false ∧ p.waiting = false ∧ p.outs = [] ∧
     p.reads = 0 ∧ p.route = none ∧ p.kind = 8 ∧ p.tb ≠ 0 ∧ p.arrived < p.p0) ∧
    (let p := { under [(0x28, 100)] with pos := 100 }
     UnderWay (withP p) p ∧ p.outs = [] ∧ p.count ≤ p.pos ∧ p.kind ≤ 1 ∧ p.team = some 16 ∧
     SMap.look (withP p).teams 16 = some (withP p).me) ∧
    (let p := under [(8, 6), (0x30, 5), (0x38, 2)]; UnderWay (withP p) p ∧ p.kind = 6 ∧ p.closing = false) ∧
    (let p := { under [(0x20, 0x10040), (0x28, 100)] with failed := some ⟨0x0B, 2, 2, 0x30010⟩ }
     (withP p).packetAt p.id = some p ∧ p.accepted = true ∧ p.started = true ∧ p.outs = [] ∧ p.reads = 0 ∧ (withP p).heq = [] ∧
     p.ctx < 65536 ∧ p.tb ≠ 0 ∧ p.tb % 16 = 0 ∧ canonical p.tb = true ∧ p.flagPeer = false ∧ p.kind ≠ 5) := by
  unfold UnderWay; decide +kernel

/-- Rank 3's entry of a group whose table lies at 0x70000. -/
def stepP : Packet := { under [(8, 5), (0xC, 3), (0x28, 100), (0x30, 0x60000)] with desc := some (BitVec.ofNat 512 (9 + 8 * 2 ^ 64 + 0x70000 * 2 ^ 128)) }
theorem witness_steps_routed : UnderWay (withP stepP) stepP ∧ (withP stepP).stepBehind stepP = false ∧ stepP.route = none ∧ stepP.got = [] ∧
    (stepP.d 0x10 8 + 16 * stepP.f 0xC 2) % 16 = 0 ∧
    (∀ j ∈ List.range 16, canonical (((stepP.d 0x10 8 + 16 * stepP.f 0xC 2) % 2 ^ 64 + j) % 2 ^ 64) = true) := by
  unfold UnderWay; decide +kernel
theorem witness_routes_chosen : (let p := { stepP with got := [(0, 0x1234 + 2 ^ 16 * 0b1100)] }
     let s : State := { withP p with portsDown := [2] }
     UnderWay s p ∧ s.stepBehind p = false ∧ p.got ≠ [] ∧ p.value / 2 ^ 96 % 2 ^ 32 = 0 ∧ (p.value / 2 ^ 16).testBit 3 = true ∧ 3 ∉ s.portsDown ∧
     (∀ k ∈ List.range 3, (p.value / 2 ^ 16).testBit k = true → k ∈ s.portsDown)) := by unfold UnderWay; decide +kernel
theorem witness_pieces_sent : (let p := { under [(9, 2), (0x28, 100)] with route := some (4, 7), got := [(0, 0x123456)] }
     UnderWay (withP p) p ∧ p.got ≠ [] ∧ p.pos < p.count ∧ p.kind ≤ 1 ∧ p.sub = 0 ∧ p.before = []) ∧
    (let p := { stepP with route := some (4, 7) }
     UnderWay (withP p) p ∧ (withP p).stepBehind p = false ∧ p.got = [] ∧ p.pos < p.count ∧ p.route ≠ none) := by
  unfold UnderWay; decide +kernel
def inbound (tb : Nat) : InboundReq := { peer := 4, tag := 5, group := 9, reduce := false, typ := 0, dst := 0x20000, tb := tb, bytes := [7], arrive := 0 }
/-- A window of context 3 at 0x20000 that accepts peer 4. -/
def openDev : State := ((homeDev.setReg 0x15008 0x20000).setReg 0x15010 0x10000).setReg 0x15018 0xE000000400000003
theorem witness_windows : openDev.windowFor 4 0x20000 1 62 = some 3 ∧ openDev.windowFor 4 0x20010 16 61 = some 3 ∧
    openDev.aborts = [] ∧ (inbound 0x20010).bytes = [7] ∧ (inbound 0x20010).reduce = false ∧ (inbound 0x20010).arrive = 0 ∧
    openDev.windowFor 4 0x40000 1 62 = none ∧ openDev.inboundBytes = [] ∧ (0x20010 : Nat) % 16 = 0 ∧ canonical 0x20010 = true ∧
    (9 : Nat) ∈ ({ openDev with aborts := [9] } : State).aborts := by decide +kernel
/-- An arrival of peer 4, with no piece of its packet left, and behind one. -/
def arrivalIn : InboundReq := { inbound 0x20010 with bytes := [], arrive := 3 }
def inboundBefore : Inbound := ⟨5, inbound 0, 3, [], false, false, true⟩
theorem witness_arrivals : arrivalIn.bytes = [] ∧ arrivalIn.arrive ≠ 0 ∧ arrivalIn.tb ≠ 0 ∧ arrivalIn.tb % 16 = 0 ∧
    (∀ l ∈ [[], [inboundBefore]], let s : State := { openDev with inbound := l, nextId := 9 }
      s.inbound = l ∧ s.windowFor arrivalIn.peer arrivalIn.tb 16 61 = some 3 ∧ (arrivalIn.peer, arrivalIn.tag) ∉ s.inboundRefused ∧
      arrivalIn.group ∉ s.aborts ∧ inboundBefore.id ≠ s.nextId) ∧
    inboundBefore.r.peer = arrivalIn.peer ∧ inboundBefore.r.tag = arrivalIn.tag := by decide +kernel
theorem witness_reports : (let p := { stepP with closing := true, waiting := true }; (withP p).packetAt p.id = some p ∧ p.closing = true) ∧
    (let p := { stepP with route := some (1, 2) }; (withP p).packetAt p.id = some p ∧ p.route ≠ none ∧ p.failed = none) ∧
    (dev.packets = [] ∧ dev.aborts.length < 256 ∧ 9 ∉ dev.aborts) ∧
    ((withP stepP).packetAt stepP.id = some stepP ∧ stepP.kind = 5 ∧ stepP.d 0 8 = 9 ∧ stepP.accepted = true) := by decide +kernel

/-! ### Witnesses: channel engines -/

/-- One submission at engine 0 that stands at the command `c`. -/
def submission (c : BitVec 128) : Submission :=
  { id := 1, ctx := 0, src := 0x20000, cmds := [(0, c)], upto := 1, first := 0, idx := 0, pid := none, team := some 16, batch := 0,
    grid := 0, crew := 0, teamIdx := 0, taken := true, begun := true }
/-- Virtual 0x10000 lies at physical 0x2010000, in the stack of engine 0: four tables, one in each of 0, 0x1000, 0x2000 and 0x3000, and a leaf. -/
def pagedDev : State :=
  { dev with dram := [(0, 1), (1, 0x10), (0x1000, 1), (0x1001, 0x20), (0x2000, 1), (0x2001, 0x30), (0x3000, 1), (0x3001, 0x40), (0x4000, 0x47), (0x4003, 2)] }
def engineDev (f : ChanEngine → ChanEngine) : State := pagedDev.mapEngine 0 f
def atCommand (c : BitVec 128) : State := engineDev fun x => { x with exposed := false, subs := [submission c] }
theorem witness_commands_stood (c : BitVec 128) (h : commandBad c = false) : AtCommand (atCommand c) 0 (submission c) c :=
  ⟨⟨rfl, rfl, rfl, rfl, rfl, rfl, rfl, rfl, rfl, rfl, rfl⟩, rfl, h⟩
theorem witness_commands_good : commandBad 0 = false ∧ commandBad 1 = false ∧ commandBad 2 = false ∧ commandBad 0x203 = false ∧
    commandBad 0x204 = false ∧ commandBad 0x305 = false ∧ commandBad 6 = false := by decide +kernel
theorem witness_rows_reached : ∀ wr ∈ [false, true], RowAt (atCommand 3) 0 0 wr 0x10000 0x2010000 := by
  intro wr h
  simp only [List.mem_cons, List.not_mem_nil, or_false] at h
  rcases h with rfl | rfl <;> exact ⟨by rfl, by unfold Reached; decide +kernel⟩
/-- A row of another channel and stack positions: one that straddles two DRAM rows of the stack, and one outside the stack. -/
def netDev (c : BitVec 128) (net : Bool) (g : Nat → List Submission) : State :=
  { atCommand c with chans := [(0, { exposed := false, subs := [submission c], netting := net }), (1, { exposed := false, subs := g 1 })] }
theorem witness_rows_not_direct : ∀ wr ∈ [false, true], ∃ ps, (netDev 3 true fun _ => []).rowPlaces 0 wr (linePieces 0x10200 1024) = .ok ps ∧
    isDirect 0 1024 ps = false ∧ rowInStack 0 ps = true ∧ rowChannels 0 ps = [1] ∧
    (netDev 3 true fun _ => [submission 2]).channelBusy 1 = true ∧ (netDev 3 true fun _ => []).channelBusy 1 = false ∧
    (∀ p ∈ ps, (netDev 3 true fun _ => []).rowHeld (.engine 0) true p.2.2 = false) ∧ isDirect 64 1024 ps = false ∧ rowInStack 64 ps = false := by
  intro wr h
  simp only [List.mem_cons, List.not_mem_nil, or_false] at h
  rcases h with rfl | rfl <;> exact ⟨_, by rfl, by decide +kernel⟩
theorem witness_rows_missed : ((atCommand 5).rowPlaces 0 true (linePieces 0x4000000 1024)) = .error ⟨0x0B, 2, 0, 0x4000000⟩ ∧
    (atCommand 5).hostMode 0 = false ∧ ((atCommand 5).engineAt 0).poison.getLsbD 3 = false := by
  refine ⟨by rfl, by decide +kernel, by decide +kernel⟩
def blockW : BitVec 512 :=
  BitVec.ofNat 512 (0x10000 + 0x11000 * 2 ^ 64 + 0x12000 * 2 ^ 128 + 0x13000 * 2 ^ 192 + 64 * (1 + 2 ^ 32) * 2 ^ (4 * 64) +
    (64 + 4 * 2 ^ 32) * 2 ^ 192 * 2 ^ 128 + 0x4000400040004 * 2 ^ 192 * 2 ^ 192 + (7 + 32 * 2 ^ 16) * 2 ^ 224 * 2 ^ 224)
def blockReq : HomeReq := engineReq 0 0 0x14000 64 1 1
theorem witness_blocks_bound : canonical 0x14000 = true ∧ ((atCommand 1).engineAt 0).answers = [] ∧ blockReq.accs = [⟨0, blockReq.va, 1, 1⟩] ∧
    (submission 1).id = 1 ∧
    (let s := engineDev fun x => { x with exposed := false, subs := [submission 1], answers := [(blockReq, some 99, none)] }
     (s.engineAt 0).answers = [(blockReq, some 99, none)] ∧ (s.engineAt 0).subs = [submission 1]) ∧
    (let s := engineDev fun x => { x with exposed := false, subs := [submission 1], answers := [(blockReq, none, some ⟨0x0B, 2, 2, 5⟩)] }
     (s.engineAt 0).answers = [(blockReq, none, some ⟨0x0B, 2, 2, 5⟩)]) := by decide +kernel
theorem witness_blocks_checked : blockOk blockW = true ∧ blockCount blockW 0 = 4 ∧ blockOk 0 = false ∧ ((atCommand 2).engineAt 0).bound = none := by
  decide +kernel
def boundAt (n : Nat) : State := engineDev fun x => { x with exposed := false, subs := [submission 2], bound := some blockW, step := n }
theorem witness_runs_stood (n : Nat) : AtCommand (boundAt n) 0 (submission 2) 2 ∧ ((boundAt n).engineAt 0).bound = some blockW ∧
    ((boundAt n).engineAt 0).step = n := ⟨⟨⟨rfl, rfl, rfl, rfl, rfl, rfl, rfl, rfl, rfl, rfl, rfl⟩, rfl, by decide +kernel⟩, rfl, rfl⟩
/-- A step of the run that has left its channel, at each of its streams and at its output. -/
def runAt (phase : Nat) : State := engineDev fun x =>
  { x with exposed := false, subs := [submission 2], bound := some blockW, step := 1, netting := true, phase := phase }
theorem witness_runs_at (n : Nat) : AtCommand (runAt n) 0 (submission 2) 2 ∧ ((runAt n).engineAt 0).bound = some blockW ∧
    ((runAt n).engineAt 0).step = 1 ∧ ((runAt n).engineAt 0).phase = n :=
  ⟨⟨⟨rfl, rfl, rfl, rfl, rfl, rfl, rfl, rfl, rfl, rfl, rfl⟩, rfl, by decide +kernel⟩, rfl, rfl, rfl⟩
theorem witness_runs_read : ∀ i ∈ [0, 1, 2], streamBytes blockW i ≠ 0 ∧
    ∃ ps, (runAt i).rowPlaces 0 false (linePieces (streamRow blockW i 1) (streamBytes blockW i)) = .ok ps ∧
      Reached (runAt i) 0 (streamBytes blockW i) ps := by
  intro i h
  simp only [List.mem_cons, List.not_mem_nil, or_false] at h
  rcases h with rfl | rfl | rfl <;> exact ⟨by decide +kernel, _, by rfl, by unfold Reached; decide +kernel⟩
theorem witness_runs_write : ∃ o, (runAt 3).rowPlaces 0 true (linePieces (streamRow blockW 3 1) 4) = .ok [(0x13004, 4, o)] ∧
    Reached (runAt 3) 0 4 [(0x13004, 4, o)] := ⟨_, by rfl, by unfold Reached; decide +kernel⟩
theorem witness_memory_ready : pagedDev.l2 = [] ∧ pagedDev.poison = [] ∧ pagedDev.hostLines = [] ∧ pagedDev.waiters = [] ∧ pagedDev.frees = [] := by
  decide +kernel
/-- A submission read in device memory, and one of a team's word; a fence with a write still on its way. -/
theorem witness_submissions : (let b := { submission 2 with pid := some 7, taken := false }
      let s := engineDev fun x => { x with queue := [b] };
      (s.engineAt 0).answers = [] ∧ (s.engineAt 0).rowReads = 0 ∧ (s.engineAt 0).queue = [b] ∧ (s.engineAt 0).subs.length < 8 ∧ canonical (b.src + 16 * b.upto) = true ∧
      b.src + 16 * b.upto < 2 ^ 64) ∧
    (let s := engineDev fun x => { x with queue := [submission 2] };
      (s.engineAt 0).answers = [] ∧ (s.engineAt 0).queue = [submission 2] ∧ (submission 2).pid = none ∧ (submission 2).team = some 16) ∧
    ((submission 6).outs = 0 ∧ ({ submission 6 with outs := 2 } : Submission).outs ≠ 0) ∧
    ((submission 0).outs = 0 ∧ SMap.look (atCommand 0).teams 16 = some (atCommand 0).me) := by decide +kernel
theorem witness_submission_fails : (let p := under [(8, 6), (0x38, 2)]
      (withP p).packetAt p.id = some p ∧ p.failed = none ∧ ({ submission 2 with pid := some p.id, failed := some ⟨8, 0, 4, 0⟩ } : Submission).pid = some p.id) ∧
    (∀ f ∈ [true, false], let s := engineDev fun x => { x with window := f, suspended := !f, exposed := false, subs := [submission 2] };
      (s.engineAt 0).window = f ∧ (s.engineAt 0).suspended = !f) ∧
    (atCommand 2).channelWanted 0 = false∧
    (∀ f ∈ [true, false], let s := engineDev fun x => { x with window := f, suspended := !f, waits := [reqW (.load 4)] };
     s.channelWanted 0 = true ∧ (s.engineAt 0).window = f ∧ (s.engineAt 0).suspended = !f) := by decide +kernel

/-! ### Witnesses: counters, privileged registers, SYSCALL and SPAWN -/

/-- The team's index or target in s4, the code in s5, the value in s6; in a context of its choice. -/
def sysDev (v : Word) (ctx : Nat := 0) (code : Word := 3) : State :=
  { dev (fun t => { t with sregs := [(4, v), (5, code), (6, 5)] }) with crews := [(1, { crew0 with ctx := ctx })] }
theorem witness_counter_words : (rdl (sysDev 0x117F03) (.s 4) 0).toNat = 0x117F03 ∧ (sysDev 0x117F03).myCtx < 4 ∧ 4 ≤ (sysDev 7 9).myCtx ∧
    Issues (.ctr (.s 8) (.s 4)) (sysDev 0x117F03) ∧ (rdl (sysDev 0x117F03) (.s 5) 0).toNat = 3 ∧
    Issues (.evsel (.s 4) (.s 5)) (sysDev 0x117F03) := by unfold Issues; decide +kernel
/-- The last counter of each class, and one past each bound of class 0. -/
theorem witness_counters : namesCounter 0xFF07 ∧ namesCounter 0x117F03 ∧ namesCounter 0x201B03 := by unfold namesCounter; decide +kernel
theorem witness_more_counters : namesCounter 0x317F01 ∧ namesCounter 0x40030A ∧ idxClass 0xFF07 ≠ 4 ∧ idxClass 0x40030A = 4 := by
  unfold namesCounter; decide +kernel
theorem witness_no_counters : ¬ namesCounter 8 ∧ ¬ namesCounter 0x10000 ∧ ¬ namesCounter 0x500000 := by unfold namesCounter; decide +kernel
theorem witness_counters_readable : mayRead (sysDev 7) 7 ∧ mayRead (sysDev 8) 8 := by unfold mayRead; decide +kernel
theorem witness_counters_of_others : mayRead (sysDev 7 9) 7 ∧ ¬ mayRead (sysDev 0x100000 9) 0x100000 := by unfold mayRead; decide +kernel
theorem witness_syscall : (let s := dev fun t => { t with trap := { t.trap with tvbase := 0x1003 } }
    Issues (.syscall (.s 4)) s ∧ SMap.look s.teams s.cur = some s.me ∧ s.me.trap.tvbase.getLsbD 0 = true ∧
    s.me.trap.inHandler = false ∧ s.myCrew.handler = none ∧ (SMap.look s.crews s.me.crew).isSome = true) := by
  unfold Issues; decide +kernel
/-- A register read, a register written, an entry of the routing table read and written; and the targets that trap. -/
theorem witness_privileged : ((sysDev 0x18).myCtx < 4 ∧ 4 ≤ (sysDev 0x18 9).myCtx ∧ ((sysDev 0x18).me.rd64 (.s 6) 0).toNat < 2 ^ 32) ∧
    (∀ s ∈ [sysDev 0x20000018, sysDev 0x18, sysDev 0x60070003, sysDev 0x40070003], Issues (.privw (.s 8) (.s 4) (.s 6)) s) := by
  unfold Issues; decide +kernel
/-- A counter of CLAIM stalls; LAPS of partition 3. -/
theorem witness_time_counters : countsTime ({ dev with mgmt := [(0x180038, 8)] } : State) 0x100038 ∧ countsTime dev 0x1401B0 :=
  ⟨.inl ⟨0, by decide, 7, by decide, rfl, .inr rfl⟩, .inr (.inr (.inr ⟨3, by decide, rfl⟩))⟩
/-- Reads of a slice and a read of a controller, which the device's own agents make too. -/
theorem witness_agent_counters : countsTime ({ dev with mgmt := [(0x190000, 1)] } : State) 0x110000 ∧
    countsTime ({ dev with mgmt := [(0x1A0000, 3)] } : State) 0x120000 :=
  ⟨.inr (.inl ⟨0, by decide, 0, by decide, rfl, .inl rfl⟩), .inr (.inr (.inl ⟨0, by decide, 0, by decide, rfl, .inr (.inl rfl)⟩))⟩
theorem witness_plain_registers : ¬ countsTime dev 0x11BF98 ∧ (∀ s, ¬ countsTime s 0x18) ∧ ¬ countsTime dev 0x110000 ∧ idxOff 0x117F03 = 0x11BF98 := by
  have h1 : (dev.reg (0x11BF98 + 0x80000)).toNat % 256 = 0 := by decide +kernel
  have h2 : (dev.reg (0x110000 + 0x80000)).toNat % 256 = 0 := by decide +kernel
  refine ⟨?_, ?_, ?_, by decide⟩
  · rintro (⟨u, hu, c, hc, h, -⟩ | ⟨u, hu, c, hc, -, h⟩ | ⟨u, hu, c, hc, h, -⟩ | ⟨p, hp, h⟩)
    · omega
    · rw [h1] at h; omega
    · omega
    · omega
  · rintro s (⟨u, hu, c, hc, h, -⟩ | ⟨u, hu, c, hc, h, -⟩ | ⟨u, hu, c, hc, h, -⟩ | ⟨p, hp, h⟩) <;> omega
  · rintro (⟨u, hu, c, hc, h, -⟩ | ⟨u, hu, c, hc, -, h⟩ | ⟨u, hu, c, hc, h, -⟩ | ⟨p, hp, h⟩)
    · omega
    · rw [h2] at h; omega
    · omega
    · omega
theorem witness_targets : (∀ v ∈ [0x20000018, 0x18, 0x60070003, 0x40070003],
      ¬ (1 < v / 2 ^ 30 ∨ v / 2 ^ 22 % 128 ≠ 0 ∨ (v / 2 ^ 30 = 0 ∧ v % 8 ≠ 0) ∨ (v / 2 ^ 30 = 1 ∧ v / 2 ^ 19 % 8 ≠ 0))) ∧
    (0x18 : Nat).testBit 29 = false ∧ (0x20000018 : Nat).testBit 29 = true ∧ (0x40070003 : Nat) / 2 ^ 30 = 1 ∧
    (1 < 0x80000000 / 2 ^ 30 ∧ 0x400000 / 2 ^ 22 % 128 ≠ 0 ∧ 0x1C % 8 ≠ 0) := by decide +kernel
theorem witness_spawn : (sysDev 0x40).myGrid.depth < 15 ∧ (∀ l ∈ (sysDev 0x40).me.actLanes (.spawn (.s 4) (.v 2)), rdl (sysDev 0x40) (.s 4) l = 0x40) ∧
    (sysDev 0x40).me.actLanes (.spawn (.s 4) (.v 2)) = [0, 1, 3] ∧ ((sysDev 0x40).clusterAt (clusterOfCore (sysDev 0x40).myCore)).groups = [] ∧
    Issues (.spawn (.s 4) (.v 2)) (sysDev 0x40) ∧ Listed (sysDev 0x40) ∧ (0x40 : Word).toNat % 4 = 0 ∧
    (rdl dev (.v 1) 0).toNat % 4 ≠ 0 ∧
    15 ≤ ({ sysDev 0x40 with grids := [(1, { grid0 with depth := 15 })] } : State).myGrid.depth := by unfold Issues Listed; decide +kernel
/-- No lane is active: nothing is handed over, and no depth is too great. -/
theorem witness_spawn_nothing : ∀ d ∈ [0, 15], let s : State := { (sysDev 0x40).mapTeam 16 (fun t => { t with mask := 0 }) with
      grids := [(1, { grid0 with depth := d })] }
    s.me.actLanes (.spawn (.s 4) (.v 2)) = [] ∧ s.poolTasks 0 ≤ 8192 ∧ -(2 ^ 31) ≤ s.me.mbud ∧ Issues (.spawn (.s 4) (.v 2)) s ∧ Listed s ∧
    s.myGrid.depth = d := by unfold Issues Listed; decide +kernel
/-- A pool that holds 8,190 tasks: three more do not fit. -/
theorem witness_pool_full : 8192 < 8190 + ((sysDev 0x40).me.actLanes (.spawn (.s 4) (.v 2))).length ∧
    (let s := (sysDev 0x40).mapCluster 0 fun x => { x with groups := [⟨1, 0, 0, List.replicate 8190 []⟩] };
     s.poolTasks 0 = 8190 ∧ s.myGrid.depth < 15 ∧ Listed s ∧ Issues (.spawn (.s 4) (.v 2)) s) := by
  unfold Issues Listed; decide +kernel

/-! ### Witnesses: faults, halts, yields, saves -/

def record : TrapRec := { cause := 0xB, sub := 3, prec := false, part := true, info0 := 5, info1 := 6, lanes := 77 }
theorem witness_faults_delivered : (SMap.look dev.crews 1).isSome = true ∧ SMap.sortedFrom 0 dev.teams = true ∧
    (let s := dev fun t => { t with trap := { t.trap with tvbase := 0x801 } };
     Holds s 16 s.me ∧ s.me.crew = 1 ∧ s.me.trap.tvbase.getLsbD 0 = true ∧ s.me.trap.inHandler = false ∧ (s.crewAt 1).handler = none) ∧
    (Holds dev 16 dev.me ∧ dev.me.trap.tvbase.getLsbD 0 = false ∧ dev.me.trap.inHandler = false ∧ (dev.crewAt 1).handler = none) ∧
    (let s := dev.mapCrew 1 fun c => { c with handler := some 17 };
     Holds s 16 s.me ∧ (s.crewAt s.me.crew).handler = some 17) := by unfold Holds; decide +kernel
theorem witness_halts : record.cause < 256 ∧ record.sub < 256 ∧ Holds dev 16 dev.me ∧ dev.me.wait = none ∧ dev.me.stalled = false ∧ dev.me.escals = [] ∧ dev.me.halted = false ∧ dev.me.pending = [] ∧
    (∀ f ∈ [(fun t => { t with stalled := true } : Team → Team), fun t => { t with escals := [8] }], let s := dev f;
     Holds s 16 s.me ∧ s.me.wait = none ∧ (s.me.stalled = true ∨ s.me.escals ≠ [])) ∧
    (let s := dev fun t => { t with wait := some (.lock 8) };
     Holds s 16 s.me ∧ s.me.wait.isSome = true) ∧
    (∀ n ∈ [1, 2], let s := dev fun t => { t with halt := some ⟨n, 2, record⟩ };
      Holds s 16 s.me ∧ s.me.halt = some ⟨n, 2, record⟩ ∧ s.me.wait = none ∧ s.me.pending = []) := by unfold Holds; decide +kernel
theorem witness_yields : (Holds dev 16 dev.me ∧ dev.me.gang = 0 ∧ dev.me.evict = false ∧ dev.me.halted = false ∧ dev.me.mustYield = false) ∧
    (let s := dev fun t => { t with wait := some (.sleep 9) };
     Holds s 16 s.me ∧ s.me.wait = some (.sleep 9)) ∧
    (let g := dev.gridAt (dev.poolGrid 1);
     1 ≤ dev.me.ibud + grantOf 50 dev.me.ibud g.ipool ∧ ¬ 1 ≤ (-3 : Int) + grantOf 50 (-3) 0) := by unfold Holds; decide +kernel

/-- A team on its way out of a context whose spill region has 2^24 bytes, or none. -/
def savingDev (spill : Byte) (f : Team → Team := id) : State :=
  { dev (fun t => f { t with place := .saving, evict := true }) with dram := if spill = 0 then [] else [(0x1B, spill)] }
theorem witness_saves : (Holds (savingDev 1) 16 (savingDev 1).me ∧ (savingDev 1).me.crew = 1 ∧
      (SMap.look (savingDev 1).crews 1).isSome = true ∧ (savingDev 1).me.imaged = false ∧
      (savingDev 1).spillHeld 0 + (savingDev 1).me.imageBytes ≤ (savingDev 1).ctxField 0 0x18 8 ∧
      (16 : Nat) / 16 = (savingDev 1).me.crew ∧ SMap.sortedFrom 0 (savingDev 1).teams = true ∧ (savingDev 1).pinDrops = [] ∧
      ((savingDev 1).crewOf (savingDev 1).me).taking = false ∧ ((savingDev 1).crewOf (savingDev 1).me).ctx = 0 ∧
      (savingDev 1).me.place = .saving ∧ (savingDev 1).me.pins = []) ∧
    (¬ (savingDev 0).spillHeld 0 + (savingDev 0).me.imageBytes ≤ (savingDev 0).ctxField 0 0x18 8 ∧ (savingDev 0).isFenced 0 = false ∧ (savingDev 0).me.gang = 0 ∧
      (savingDev 0).heq.length < 256) ∧ dev.me.place ≠ .saving ∧ dev.me.place = .resident := by unfold Holds; decide +kernel
/-- Name 3 is pinned by a team whose image is written; the first `n` places of its bucket hold other valid entries. -/
def bucketDev (n : Nat) : State :=
  let s := (savingDev 1 fun t => { t with pins := [(2, ⟨true, 3⟩)], wait := some (.pinBucket 3) }).setReg 0x400 0x100000
  let cells : Mem := [(0, 1), (1, 0x10), (0x1B, 1), (0x1000, 1), (0x1001, 0x20), (0x2000, 1), (0x2001, 0x30), (0x3000, 1),
    (0x3001, 0x40), (0x4000, 0x47), (0x4003, 2)]
  { s with dram := List.append cells ((List.range n).map fun i => (0x2100000 + 128 * 3 + 16 * i + 15, 0x80)) }
theorem witness_pin_buckets : ∀ n ∈ [3, 8], let s := bucketDev n
    s.me.pins = [(2, ⟨true, 3⟩)] ∧ pinBucket 3 = 3 ∧ s.hostMode 3 = false ∧ s.me.imaged = true ∧ s.me.place = .saving ∧
    pinEntry 3 0 1 false 2 ∉ s.me.entries ∧ s.spillHeld 0 + 0 ≤ s.ctxField 0 0x18 8 ∧
    (∀ j ∈ List.range 8, entryValid (s.pptRead 3 j) = decide (j < n)) := by decide +kernel
/-- A resident team's pin is set again, and its entry, the fourth of its bucket, waits for no search. -/
def dropDev : State :=
  { (bucketDev 3).mapTeam 16 (fun t => { t with place := .resident }) with
    dram := (bucketDev 3).dram.dropLast ++ [(0x210019F, 0x80), (0x21001B0, 3), (0x21001B8, 1), (0x21001BC, 2), (0x21001BF, 0x80)],
    pinDrops := [⟨pinEntry 3 0 1 false 2, []⟩] }
theorem witness_pin_dropped : pinBucket (entryName (pinEntry 3 0 1 false 2)) = 3 ∧ dropDev.me.place ≠ .saving ∧
    dropDev.pptRead 3 3 = pinEntry 3 0 1 false 2 ∧ ∀ j ∈ List.range 3, dropDev.pptRead 3 j ≠ pinEntry 3 0 1 false 2 := by decide +kernel
def savedDev (budget : Int) : State :=
  (dev fun t => { t with place := .saved, ibud := budget }).mapTeam 17 fun t => { t with place := .saved, crew := 9 }
theorem witness_restores : Holds (savedDev 1) 16 (savedDev 1).me ∧ (savedDev 1).me.crew = 1 ∧ (savedDev 1).savedOf 1 = [16] ∧ (savedDev 1).me.pins = [] ∧
    (savedDev 1).me.gang = 0 ∧ ((savedDev 1).slotTeams 1).length < 128 ∧ SMap.sortedFrom 0 (savedDev 1).teams = true ∧
    (savedDev 1).restoreFits 1 0 = true ∧ dev.restoreFits 1 0 = false := by unfold Holds; decide +kernel

/-! ### Witnesses: launching, graphs, placement, searches and queues -/

def okE {α : Type} : Except Nat α → Bool | .ok _ => true | .error _ => false
def okB {α : Type} : Except BadAccess α → Bool | .ok _ => true | .error _ => false
/-- A record of 3 crews of 4 teams (R37), or of none, for node 1 of the graph at 0x9000. -/
def recordBits (crews : Nat) : Nat :=
  0x10000000 + 2 ^ 64 * 0x40 + 2 ^ 96 * crews + 2 ^ 128 * 40 + 2 ^ 144 * 2 + 2 ^ 152 * 16 + 2 ^ 160 * 256 + 2 ^ 192 * 4 + 2 ^ 208 * 5 + 2 ^ 224 * 0x11 +
  2 ^ 288 * 50 + 2 ^ 320 * 40 + 2 ^ 352 * 100 + 2 ^ 384 * 100 + 2 ^ 448 * 1000 + 2 ^ 512 * 2000 + 2 ^ 576 * 0x9000 + 2 ^ 640 * 1
/-- The home slices hold the given lines. -/
def linesDev (lines : List (Nat × Nat)) : State :=
  { dev with l2 := lines.map fun p => (lineId 0 p.1, { lineW with data := BitVec.ofNat 1024 p.2 }) }
def launchReq (addr : Nat) : LaunchReq := { team := 16, out := 1, grid := 1, ctx := 0, addr := addr, args := some 5 }
def awaiting (s : State) (i : Instr) : State := s.mapTeam 16 fun t => { t with outs := [outW i .launch 1 []] }
def launchDev (crews : Nat) : State :=
  { awaiting (linesDev [(0x8000, recordBits crews)]) (.launch (.s 6) (.s 4) (.s 8)) with launches := [(0, launchReq 0x8000)] }
theorem witness_records_awaited : AwaitsOne (launchDev 3) 16 1 (.s 6) (launchDev 3).me ∧ (launchDev 3).launches = [(0, launchReq 0x8000)] ∧
    SMap.look (launchDev 3).grids 1 = some grid0 ∧ grid0.killed = false ∧ (launchDev 3).heq = [] := by
  refine ⟨⟨by unfold Holds; decide +kernel, _, .s 4, .s 8, by rfl, by decide, by decide, by decide, by decide, .inl rfl⟩, by decide +kernel, by decide +kernel,
    by decide, by decide +kernel⟩
theorem witness_records_read : okE ((launchDev 3).readRecord 0 0x8000) = true ∧ okE ((launchDev 0).readRecord 0 0x8000) = false := by decide +kernel

/-- Launch queue 0 of partition 0 at 0x10000, 16 slots at 0x20000, RIDX 18 and WIDX 19; its head holds `pkt`; the graph at 0x9000
has FLAGS `flags` and two nodes. -/
def queueDev (pkt : Nat) (flags : Nat := 0) : State :=
  let s := linesDev [(0x8000, recordBits 3), (0x9000, 0x9080 + 2 ^ 64 * flags), (0x9080, 2 + 2 ^ 32 + (0x8000 + 2 ^ 80) * 2 ^ 512 + (0x8000 + 2 ^ 64) * 2 ^ 768),
    (0x9100, 1), (0x10000, 0x20000 + 2 ^ 64 * 4 + 2 ^ 128 * 18), (0x10080, 19), (0x20080, pkt)]
  (s.setReg 0x10000 0x10000).setReg 0x10008 0x8000000000000000
def packetBits (kind ovr target : Nat) : Nat := 19 + 2 ^ 64 * target + 2 ^ 128 * kind + 2 ^ 136 * ovr + 2 ^ 192 * 7 + 2 ^ 256 * 0x30000 + 2 ^ 320 * 9
def queueD : QueueDesc := ⟨0x20000, 16, 0, 18, 19⟩
theorem witness_heads : (queueDev 0).queuesOf 0 = [0] ∧ (queueDev 0).partOfCtx 0 = 0 ∧
    (queueDev 0).launches = [] ∧ (queueDev 0).heq = [] ∧ (queueDev 0).singles = [] ∧
    ((queueDev 0).reg 0x100).getLsbD 7 = false ∧ (queueDev 0).wftCount ((queueDev 0).launchDie 0) < 4096 := by decide +kernel
theorem witness_head_ready : (queueDev (packetBits 0 3 0x8000)).queueHead 0 0 = .ready 0 0x10000 queueD (packetBits 0 3 0x8000) := by decide +kernel
/-- A wait-for table in which one team holds every entry. -/
def fullTableDev : State := (queueDev (packetBits 1 0 0x9000) 1).mapTeam 16 fun t => { t with holdings := List.replicate 4096 ⟨0x888, true, false, true⟩ }
theorem witness_table_full : fullTableDev.wftRoom (fullTableDev.launchDie 0) = false ∧ fullTableDev.heq = [] ∧ fullTableDev.launches = [] ∧
    fullTableDev.queuesOf 0 = [0] ∧ fullTableDev.queueHead 0 0 = .ready 0 0x10000 queueD (packetBits 1 0 0x9000) ∧
    fullTableDev.partOfCtx 0 = 0 := by decide +kernel
theorem witness_head_bad : dev.queueHead 0 0 = .idle ∧ ((dev.setReg 0x10000 0x10000).setReg 0x10008 0x8000000000000000).queueHead 0 0 = .bad 0 0x10000 (2 ^ 64 - 1) := by
  decide +kernel
theorem witness_graph_read : okE ((queueDev 0).readVersion 0 0x9000) = true ∧ okB ((queueDev 0 1).agentNat 0 0x9000 128) = true ∧
    okB ((queueDev 0).agentNat 0 0xA000 128) = false ∧ okE ((queueDev 0).readVersion 0 0xA000) = false := by decide +kernel
theorem witness_packet_kinds : (let p := packetBits 0 3 0x8000; p / 2 ^ 128 % 256 = 0 ∧ p / 2 ^ 136 % 256 = 3 ∧ p / 2 ^ 64 % 2 ^ 64 = 0x8000 ∧
      p / 2 ^ 144 % 2 ^ 48 = 0 ∧ p / 2 ^ 384 % 2 ^ 128 = 0 ∧ p / 2 ^ 256 % 2 ^ 64 % 8 = 0) ∧
    (1 < packetBits 2 0 0 / 2 ^ 128 % 256 ∧ 3 < packetBits 0 4 0 / 2 ^ 136 % 256) ∧
    (packetBits 1 0 0x9000 / 2 ^ 64 % 2 ^ 64 % 128 = 0 ∧ packetBits 1 0 0x9040 / 2 ^ 64 % 2 ^ 64 % 128 ≠ 0) ∧
    (0x9080 + 2 ^ 64 + 2 ^ 128 : Nat).testBit 64 = true ∧ (0x9080 + 2 ^ 64 + 2 ^ 128) / 2 ^ 128 % 2 ^ 64 ≠ 0 := by decide +kernel
theorem witness_other_partition : (({ queueDev (packetBits 0 0 0x8000) with dram := [(8, 1)] } : State).partOfCtx 0) ≠ 0 := by decide +kernel
/-- Slots of a ready queue can be written. -/
theorem witness_slots_written : okB ((queueDev 0).agentWrite 0 0x20080 (leBytes 8 0)) = true ∧
    okB ((queueDev 0).agentWrite 0 0x10080 (leBytes 8 20)) = true ∧ queueD.base + 64 * (queueD.ridx % queueD.size) = 0x20080 := by decide +kernel

def nodeW (record : Nat) (succs : List Nat) (started retired : Bool) : NodeState := ⟨record, 0, succs, started, retired, retired⟩
/-- An instance whose node 0 is over, and whose node 1 may start with the record at `record`. -/
def instW (record : Nat) (n0 n1 : Bool) : Instance :=
  { handle := 9, ctx := 0, part := 0, graph := 0x9000, block := 0x9080, args := none, doneAddr := 0, doneVal := 0x55, stream := 4,
    nodes := [nodeW 0x8000 [1] true n0, nodeW record [] n1 n1], refused := false, killed := false }
def instDev (x : Instance) : State := { queueDev 0 with insts := [(9, x)], singles := [⟨1, 5, 0, 0x9000, 3, true, false⟩] }
theorem witness_nodes : (let x := instW 0x8000 true false;
      SMap.look (instDev x).insts 9 = some x ∧ x.nodes[1]? = some (nodeW 0x8000 [] false false) ∧ x.killed = false ∧ x.refused = false ∧
      (∀ m ∈ x.nodes, ¬ (1 ∈ m.succs ∧ m.released = false ∧ m.retired = false)) ∧ (instDev x).heq = []) ∧
    okE ((instDev (instW 0x8000 true false)).readRecord 0 0x8000) = true ∧
    ((launchDev 3).readRecord 0 0x8000).toOption.map (fun r => (r.graph, r.node)) = some (0x9000, 1) ∧
    okE ((instDev (instW 0xA000 true false)).readRecord 0 0xA000) = false := by decide +kernel
theorem witness_nodes_wait : (∃ m ∈ (instW 0x8000 false false).nodes, 1 ∈ m.succs ∧ m.released = false ∧ m.retired = false) ∧
    (∃ m ∈ (instW 0x8000 true false).nodes, m.retired = false) ∧ (∀ m ∈ (instW 0x8000 true true).nodes, m.retired = true) ∧
    (⟨1, 5, 0, 0x9000, 3, true, false⟩ : SingleWait) ∈ (instDev (instW 0x8000 true true)).singles ∧
    okB ((instDev { instW 0x8000 true true with doneAddr := 0x20088 }).agentWrite 0 0x20088 (leBytes 8 0x55)) = true := by decide +kernel
/-- Grid 2 has had its one crew exit; grid 1 is its parent. -/
def ripeGrid (parent : Option Nat) (inst : Option (Nat × Nat)) (done : Nat) : Grid :=
  { launch := { crews := 1, doneAddr := done }, crewsExited := 1, ipool := 5, parent := parent, inst := inst }
def ripeDev (g : Grid) : State :=
  { instDev (instW 0x8000 false false) with grids := [(1, grid0), (2, g)], crews := [(1, crew0), (7, { grid := 2, exited := true })] }
theorem witness_grids_ripe : ∀ g ∈ [ripeGrid none none 0, ripeGrid (some 1) none 0, ripeGrid none (some (9, 0)) 0, ripeGrid none none 0x20088],
    let s := ripeDev g
    SMap.look s.grids 2 = some g ∧ g.crewsExited = g.launch.crews ∧ g.killed = false ∧ g.hidden = false ∧ s.offspring 2 = false ∧
    (∀ p ∈ s.grids, p.2.parent ≠ some 2) ∧ SMap.look s.grids 1 = some grid0 ∧ grid0.hidden = false ∧ (s.dropGrid 2).parkedOn 1 = [] ∧
    SMap.look s.insts 9 = some (instW 0x8000 false false) ∧ s.accessesOpen 2 = false := by decide +kernel
theorem witness_grid_access_open : (let s : State := { ripeDev (ripeGrid none none 0) with agenda := [⟨.free, 0, .homeWrite { reqW (.store 4) with who := .team 112 1 }⟩] };
    s.accessesOpen 2 = true ∧ SMap.look s.grids 2 = some (ripeGrid none none 0) ∧ s.offspring 2 = false ∧ (∀ p ∈ s.grids, p.2.parent ≠ some 2)) := by
  decide +kernel
theorem witness_grid_unripe : SMap.look dev.grids 1 = some grid0 ∧ grid0.crewsExited ≠ grid0.launch.crews ∧
    okB ((ripeDev (ripeGrid none none 0x20088)).agentWrite 0 0x20088 (leBytes 8 0)) = true := by decide +kernel

/-- A block of grid 1 waits at cluster 0; its record asks for `lanes` lanes. -/
def placeDev (lanes pool : Nat) (block : Ccb := ⟨1, 1, [], 3⟩) : State :=
  { dev.mapCluster 0 (fun c => { c with ccbs := [block] }) with
    grids := [(1, { grid0 with ipool := pool, launch := { grid0.launch with lanes := lanes, ibudInit := 100, mbudInit := 90 } })], nextId := 50 }
theorem witness_crews_placed : (placeDev 4 300).coresOf 0 ≠ [] ∧ (placeDev 4 300).returning 0 = [] ∧ (dev.clusterAt 0).ccbs = [] ∧
    ((placeDev 4 300).clusterAt 0).ccbs.head? = some ⟨1, 1, [], 3⟩ ∧ ((placeDev 4 300).gridAt 1).part = (placeDev 4 300).partOfCluster 0 ∧ (placeDev 4 300).pickCore ((placeDev 4 300).gridAt 1).launch 0 = some 1 ∧
    1 ≤ ((placeDev 4 300).gridAt 1).launch.crewTeams ∧ ((placeDev 4 300).gridAt 1).launch.crewTeams ≤ 16 ∧
    (placeDev 4 300).teams.all (fun p => decide (p.1 < 16 * 50)) = true ∧ (placeDev 4 300).poolGrid 1 = 1 ∧
    100 * 2 ≤ ((placeDev 4 300).gridAt 1).ipool ∧ ((placeDev 4 99).gridAt 1).ipool < 100 := by decide +kernel
/-- Only core 0 is left unfenced, and a team of 1000 lanes fills it. -/
def fullDev (saving : Bool) : State :=
  ((placeDev 400 300).setReg 0x17000 0xE).mapTeam 16 fun t => { t with lanes := 1000, evict := saving }
theorem witness_crews_not_placed : (fullDev false).pickCore ((fullDev false).gridAt 1).launch 0 = none ∧ (fullDev false).evicting 0 = false ∧
    (fullDev true).pickCore ((fullDev true).gridAt 1).launch 0 = none ∧ (fullDev true).evicting 0 = true ∧ (fullDev false).coresOf 0 ≠ [] ∧
    (fullDev false).returning 0 = [] ∧ ((fullDev false).gridAt 1).part = (fullDev false).partOfCluster 0 ∧ ((fullDev true).gridAt 1).part = 0 ∧
    (∀ p ∈ (fullDev false).teams, p.2.place ≠ .saved) := by decide +kernel
theorem witness_crew_returns : (let s := dev.mapTeam 16 fun t => { t with place := .saved };
    s.coresOf 0 ≠ [] ∧ (s.clusterAt 0).ccbs = [] ∧ s.returning 0 = [1] ∧ s.restoreCore 1 0 = some 0) := by decide +kernel
def groupW : TaskGroup := { grid := 1, entry := 0x44, since := 10, tasks := [[1, 2], [3, 4]] }
theorem witness_groups : ∀ n ∈ [2057, 2058], let s : State := { dev.mapCluster 2 (fun c => { c with groups := [groupW] }) with clk := n }
    (s.clusterAt 2).groups = [groupW] ∧ (s.clusterAt 2).ccbs = [] ∧ s.clk = n := by decide +kernel
/-- Cluster 5 holds five blocks; cluster 1 holds none. -/
def donorDev (f : Cluster → Cluster := id) : State :=
  (dev.mapCluster 5 fun c => { c with ccbs := (List.range 5).map fun i => ⟨1, i, [], i⟩, groups := [groupW] }).mapCluster 1 f
theorem witness_donations : ((donorDev).clusterAt 1).stealing = false ∧ (donorDev).canPlace 1 = false ∧ (donorDev).coresOf 1 ≠ [] ∧
    ((donorDev).clusterAt 1).ccbs = [] ∧ ((donorDev).clusterAt 1).groups = [] ∧ ((donorDev).clusterAt 1).stealTasks = false ∧
    (∃ v ∈ [5], v ≠ 1 ∧ v < 64 ∧ (donorDev).partOfCluster v = (donorDev).partOfCluster 1 ∧ (donorDev).coresOf v ≠ [] ∧ 4 < ((donorDev).clusterAt v).ccbs.length) ∧
    ((donorDev fun c => { c with stealing := true }).clusterAt 1).stealing = true ∧
    ((donorDev fun c => { c with stealTasks := true }).clusterAt 1).stealTasks = true ∧ ((donorDev).clusterAt 5).groups = [groupW] ∧ (donorDev).nextDealt ((donorDev).partOfCluster 5) = none ∧
    ((donorDev).gridAt 1).part = (donorDev).partOfCluster 1 ∧
    (placeDev 4 300).canPlace 0 = true := by decide +kernel

def searchDev (i : Instr) (x : Search) (cap : Nat) : State :=
  { awaiting (linesDev [(0x38000, 0)]) i with searches := [x], dram := [(0x21, 0x80), (0x22, 3), (0x28, BitVec.ofNat 8 cap)] }
def search (kind : SearchKind) (held : List (Nat × Nat)) : Search := ⟨3, 0x1234, 0, 0, kind, held, false⟩
theorem witness_searches_awaited : AwaitsOne (searchDev (.pinq (.s 6) (.s 4)) (search (.pinq 16 1) []) 4) 16 1 (.s 6) (searchDev (.pinq (.s 6) (.s 4)) (search (.pinq 16 1) []) 4).me ∧
    AwaitsOne (searchDev (.reclaim (.s 6) (.s 4) (.s 8)) (search (.reclaim 16 1 0x10000) []) 4) 16 1 (.s 6) (searchDev (.reclaim (.s 6) (.s 4) (.s 8)) (search (.reclaim 16 1 0x10000) []) 4).me := by
  refine ⟨⟨by unfold Holds; decide +kernel, _, .s 4, .s 8, by rfl, by decide, by decide, by decide, by decide, .inr (.inl rfl)⟩,
    ⟨by unfold Holds; decide +kernel, _, .s 4, .s 8, by rfl, by decide, by decide, by decide, by decide, .inr (.inr rfl)⟩⟩
theorem witness_searches : (search (.pinq 16 1) [(16, 2)]).held ≠ [] ∧
    (let x := search (.reclaim 16 1 0x10000) [];
     let s := searchDev (.reclaim (.s 6) (.s 4) (.s 8)) x 4;
     s.searches = [x] ∧ x.held = [] ∧ x.seen = false ∧ s.pptHolds x.name = false ∧ s.instancePins x.name = false ∧
     s.ctxField 0 0x20 8 = 0x38000 ∧ s.ctxField 0 0x28 4 = 4 ∧ okB (s.agentNat 0 0x38000 64) = true ∧ okB (s.agentWrite 0 0x38000 (leBytes 64 5)) = true) ∧
    (searchDev (.reclaim (.s 6) (.s 4) (.s 8)) (search (.reclaim 16 1 0x10000) []) 0).ctxField 0 0x28 4 = 0 ∧
    (0 : Nat).testBit 128 = false := by decide +kernel
def freeW : FreeAppend := { id := 4, ctx := 0, queue := 0x10000, name := 0x777, deferred := true, slot := none }
def appendDev (on : Bool) (heq : List (BitVec 512) := []) : State :=
  let s := (queueDev 0).setReg 0x108 (if on then 0x8000000000010000 else 0)
  { s with frees := [freeW], heq := heq }
def isDone : Appended → Bool | .done _ => true | _ => false
def isFull : Appended → Bool | .full _ _ => true | _ => false
theorem witness_appends : isDone ((appendDev true).append 0 0x10000 (some 19) 5) = true ∧ isFull ((appendDev true).append 0 0x10000 (some 34) 5) = true ∧
    isDone ((appendDev true).append 0 0x10000 none 5) = true ∧ (queueDev 0).queueDesc 0 0x10000 = .ok queueD ∧
    okB ((queueDev 0).agentWrite 0 0x200C8 (leBytes 56 5)) = true ∧ okB ((queueDev 0).agentWrite 0 0x200C0 (leBytes 8 20)) = true ∧
    19 < queueD.ridx + queueD.size ∧ queueD.ridx + queueD.size ≤ 34 ∧ queueD.widx < queueD.ridx + queueD.size := by
  decide +kernel
theorem witness_queues_retried : (appendDev true).frees = [freeW] ∧ (appendDev true).heq = [] ∧ (appendDev true [5, 6]).heq = [5, 6] ∧
    (appendDev true [5]).heqSlot = none ∧ ((appendDev true).reg 0x108).getLsbD 63 = true ∧ ((appendDev false).reg 0x108).getLsbD 63 = false ∧
    isDone ((appendDev true [5]).append 0 0x10000 none 5) = true := by decide +kernel
/-- Name 0x1234, deferred in the one entry of context 0; the other entry of the filter stands for another bucket. -/
def deferredDev (flag : Nat) (f : Team → Team := id) : State :=
  let s : State := { dev f with dram := [(0x21, 0x80), (0x22, 3), (0x28, 1)], filter := [(pinBucket 0x1234, 2)] }
  { s with l2 := [(lineId 0 0x38000, { lineW with data := BitVec.ofNat 1024 (0x10000 + 2 ^ 64 * 0x1234 + 2 ^ 128 * flag) })] }
theorem witness_rescans : dev.deferredContexts = [] ∧ (deferredDev 1).deferredContexts = [0] ∧ (deferredDev 1).ctxField 0 0x28 4 = 1 ∧
    (deferredDev 1).ctxField 0 0x20 8 = 0x38000 ∧ okB ((deferredDev 1).agentNat 0 0x38000 64) = true ∧
    (0x10000 + 2 ^ 64 * 0x1234 + 2 ^ 128 : Nat).testBit 128 = true ∧ (0x10000 + 2 ^ 64 * 0x1234 : Nat).testBit 128 = false ∧
    pinBucket 5 ≠ pinBucket 0x1234 ∧ ((deferredDev 1).reg 0x100).getLsbD 7 = false ∧ (deferredDev 1).slotsWith 0x1234 = [] ∧
    (deferredDev 1).pptHolds 0x1234 = false ∧ (deferredDev 1).instancePins 0x1234 = false ∧
    (deferredDev 1 fun t => { t with pins := [(1, ⟨true, 0x1234⟩)] }).slotsWith 0x1234 ≠ [] ∧
    okB ((deferredDev 1).agentWrite 0 0x38010 (leBytes 1 0)) = true := by decide +kernel

/-! ### Witnesses: the host's replies -/

def escW (fn key : Nat) (teams : List Nat) : Escalation :=
  { fn := fn, tag := 8, ctx := 0, page := 0, reqs := [], teams := teams, pkts := [], engines := [], bad := ⟨0xB, 2, 2, 5⟩, key := key }
def escDev (fn : Nat) (key : Nat := 0x123456789AB) (f : Team → Team := id) : State :=
  { dev f with escs := [escW fn key [16]] }
theorem witness_no_escalation : (∀ fn ∈ List.range 7, ∀ e ∈ dev.escs, ¬ (e.fn = fn ∧ e.tag = 8)) ∧
    (∀ e ∈ (escDev 1).escs, ¬ (e.fn = 0 ∧ e.tag = 8)) := by decide +kernel
theorem witness_escalations : (∀ fn ∈ [1, 2, 3, 4, 5, 6], Open (escDev fn) fn 8 (escW fn 0x123456789AB [16])) ∧
    Holds (escDev 3) 16 (escDev 3).me ∧ (escDev 3).me.escals = [] ∧ SMap.sortedFrom 0 (escDev 3).teams = true ∧
    (escDev 3).me.crew = 1 ∧ (SMap.look (escDev 3).crews 1).map Crew.exited = some false ∧
    (∀ j ∈ (escDev 3).teamsOfCrew 1, (SMap.get default (escDev 3).teams j).place = .resident) := by
  unfold Open Holds; decide +kernel
theorem witness_translation_fault : (let q : HomeReq := ⟨.team 16 3, 0, 0, 0x5000, .load 4, [⟨0, 0x5000, 0, 0⟩]⟩;
    let e : Escalation := { escW 0 0 [] with reqs := [(q, ⟨0xB, 2, 2, 0x5000⟩)] };
    let s : State := { dev with escs := [e] };
    Open s 0 8 e ∧ e.engines = [] ∧ q.who = .team 16 3 ∧ Holds s 16 s.me ∧ s.me.escals = [] ∧ s.fills = [] ∧ s.me.place = .resident ∧
    ({ s with fills := [(lineId 0 0x5000, [q])] } : State).fills = [(lineId q.ctx q.va, [q])]) := by unfold Open Holds; decide +kernel
theorem witness_parked : ∀ fn ∈ [1, 2], let s := escDev fn 5 fun t => { t with escals := [8], wait := some (.host fn 8), trap := { t.trap with tvbase := 0x901 } }
    ParkedBy s 16 fn 8 s.me ∧ s.me.trap.tvbase.getLsbD 0 = true ∧ s.me.trap.inHandler = false ∧ (s.crewAt s.me.crew).handler = none := by
  unfold ParkedBy Holds; decide +kernel
def pptDev : State :=
  let s := escDev 3 3 fun t => { t with place := .saving, wait := some (.pinBucket 3), pins := [(2, ⟨true, 3⟩)] }
  { (s.setReg 0x640 0x800000).setReg 0x648 1 with dram := [(0x1B, 1)] }
theorem witness_overflow_entry : Open pptDev 3 8 (escW 3 3 [16]) ∧ Holds pptDev 16 pptDev.me ∧ pinBucket 3 = 3 ∧ pinEntry 3 0 1 false 2 < 2 ^ 128 ∧
    pptDev.pptxCap = 1 ∧ entryValid (pptDev.physNat (pptDev.pptxEntry 0) 16) = false ∧
    pptDev.me.entries = [] ∧ (pptDev.crewAt 1).taking = false ∧ pptDev.me.pins = [(2, ⟨true, 3⟩)] ∧ pptDev.me.escals = [] ∧
    pptDev.me.wait = some (.pinBucket 3) ∧ pptDev.spillHeld 0 ≤ pptDev.ctxField 0 0x18 8 ∧
    pptDev.reg 0x300 = 0 ∧ 2 ^ 22 ≤ pptDev.pptxEntry 0 := by unfold Open Holds; decide +kernel
theorem witness_pools_refilled : (escDev 4 1).poolGrid 1 = 1 ∧ ((escDev 4 1).closeEsc 8).parkedOn 1 = [] ∧
    (SMap.look (escDev 4 1).grids 1).isSome = true ∧ ((escDev 4 1).crewAt (escDev 4 1).me.crew).grid = 1 ∧
    (∀ c ∈ (escDev 4 1).crews, c.1 = 1) ∧ SMap.sortedFrom 0 (escDev 4 1).crews = true := by decide +kernel

/-! ### Witnesses: the host link, the peer ports and memory errors -/

def goesOn : Host.Outcome State Fault Refusal → Bool | .next _ => true | _ => false
theorem next_of_goesOn (o) (h : goesOn o = true) : ∃ t, o = .next t := by cases o <;> simp_all [goesOn]
def fillW : FillData := { data := 0, rd := true, wr := true, ex := false, policy := 0, pa := 0x77000, host := true, poison := 0, age := 0 }
def askW (stage : Nat) (op : HomeOp) (old tries : Nat) (f : Option FillData) : BridgeReq :=
  { id := 9, q := ⟨.team 16 3, 0, 0, 0x5000, op, [⟨5, 0x5000, 0x50000000, 77⟩]⟩, pa := 0x77000, stage := stage, tries := tries, old := old, fill := f }
def askDev (r : BridgeReq) : State := { dev with bridge := [r] }
theorem witness_host_asked : ∀ r ∈ [askW 0 (.load 4) 0 0 (some fillW), askW 2 (.store 4) 0 0 none, askW 3 (.atom .max false) 0 0 none,
      askW 4 (.atom .max false) 0 0 none, askW 5 (.atom .max false) 0x44332211 4 none],
    Asked (askDev r) r ∧ (askDev r).fills = [] ∧ r.done = 0 ∧ r.vals = [] ∧ r.bad = none ∧ r.q.accs = [⟨5, 0x5000, 0x50000000, 77⟩] := by
  unfold Asked; decide +kernel
theorem witness_host_loop : answerNat [0x11, 0x22, 0x33, 0x44] = 0x44332211 ∧ (0 : BitVec 64).toNat % 65536 = 0 ∧
    ((askDev (askW 5 (.atom .max false) 0 255 none)).setReg 0x18 256).reg 0x18 = 256 ∧ (dev.reg 0x100).toNat = 0 ∧ dev.hostMode 0 = false := by
  decide +kernel
/-- The second half of the line comes, the first being held; and the first alone, of a line of which nothing is held. -/
theorem witness_host_halves : (let r := { askW 0 (.load 4) 0 0 (some fillW) with done := 1 }
      let s : State := { askDev r with halves := [(2 * (0x77000 / 128), { state := 1, data := 7 })] };
      Asked s r ∧ r.stage = 0 ∧ r.fill = some fillW ∧ r.done = 1 ∧ s.halves.length < 131072) ∧
    (let r := askW 0 (.load 4) 0 0 (some fillW);
      Asked (askDev r) r ∧ r.done = 0 ∧ (askDev r).halves.length < 131072 ∧ ((askDev r).halfAt (2 * (0x77000 / 128) + 1)).state = 0) ∧
    (let r := askW 0 (.store 4) 0 0 (some fillW)
      let s : State := { askDev r with halves := [(2 * (0x77000 / 128) + 1, { state := 2, data := 7, dirty := true })] };
      Asked s r ∧ r.done = 0 ∧ wantsOwn r.q = true ∧ (s.halfAt (2 * (0x77000 / 128) + 1)).state = 2) := by unfold Asked; decide +kernel
def hostLine : L2Line := { lineW with host := true, dirty := 0xF0F, pa := 0x77000 }
theorem witness_snooped : (let h := 2 * (0x77000 / 128)
    let s : State := { homeDev hostLine with halves := [(h, { state := 2, data := 7, dirty := true }), (h + 2, { state := 1 })] };
    (s.halfAt h).state ≠ 0 ∧ (s.halfAt h).dirty = true ∧ (s.halfAt 5).state = 0 ∧ s.linesOfHalf h = [lineId 0 0x10000] ∧
    SMap.look s.l2 (lineId 0 0x10000) = some hostLine ∧ hostLine.host = true ∧ hostLine.pa = h / 2 * 128 ∧ hostLine.dirty ≠ 0 ∧
    (s.halfAt (h + 2)).state ≠ 0 ∧ s.linesOfHalf (h + 2) = [] ∧ (s.halfAt (h + 2)).dirty = false) := by decide +kernel
/-- A read at the end of device memory, one past it, a write that crosses a line, and BAR0. -/
theorem witness_host_accesses : NoAperture dev ∧ dev.linkUp = true ∧ dev.bootFailed = false ∧ dev.poison = [] ∧ (dev.reg 0x100).toNat = 0 ∧
    (let n := 4; 0 < n ∧ (12 * 2 ^ 36 - 4) + n ≤ 12 * 2 ^ 36 ∧ (12 * 2 ^ 36 - 4) % 128 + n ≤ 128) ∧
    (¬ ((0 = 0 ∧ (12 * 2 ^ 36 - 3) + 4 ≤ 12 * 2 ^ 36) ∨ (0 = 1 ∧ (12 * 2 ^ 36 - 3) + 4 ≤ 2 ^ 40))) ∧
    (0x1000 % 8 = 0 ∧ 0x1000 < 2 ^ 22) := by
  refine ⟨fun i _ => by simp [dev, State.reg, SMap.get, SMap.look], by decide +kernel, by decide +kernel, by decide +kernel, by decide +kernel,
    by decide, by decide, by decide⟩
theorem witness_host_parts : goesOn (exec (.hostAccess ⟨5, .memory 0 0x1270, some [1, 2, 3], 16⟩) dev) = true ∧ (0x1270 + 16) % 128 = 0 ∧
    goesOn (exec (.managementWrite 0x1000 5) dev) = true := by decide +kernel
def apertureDev : State := (((dev.setReg 0x10E0 0x8000000000000009).setReg 0x10E8 0x10000).setReg 0x10F0 0).setReg 0x10F8 0x20000
theorem witness_aperture : (∀ j ∈ List.range 256, j ≠ 7 → (apertureDev.reg (0x1000 + 32 * j)).getLsbD 63 = false) ∧
    (apertureDev.reg 0x10E0).toNat.testBit 63 = true ∧ (apertureDev.reg 0x10E8).toNat / 2 ^ 16 % 2 ^ 36 * 2 ^ 16 ≤ 0x20010 ∧
    0x20010 < 0x10000 + (apertureDev.reg 0x10F8).toNat / 2 ^ 16 * 2 ^ 16 ∧ 0x20010 + 8 ≤ 12 * 2 ^ 36 ∧ 0x20010 % 128 + 8 ≤ 128 := by decide +kernel
theorem witness_ports : (∀ fs ∈ [[(0x28, 100)], [(8, 5), (0x28, 100)]], let p := { under fs with route := some (3, 1) }
      (withP p).packets = [p] ∧ p.accepted = true ∧ p.route.map Prod.fst = some 3 ∧ (p.kind = 5 ∨ p.kind = 0)) ∧
    (let p := offered [(0x28, 100)]; (withP p).packets = [p] ∧ p.accepted = false) := by decide +kernel
theorem witness_errors : (dev.reg 0x100).toNat = 0 ∧ dev.heq.length < 256 ∧
    (let x : L2Line := { lineW with dirty := 0xF00000000 };
     SMap.look (homeDev x).l2 (lineId 0 0x10000) = some x ∧ x.dirty ≠ 0 ∧ (∃ o ∈ List.range 32, x.dirty.getLsbD (32 * 1 + o) = true) ∧
     (∀ o ∈ List.range 32, x.dirty.getLsbD (32 * 0 + o) = false)) ∧
    (SMap.look homeDev.l2 (lineId 0 0x10000) = some lineW ∧ lineW.dirty = 0) ∧
    (let p := under [(0x28, 100)]; (withP p).packets = [p] ∧ p.engine = 0 ∧ p.accepted = true) := by decide +kernel

/-! ### Witnesses: management, and the machine as a whole -/

theorem witness_registers_written : dev.bootFailed = false ∧ (0x008, 0xFFFF) ∈ storedRegs ∧ 0x110 ∈ deafRegs ∧ (0x11 : Nat) % 8 ≠ 0 ∧
    counterExists 0 0 0 = true ∧ counterExists 4 3 10 = true ∧ counterExists 0 256 0 = false ∧ (0x108 : Nat) < 2 ^ 22 ∧
    (let s : State := { dev with bootFailed := true }; s.bootFailed = true) ∧ 0x30 < 0x100 := by decide +kernel
theorem witness_go_bits : (0x8000000000000005 : BitVec 64).getLsbD 63 = true ∧ (5 : BitVec 64).getLsbD 63 = false ∧
    (0xC000000000009005 : BitVec 64).getLsbD 62 = true ∧ (0x8000000000009005 : BitVec 64).getLsbD 62 = false ∧
    (0x8000000000000005 : BitVec 64).toNat % 65536 = 5 := by decide +kernel
theorem witness_translations_held : (let s := (homeDev).mapCore 2 fun c => { c with l1 := [(lineId 5 0x100, { rd := true })] };
    SMap.look s.l2 (lineId 0 0x10000) = some lineW ∧ s.l1Line 2 (lineId 5 0x100) = some { rd := true } ∧ lineCtx (lineId 5 0x100) = 5 ∧
    lineCtx (lineId 0 0x10000) = 0) := by decide +kernel
theorem witness_clusters_idle : dev.clusterBusy 0 = true ∧ (∃ j ∈ dev.teamsOfCrew 1, (SMap.get default dev.teams j).place ≠ .saved) ∧ dev.clusterBusy 1 = false ∧ mapField 0x9 1 = 2 := by decide +kernel
def killDev : State :=
  { dev (fun t => { t with holdings := [⟨0x888, true, false, true⟩] }) with crews := [(1, { crew0 with ctx := 5 })], grids := [(1, { grid0 with ctx := 5 })] }
theorem witness_contexts_killed : killDev.packets = [] ∧ killDev.chans = [] ∧ SMap.sortedFrom 0 killDev.teams = true ∧
    (∀ p ∈ killDev.teams, (SMap.look killDev.crews p.2.crew).map Crew.exited = some false ∧ killDev.ctxOf p.2 = 5) ∧
    (∃ h ∈ killDev.me.holdings, h.isLock = true ∧ h.released = false) ∧
    (∀ a ∈ [true, false], let p : Packet := { packet 0 with ctx := 5, team := none, accepted := a }
      ({ dev with packets := [p] } : State).packets = [p] ∧ p.ctx = 5 ∧ p.team = none ∧ p.accepted = a) := by decide +kernel
/-- A crew of one team on core 1. -/
def fenceDev (mode : BitVec 64 := 0) : State :=
  { (((dev fun t => { t with crew := 2 }).setReg 0x100 mode).setReg 0x108 0x8000000000000000) with crews := [(1, crew0), (2, { crew0 with core := 1, teams := 1 })] }
theorem witness_cores_fenced : (fenceDev.reg 0x17000).getLsbD 1 = false ∧ fenceDev.crewsToMove 1 = [2] ∧ fenceDev.teamsOfCrew 2 = [16] ∧
    Holds fenceDev 16 fenceDev.me ∧ fenceDev.me.crew = 2 ∧ fenceDev.me.place = .resident ∧ fenceDev.me.gang = 0 ∧ fenceDev.me.halted = false ∧ fenceDev.me.yielded = false ∧
    (SMap.look fenceDev.crews 2).map Crew.exited = some false ∧ SMap.sortedFrom 0 fenceDev.teams = true ∧
    (fenceDev 0x20).hostMode 5 = true ∧ ((dev.setReg 0x17000 2).reg 0x17000).getLsbD 1 = true := by unfold Holds; decide +kernel
theorem witness_heat : (0xC000 : Nat).testBit 14 = true ∧ (0xC000 : Nat).testBit 15 = true ∧ (dev.reg 0x28).toNat = 0 ∧
    ({ dev with teams := [] } : State).heq = [] := by decide +kernel
/-- An image with a signature of zeros, and the key whose root that signature leads to. -/
def idB : List Byte := List.replicate 16 0
def goodSig : List Byte := beBytes 4 0 ++ beBytes 4 3 ++ List.replicate 2176 0 ++ beBytes 4 6 ++ List.replicate 320 0
def goodKey : List Byte := beBytes 4 6 ++ beBytes 4 3 ++ idB ++ digestBytes (lmsRoot idB 4 10 goodSig [1])
def goodStage : BootStage := ⟨[1], goodKey, goodSig, false⟩
theorem witness_stage_passes : lmsVerifies goodStage.key goodStage.sig goodStage.image = true ∧ keyTypes goodStage.key = (6, 3) ∧
    goodStage.bad = false ∧ ({ State.reset with otp := sha256 goodStage.key } : State).otp = sha256 goodStage.key := by
  have ht : keyTypes goodKey = (6, 3) := rfl
  have hi : (goodKey.drop 8).take 16 = idB := rfl
  have hd : digestAt goodKey 24 = lmsRoot idB 4 10 goodSig [1] := Laws.digestAt_digestBytes rfl
  have hl : goodKey.length = 56 := by simp [goodKey, digestBytes, idB]
  have hs : goodSig.length = 44 + 32 * otsChains 4 + 32 * 10 ∧ sigTypes 4 goodSig = (6, 3) ∧ beNat (goodSig.take 4) < 2 ^ 10 := by
    decide +kernel
  refine ⟨?_, ht, rfl, rfl⟩
  simp only [goodStage, lmsVerifies, ht, hi, hd, hl, hs, lmsHeight, otsWidth]
  simp
theorem witness_boot_passes (i : Nat) (y : BootStage) (h : [goodStage][i]? = some y) : bootCheck (sha256 goodStage.key) i y = 0 := by
  have hw := witness_stage_passes
  cases i with
  | zero =>
    simp only [List.getElem?_cons_zero, Option.some.injEq] at h
    subst h
    simp [bootCheck, typesOk, lmsHeight, otsWidth, hw.1, hw.2.1, hw.2.2.1]
  | succ n => simp at h
/-- Further images: one that cannot be read, one whose key has a type that is not accepted, one whose signature is too short. -/
theorem witness_boots : (∀ (i : Nat) (y : BootStage), ([] : List BootStage)[i]? = some y → False) ∧ [] ++ goodStage :: [] = goodStage :: [] ∧
    (∃ y : BootStage, y.bad = true) ∧ (keyTypes (beBytes 4 5 ++ beBytes 4 4)).1 ∉ [6, 7, 8, 9] ∧
    lmsVerifies goodKey [] [1] = false := by
  refine ⟨by simp, rfl, ⟨⟨[], [], [], true⟩, rfl⟩, by decide +kernel, ?_⟩
  have ht : keyTypes goodKey = (6, 3) := rfl
  simp [lmsVerifies, ht, lmsHeight, otsWidth]
/-- A line at 0x10000 and the seventeen after it can be written: the report goes there. -/
def attestDev : State := linesDev ((List.range 17).map fun i => (0x10000 + 128 * i, 0))
theorem witness_reports_written : okB ((attestDev.setReg 0x16020 0x10000).agentWrite 0 0x10000 (List.replicate 1948 0)) = true ∧
    attestDev.leaf < 32768 ∧ attestDev.bootFailed = false ∧ (0x8000000000010000 : BitVec 64).getLsbD 63 = true ∧
    32768 ≤ ({ dev with leaf := 32768 } : State).leaf ∧ (0 : Nat) < 2 ^ 32 := by decide +kernel

/-! ### Witnesses: the machine as a whole; and the first step after a word has been placed -/

theorem witness_steps_issue : (dev.withFetchWord 32 0x23030405).begin.choose = some (.issue 16 0x23030405) := by decide +kernel
theorem witness_memory_steps : ∃ s : State, s.dram ≠ [] ∧ s.memOk = true ∧ ∃ t, step s = .next t :=
  ⟨{ dev.withFetchWord 32 0x23030405 with dram := [(5, 1)] }, by decide, rfl, next_of_goesOn _ (by decide +kernel)⟩
theorem witness_refused_words_issue : (dev.withFetchWord 32 0x00000001).begin.choose = some (.issue 16 1) := by decide +kernel
theorem witness_teams_wait : (let s := dev fun t => { t with outs := [outW (.ld32 (.v 4) (.s 20) (.v 5)) .load 1 []] };
    s.me.outs = [outW (.ld32 (.v 4) (.s 20) (.v 5)) .load 1 []] ∧ (outW (.ld32 (.v 4) (.s 20) (.v 5)) .load 1 []).regs = [4] ∧
    4 ∈ regsRead (.add (.v 3) (.v 4) (.v 5)) s.me ++ regsWritten (.add (.v 3) (.v 4) (.v 5))) := by decide +kernel
theorem witness_words_refused : encode (.add (.v 3) (.v 4) (.s 0)) = some 0x230304C0 ∧ encode (.add64 (.v 3) (.v 4) (.v 6)) ≠ none ∧
    decodeCheck (.add64 (.v 3) (.v 4) (.v 6)) dev.me ≠ none := by decide +kernel
theorem witness_round_trip : encode (.add (.v 3) (.v 4) (.v 5)) = some 0x23030405 := by decide +kernel

/-! ### Witnesses: more clauses of the statements above -/

theorem witness_functions : (let f := fmtF16; ratOf (f.decode 0x4400) = some 4 ∧ |1 / (4 : ℚ)| ≤ largest f ∧ (2 : ℚ) ^ (4 : Int) ≤ largest f ∧
      (4 : ℚ) = ((4 : Int) : ℚ) ∧ (4 : ℚ) = (2 : ℚ) ^ (2 : Int) ∧ ratOf (f.decode 0xC400) = some (-4)) := by
  have h : fmtF16.decode 0x4400 = .num false (2 ^ 10) (-8) := by decide +kernel
  have h' : fmtF16.decode 0xC400 = .num true (2 ^ 10) (-8) := by decide +kernel
  have hm : fmtF16.decode fmtF16.maxFinite = .num false 2047 5 := by decide +kernel
  simp only [largest, h, h', hm]
  norm_num [ratOf]
theorem witness_crews_terminated : (let s := { dev (fun t => { handling t with pc := 0x44 }) with crews := [(1, { crew0 with handler := some 16 })] }
     SMap.look s.teams s.cur = some s.me ∧ SMap.sortedFrom 0 s.teams = true ∧ s.me.trap.inHandler = true ∧
     s.myCrew.handler = some s.cur ∧ s.heq.length < 256) ∧
    (dev.me.trap.inHandler = false ∧ dev.me.trap.tvbase.getLsbD 0 = false ∧ dev.myCrew.handler = none ∧ dev.heq.length < 256) := by decide +kernel

/-- The team's local address names crew `rank` of a placement group of two crews, of which one stands. -/
def farDev (la : Word) : State :=
  { memDev false 7 0 (fun t => { t with sregs := [(24, la)], vregs := [] }) with
    grids := [(1, { grid0 with launch := { grid0.launch with kbar := 4, crews := 2 } })] }
def localWords : List (Instr × Nat) := [(.ldl32 (.v 4) (.s 24) (.v 5), 4), (.ldl128 (.v 4) (.s 24) (.v 5), 16),
  (.stl32 (.v 4) (.s 24) (.v 5), 4), (.stl128 (.v 4) (.s 24) (.v 5), 16)]
theorem witness_local_limits : ∀ x ∈ localWords, (farDev 0x10000041).me.actLanes x.1 = [0, 1, 3] ∧ (farDev 0x10000041).me.guardedLanes x.1 = [0, 1, 3] ∧
    (farDev 0x10000041).me.la (.s 24) (.v 5) 0 % x.2 ≠ 0 ∧ (farDev 0x20000040).me.la (.s 24) (.v 5) 0 % x.2 = 0 ∧
    2 ^ 29 ≤ (farDev 0x20000040).me.la (.s 24) (.v 5) 0 ∧ Issues x.1 (farDev 0x10000040) ∧ Issues x.1 (farDev 0x10080040) := by
  unfold Issues; decide +kernel
theorem witness_local_partners : (∀ la ∈ [(0x10000040 : Word), 0x10080040], (farDev la).me.la (.s 24) (.v 5) 0 % 16 = 0 ∧
      (farDev la).me.la (.s 24) (.v 5) 0 < 2 ^ 29 ∧ ((farDev la).me.la (.s 24) (.v 5) 0).testBit 28 = true ∧
      (farDev la).me.la (.s 24) (.v 5) 0 / 2 ^ 19 % 512 < groupSize (farDev la).myGrid.launch (farDev la).myCrew.group ∧
      (farDev la).me.la (.s 24) (.v 5) 0 % 2 ^ 19 + 16 ≤ (farDev la).myGrid.launch.localBytes) ∧
    (farDev 0).partner 0 = some (1, crew0) ∧ (farDev 0).crewAt 1 = crew0 ∧ crew0.taken = false ∧ crew0.memPoison = [] ∧ crew0.exited = false ∧
    SMap.look (farDev 0).crews 1 = some crew0 ∧ (farDev 0).partner 1 = none := by
  refine ⟨fun la h => ?_, by decide +kernel⟩
  simp only [List.mem_cons, List.not_mem_nil, or_false] at h
  rcases h with rfl | rfl <;> decide +kernel
theorem witness_prefetches_dropped : (let s := memDev false 7 0 fun t => { t with sregs := [(20, 0), (21, 0x01000000)] };
    Issues (.prefetch true (.s 20) (.v 5)) s ∧ s.me.actLanes (.prefetch true (.s 20) (.v 5)) ≠ [] ∧
    ∀ l ∈ s.me.actLanes (.prefetch true (.s 20) (.v 5)), canonical (s.me.ea (.s 20) (.v 5) l) = false) := by unfold Issues; decide +kernel
theorem witness_fills_failed : (let q := reqW (.load 4)
    let s : State := { dev with fills := [(lineId 0 0x10000, [q, { q with who := .team 17 3 }])] }
    s.fills = [(lineId 0 0x10000, [q, { q with who := .team 17 3 }])] ∧ (⟨0x0B, 2, 5, 7⟩ : BadAccess).kind ∉ [3, 4, 7, 8, 9]) := by decide +kernel
theorem witness_reclaims_wait : (let s := { dev (fun t => { t with sregs := [(4, 0x1234), (8, 0x100)] }) with
      searches := (List.range 16).map fun i => ⟨i, 1, 0, 0, .pinq 17 i, [], false⟩ }
    16 ≤ s.searches.length ∧ s.me.addr (.s 8) 0 % 256 = 0 ∧ Issues (.reclaim (.s 6) (.s 4) (.s 8)) s) ∧
    (dev fun t => { t with sregs := [(8, 0x110)] }).me.addr (.s 8) 0 % 256 ≠ 0 := by unfold Issues; decide +kernel

theorem witness_mma_faults_delivered : (let s := mmaDev 1 fun t => { t with mma := some jobW, trap := { t.trap with tvbase := 0x801 } }
    SMap.look s.teams 16 = some s.me ∧ s.me.mma = some jobW ∧ (⟨16, 0x40, 3, 1⟩ : MmaPart) ∈ (jobW).parts ∧ s.gangOf s.me = none ∧
    (s.crewAt s.me.crew).handler = none ∧ s.me.trap.inHandler = false ∧ s.me.trap.tvbase.getLsbD 0 = true ∧ s.mmaQueued 16 = false ∧
    s.me.scaleFaults = []) := by decide +kernel
/-- A gang whose members drain the chain that it has closed. -/
def drainChain : ChainState := { closed := some ⟨2, 4, 2, 0, 0, false⟩ }
def drainCopy (team : Nat) : LatchCopy := ⟨team, false, none, [0xC000000C, 0], 8, 40, 0, 0, [], 0xB, 0x40, none, false, 1⟩
def drainDev (latch : List LatchCopy) : State :=
  { mmaDev 1 (fun t => { t with gang := gangWord 3 0, sregs := [(20, 0xC000000C)] }) with
    crews := [(1, { crew0 with accRows := 64, gangs := [{ members := 3, latch := latch, chain := drainChain }] })]
    teams := [(16, { (mmaDev 1 (fun t => { t with sregs := [(20, 0xC000000C)] })).me with gang := gangWord 3 0 }),
      (17, { team0 with idx := 1, gang := gangWord 3 1, wait := if latch = [] then none else some .latch, stood := some (0x40, true) })] }
theorem witness_gangs_drain :
    (let s := drainDev []
     let g : Gang := { members := 3, chain := drainChain }
     s.gangOf s.me = some g ∧ g.members.getLsbD s.me.idx = true ∧ (SMap.look s.crews 1).isSome = true ∧ Admitted s .latch ∧
     Issues (.mdrain (.s 20) (.s 22)) s ∧ s.me.wait = none ∧ s.latched 1 { g with latch := [drainCopy 16] } = none ∧
     [rdl s (.s 20) 0, rdl s (.s 22) 0] = [0xC000000C, 0] ∧ s.me.accBase = 8 ∧ s.me.accLim = 40 ∧ s.me.trap.mrow = 0 ∧ s.me.live = 0xB ∧ s.me.pc = 0x40) ∧
    (let s := drainDev [drainCopy 17]
     let g : Gang := { members := 3, chain := drainChain, latch := [drainCopy 17] }
     s.gangOf s.me = some g ∧ (∀ x ∈ g.latch, x.team ≠ s.cur ∧ x.kept = none) ∧
     s.latched 1 { g with latch := [drainCopy 17, drainCopy 16] } = some [drainCopy 16, drainCopy 17] ∧
     diverge [drainCopy 16, drainCopy 17] = none ∧ drainLimit drainChain 0xC000000C 40 = none ∧
     (∀ k ∈ [16, 17], s.gangOf (SMap.get default s.teams k) = some g ∧ (SMap.get default s.teams k).crew = 1)) := by
  unfold Issues Admitted Listed; decide +kernel
theorem witness_gangs_stand : StandsAt (drainDev [drainCopy 17]) (drainCopy 17) := ⟨_, rfl, rfl, rfl, rfl, rfl⟩
theorem witness_gangs_diverge : (let s := (gangDev [copy17 9] (some .latch)).mapTeam 16 fun t => { t with trap := { t.trap with tvbase := 0x801 } }
    let g : Gang := { members := 3, latch := [copy17 9] }
    let cs := [s.mmaCopy (.v 1) (.s 20) (.s 22), copy17 9]
    s.gangOf s.me = some g ∧ (SMap.look s.crews s.me.crew).isSome = true ∧ Admitted s .latch ∧ Issues (.mma (.v 1) (.s 20) (.s 22)) s ∧ s.me.wait = none ∧
    (∀ x ∈ g.latch, x.team ≠ s.cur ∧ x.kept = none) ∧ s.latched s.me.crew { g with latch := g.latch ++ [s.mmaCopy (.v 1) (.s 20) (.s 22)] } = some cs ∧
    (diverge cs).isSome = true ∧ s.myCrew.handler = none ∧ (SMap.get default s.teams 16).trap.tvbase.getLsbD 0 = true) := by
  unfold Issues Admitted Listed; decide +kernel

/-- A gathered row of 32 bytes: its index, its units, and the whole row. -/
def gatherP (f : Packet → Packet) : Packet := f { under [(8, 2), (0x28, 32), (0x30, 0x50000), (0x38, 10 + 2 ^ 32 * 64)] with pos := 3 }
theorem witness_row_parts : (let p := gatherP fun p => { p with got := [(0, 9)] }
      UnderWay (withP p) p ∧ p.pos < p.p1 % 2 ^ 32 ∧ p.index = none ∧ p.got ≠ [] ∧ p.value = 9) ∧
    (let p := gatherP fun p => { p with index := some 9, got := [(0, 9)], buf := [(0x10070, 16, 5)] }
     UnderWay (withP p) p ∧ p.index = some 9 ∧ p.got ≠ [] ∧ p.before = [] ∧ p.buf.foldl (fun n u => n + u.2.1) 0 < p.len) ∧
    (let p := gatherP fun p => { p with index := some 9, buf := [(0x10050, 16, 5), (0x10060, 16, 6)] }
     UnderWay (withP p) p ∧ p.kind = 2 ∧ p.pos < p.p1 % 2 ^ 32 ∧ p.index = some 9 ∧ p.len ≤ p.buf.foldl (fun n u => n + u.2.1) 0 ∧ p.route = none ∧
      p.writing = false ∧ p.before = [] ∧ ∀ u ∈ p.buf, u.1 + u.2.1 ≤ 2 ^ 64 ∧
        ∀ r ∈ p.ranges, r.2.2 = true ∨ u.1 + u.2.1 ≤ r.1 ∨ r.2.1 ≤ u.1) := by unfold UnderWay; decide +kernel
theorem witness_row_targets : ∀ u ∈ [0x10050, 0x10060], ∃ l, (withP (gatherP id)).agentTarget 0 u = .ok l := by
  intro u h
  simp only [List.mem_cons, List.not_mem_nil, or_false] at h
  rcases h with rfl | rfl <;> exact ⟨_, by rfl⟩
theorem witness_units_single : (let p := under [(0x28, 100)]; (p.unitAt 96 1).n = 1 ∧ canonical (p.unitAt 96 1).src = true) ∧
    (let p := tileP goodTile; p.kind ≤ 1 ∧ p.sub = 2 ∧ p.d 4 4 = 40 ∧ p.d 8 4 = 3 ∧ p.d 0xC 4 = 1 ∧ p.d 0x10 4 = 1 ∧ p.d 0x14 4 = 1) := by decide +kernel
theorem witness_packets_stop : (let p := { under [(0x28, 100)] with stop := true }
      (withP p).packetAt p.id = some p ∧ p.accepted = true ∧ p.outs = [] ∧ p.reads = 0 ∧ p.waiting = false) ∧
    (let p := { under [(0x28, 100)] with stop := true, reads := 2 }; (withP p).packetAt p.id = some p ∧ p.reads ≠ 0) ∧
    (let p := { under [(0x28, 100)] with reported := true }; (withP p).packetAt p.id = some p ∧ p.stop = false ∧ p.reported = true) ∧
    (let p := { under [(0x20, 0x10040), (0x28, 100)] with failed := some ⟨0x0B, 2, 2, 0x30010⟩ }
      let s : State := { withP p with heq := List.replicate 256 0 }
      s.packetAt p.id = some p ∧ p.stop = false ∧ p.reported = false ∧ 256 ≤ s.heq.length) := by decide +kernel
/-- A piece of 16 bytes that is stored, or added to four F32 elements, with none, or one, of its packet before it. -/
def pieceIn (reduce : Bool) : InboundReq := { inbound 0x20010 with bytes := List.replicate 16 7, reduce := reduce }
theorem witness_pieces_in : ∀ reduce ∈ [true, false], (pieceIn reduce).bytes.length = 16 ∧ (∀ v ∈ (pieceIn reduce).bytes, v < 256) ∧
    (pieceIn reduce).dst % 16 = 0 ∧ (pieceIn reduce).arrive = 0 ∧ openDev.windowFor (pieceIn reduce).peer (pieceIn reduce).dst 16 62 = some 3 ∧
    elemSize (pieceIn reduce).typ = some 4 ∧ openDev.inbound = [] ∧ inboundBefore.r.peer = (pieceIn reduce).peer ∧
    inboundBefore.r.tag = (pieceIn reduce).tag ∧ inboundBefore.id ≠ ({ openDev with nextId := 9 } : State).nextId := by decide +kernel
/-- Commands that break R253: byte 3 of each command, and opcodes that do not exist. -/
theorem witness_commands_bad : ∀ c ∈ [(1 : BitVec 128), 2, 3, 4, 5, 6, 0, 9], commandBad (c + 0x1000000) = true ∧
    Standing (atCommand (c + 0x1000000)) 0 (submission (c + 0x1000000)) (c + 0x1000000) := by
  intro c h
  refine ⟨?_, rfl, rfl, rfl, rfl, rfl, rfl, rfl, rfl, rfl, rfl, rfl⟩
  simp only [List.mem_cons, List.not_mem_nil, or_false] at h
  rcases h with rfl | rfl | rfl | rfl | rfl | rfl | rfl | rfl <;> decide +kernel
theorem witness_stores_sent : (let s := engineDev fun x => { x with exposed := false, subs := [submission 5], sent := true }
      Standing s 0 (submission 5) 5 ∧ (s.engineAt 0).sent = true ∧ commandBad 5 = false) :=
  ⟨⟨rfl, rfl, rfl, rfl, rfl, rfl, rfl, rfl, rfl, rfl, rfl⟩, rfl, by decide +kernel⟩
theorem witness_commands_reported : (let b := { submission 3 with failed := some ⟨8, 0, 4, 0⟩ }
    let s := engineDev fun x => { x with exposed := false, subs := [b] }
    (s.engineAt 0).subs = [b] ∧ b.taken = true ∧ b.begun = true ∧ (s.engineAt 0).suspended = false ∧ (s.engineAt 0).window = false ∧
    (s.engineAt 0).waiting = false ∧ (s.engineAt 0).waits = [] ∧ b.outs = 0 ∧ b.pid = none ∧ b.team = some 16 ∧ b.ctx ∉ s.killed ∧ s.heq = []) := by
  decide +kernel

theorem witness_more_halts : (let s := dev fun t => { t with halted := true }; Holds s 16 s.me ∧ s.me.halted = true) ∧
    (let s := dev fun t => { t with halt := some ⟨3, 2, record⟩, wait := some (.sleep 9), pc := 0x44 }
     Holds s 16 s.me ∧ s.me.halt = some ⟨3, 2, record⟩ ∧ s.me.wait = some (.sleep 9) ∧ s.me.pending = [] ∧ dev.me.pending = [] ∧ s.me.pc ≠ dev.me.pc) ∧
    (let s := dev fun t => { t with halt := some ⟨3, 2, record⟩, pending := [(record, 0x40)] }
     Holds s 16 s.me ∧ s.me.halt = some ⟨3, 2, record⟩ ∧ s.me.pending = [(record, 0x40)]) ∧
    (dev.me.reissue = none ∧ dev.me.mma = none) := by unfold Holds; decide +kernel
/-- The table is full, and the extension stands open. -/
theorem witness_table_extended : (let s := fullTableDev.setReg 0x630 0x8000000000000000
    4096 ≤ s.wftCount (s.launchDie 0) ∧ s.wftRoom (s.launchDie 0) = true ∧ s.launches = [] ∧ s.queuesOf 0 = [0] ∧
    s.queueHead 0 0 = .ready 0 0x10000 queueD (packetBits 1 0 0x9000)) := by decide +kernel
theorem witness_work_of_the_partition : OfItsPartition (placeDev 4 300) 0 ∧ OfItsPartition (fullDev false) 0 ∧ OfItsPartition dev 0 := by
  unfold OfItsPartition; decide +kernel
theorem witness_nothing_to_place : dev.coresOf 0 ≠ [] ∧ dev.returning 0 = [] ∧ (dev.clusterAt 0).ccbs = [] ∧ SMap.sortedFrom 0 dev.teams = true ∧
    (∀ p ∈ dev.teams, p.2.wait = none) ∧
    (let s := (fullDev false).mapTeam 16 fun t => { t with place := .saving }
     s.pickCore (s.gridAt 1).launch 0 = none ∧ s.evicting 0 = true ∧ (∀ core ∈ s.coresOf 0, s.chosenOn core = []) ∧ ∀ p ∈ s.crews, p.2.taking = false) := by
  decide +kernel
/-- Crew 1 of a grid of priority 3 and crew 2 of another grid, both saved, come back to cluster 0; with a block of priority `prio`. -/
def backDev (blocks : List Ccb) (prio : Nat) : State :=
  { dev.mapCluster 0 (fun c => { c with ccbs := blocks }) with
    teams := [(16, { team0 with place := .saved }), (32, { team0 with crew := 2, place := .saved })]
    crews := [(1, crew0), (2, { crew0 with grid := 2 })]
    grids := [(1, { grid0 with launch := { grid0.launch with prio := 3 } }), (2, grid0), (3, { grid0 with launch := { grid0.launch with prio := prio } })] }
theorem witness_crews_return : (∀ prio ∈ [2, 5], let s := backDev [⟨3, 0, [], 1⟩] prio
      s.coresOf 0 ≠ [] ∧ OfItsPartition s 0 ∧ SMap.sortedFrom 0 s.crews = true ∧ s.unitPrio (s.teamsOfCrew 1) = 3 ∧ s.unitPrio (s.teamsOfCrew 2) = 0 ∧
      s.restoreCore 1 0 = some 0 ∧ s.backOf 1 ≠ [] ∧ s.backOf 2 ≠ [] ∧ s.returns 1 = false ∧ (s.clusterAt 0).ccbs.head? = some ⟨3, 0, [], 1⟩ ∧
      (s.gridAt 3).launch.prio = prio ∧ (s.pickCore (s.gridAt 3).launch 0).isSome = true) := by
  unfold OfItsPartition; decide +kernel
theorem witness_crews_in_order : (let s := backDev [] 0; MayReturn s 0 1 ∧ MayReturn s 0 2 ∧ ReturnsBefore s 1 2 ∧ (s.clusterAt 0).ccbs.head? = none) := by
  refine ⟨⟨_, rfl, rfl, rfl, by decide +kernel⟩, ⟨_, rfl, rfl, rfl, by decide +kernel⟩, .inl (by decide +kernel), rfl⟩
/-- A failure record heads the host event packets; it ends packet 77, or the NMCMD of a team. -/
def recordDev (e : RecordEnd) : State :=
  { appendDev true [packFields [(8, 0x11)], 6] with recordEnds := [e], packets := [under [(0x28, 100)]] }
theorem witness_records_end : rawField (packFields [(8, 0x11)]) 8 1 = 0x11 ∧ rawField 6 8 1 ≠ 0x11 ∧
    (∀ e ∈ [RecordEnd.packet 77, .command (some 16) 3], isDone ((recordDev e).append 0 0x10000 none (packFields [(8, 0x11)])) = true ∧
      (recordDev e).recordEnds = [e]) ∧ (recordDev (.packet 77)).packetAt 77 = some (under [(0x28, 100)]) ∧ Holds dev 16 dev.me := by
  unfold Holds; decide +kernel
theorem witness_replies_to_others : (let s := escDev 1 5 fun t => { t with escals := [8, 9], wait := some (.host 1 9) }
      Open s 1 8 (escW 1 5 [16]) ∧ Holds s 16 s.me ∧ s.me.escals = [8, 9] ∧ s.me.wait = some (.host 1 9)) ∧
    (let s := escDev 2 5 fun t => { t with place := .saving, wait := some (.pinBucket 3) }
     Open s 2 8 (escW 2 5 [16]) ∧ Holds s 16 s.me ∧ s.me.escals = [] ∧ s.me.place = .saving ∧ s.me.wait = some (.pinBucket 3)) ∧
    dev.me.place = .resident := by unfold Open Holds; decide +kernel
theorem witness_aborts_asked : (let s := ({ withP { stepP with route := some (4, 7) } with mgmt := [] } : State).setReg 0x100 0x40
      (s.setReg 0x108 0x8000000000000000).hostMode 6 = true ∧ s.hostMode 6 = false) := by decide +kernel
theorem witness_kills : dev.kills = [] ∧ ({ dev with kills := [(5, [9], [0x10000])] } : State).kills = [(5, [9], [0x10000])] ∧ dev.packets = [] ∧
    dev.hostMode 6 = false := by decide +kernel
theorem witness_fenced_core : ((dev.setReg 0x17000 1).reg (0x17000 + 8 * (0 / 64))).getLsbD (0 % 64) = true ∧ ((dev.setReg 0x17000 1).crewOf dev.me).core = 0 := by
  decide +kernel
theorem witness_refused_word : decodeCheck (.add64 (.v 1) (.v 2) (.v 4)) dev.me = some (preciseTrap 1 5 0x3E010204 0) ∧
    encode (.add64 (.v 1) (.v 2) (.v 4)) = some 0x3E010204 := by decide +kernel

/-! ### Single steps, with the results of the spec's worked examples -/

def after : Host.Outcome State Fault Refusal → State | .next s => s | _ => {}
/-- A team of four active lanes with `vals` in v4, one per lane, under MODE `mode`. -/
def quad (vals : List Word) (mode : BitVec 16 := 7) (f : Team → Team := id) : State :=
  dev fun t => f { t with mask := 0xF, mode := mode, vregs := vals.zipIdx.map fun p => (4096 + p.2, p.1) }

/-- CVT to E4M3 (R329): 464.0, 465.0, 2^-10 and -2^-10, without and with SAT (MODE bit 8). -/
theorem test_cvt_e4m3 : (let s := after (exec (.cvt (.v 6) (.v 4) 8 5) (quad [0x43E80000, 0x43E88000, 0x3A800000, 0xBA800000]));
    (List.range 4).map (s.me.rd (.v 6)) = [0x7E, 0x7F, 0, 0x80]) := by decide +kernel
/-- RED fadd (R337): 1.0, 2^24, 1.0 and 1.0 reduce to 16,777,218 in the tree's order. -/
theorem test_red_order : (let s := after (exec (.red (.v 9) (.v 4) 8) (quad [0x3F800000, 0x4B800000, 0x3F800000, 0x3F800000]));
    (List.range 4).map (s.me.rd (.v 9)) = [0x4B800001, 0x4B800001, 0x4B800001, 0x4B800001]) := by decide +kernel
/-- AADD (R119): three lanes of one word add 1, 2 and 3 to 10; each receives the value before its own addition. -/
theorem test_aadd_aggregates : (atomLanes .add 10 10 none [⟨0, 0, 1, 0⟩, ⟨2, 0, 2, 0⟩, ⟨3, 0, 3, 0⟩]).1 = [(0, 10), (2, 11), (3, 13)] := by
  decide +kernel
/-- A break inside a split (R300): the second iteration leaves the loop's mask at 0xCC. -/
theorem test_lbrk_second_iteration :
    (let s := after (exec (.lbrk 2) (dev fun t => { t with lanes := 8, mask := 0x30, stack := [⟨false, 0xFC⟩, ⟨true, 0xFF⟩], preds := [(2, 0xFF)] }));
     s.me.mask = 0 ∧ s.me.stack.map (·.mask) = [0xCC, 0xFF]) := by decide +kernel
/-- ADD of 32-bit elements without SAT wraps (R312). -/
theorem test_add_wraps : (after (exec (.add (.v 5) (.v 4) (.v 4)) (quad [0xFFFFFFFF, 0x80000000, 1, 2]))).me.rd (.v 5) 0 = 0xFFFFFFFE := by decide +kernel
/-- A branch adds four times its signed offset to its own address (R293). -/
theorem test_branch_back : (after (exec (.br 0xFFFFFF) dev)).me.pc = 0x3C := by decide +kernel
/-- MOVI extends its sign (R310). -/
theorem test_movi_sign : (after (exec (.movi (.s 1) 0x8000) dev)).me.rd (.s 1) 0 = 0xFFFF8000 := by decide +kernel
/-- A word that no rule gives a meaning traps with cause 0x01 (R450). -/
theorem test_undefined_word_traps : (after (step ((dev fun t => t).withFetchWord 32 0xFF000000))).teams = [] := by decide +kernel
end Sys2Proof.Tests
end

section
/-! What a word that only writes registers or a predicate completes with, said once (R67 to R69, R71, R292, R294). -/
namespace Sys2Proof.Compute

open Sys2Proof Sys2Proof.Machine Sys2Proof.Claims

/-! ### Registers read after they are written -/

theorem rd_congr {t u : Team} (hv : u.vregs = t.vregs) (hs : u.sregs = t.sregs) (r : Reg) (l : Nat) :
    u.rd r l = t.rd r l := by
  cases r with
  | v j => simp [Team.rd, Team.readV, hv]
  | s j => simp [Team.rd, Team.readS, hs]

@[simp] theorem rd_moved (t : Team) (pc : Word) (r : Reg) (l : Nat) : (t.moved pc).rd r l = t.rd r l :=
  rd_congr rfl rfl r l

theorem rd_s63 (t : Team) (l : Nat) : t.rd (.s 63) l = 0 := rfl

theorem rd_writeS (t : Team) (j i : Fin 64) (w : Word) (l : Nat) (h : j ≠ 63) :
    (t.writeS j w).rd (.s i) l = if i = j then w else t.rd (.s i) l := by
  have hj : j.val ≠ 63 := fun e => h (Fin.ext e)
  by_cases e : i = j
  · subst e; simp [Team.rd, hj]
  · have e' : i.val ≠ j.val := fun h => e (Fin.ext h)
    simp [Team.rd, e, Team.readS_writeS_other _ _ _ _ e']

/-- A register read after `wrLanes`: what was written where it was written, else what stood there (R69). -/
theorem rd_wrLanes (t : Team) (d : Reg) (L : List Nat) (hL : ∀ l ∈ L, l < 1024) (F : Nat → Word) (r : Reg) (l : Nat)
    (hl : l < 1024) :
    (t.wrLanes d L F).rd r l =
      if r = d ∧ d ≠ .s 63 ∧ (isVec d = true → l ∈ L) then (if isVec d then F l else F 0) else t.rd r l := by
  cases d with
  | v j =>
    cases r with
    | v k => simpa [Team.rd, isVec, Fin.ext_iff] using Team.wrLanes_v t j L F hL k l hl
    | s k => simp [Team.rd, Team.readS, Team.wrLanes_v_sregs]
  | s j =>
    cases r with
    | v k => simp [Team.rd, Team.readV]
    | s k =>
      by_cases h : j = 63
      · subst h; simp [Team.rd, Team.writeS_63]
      · simp [isVec, rd_writeS, h]

theorem mem_destLanes {t : Team} {d : Reg} {l : Nat} :
    l ∈ destLanes t d ↔ (isVec d = true → l ∈ t.actives) ∧ (isVec d = false → l = 0) := by
  cases d <;> simp [destLanes, isVec]

theorem lt_of_mem_destLanes {t : Team} {d : Reg} {l : Nat} (h : l ∈ destLanes t d) : l < 1024 := by
  cases d with
  | v j => exact t.lt_of_mem_actives h
  | s j => simp only [destLanes, List.mem_singleton] at h; omega

@[simp] theorem destLanes_chargeI (t : Team) (n : Nat) (d : Reg) : destLanes (t.chargeI n) d = destLanes t d := by
  cases d <;> rfl

theorem wrote_chargeI {t u : Team} {n : Nat} {d : Reg} {f : Nat → Word} :
    Wrote (t.chargeI n) u d f ↔ Wrote t u d f := by simp [Wrote]

theorem wrote64_chargeI {t u : Team} {n : Nat} {d : Reg} {f : Nat → BitVec 64} :
    Wrote64 (t.chargeI n) u d f ↔ Wrote64 t u d f := by simp [Wrote64]

/-- The value that `wrLanes` and `wrLanes64` write in a lane of the destination. -/
theorem written_of_mem {α : Type} {t : Team} {d : Reg} {l : Nat} (F : Nat → α) (h : l ∈ destLanes t d) :
    (if isVec d then F l else F 0) = F l := by
  split
  · rfl
  · rw [(mem_destLanes.1 h).2 (by simpa using ‹¬ isVec d = true›)]

/-- `wrLanes` writes its lanes and leaves the rest (R67, R69). -/
theorem wrote_wrLanes {t : Team} {d : Reg} {F f : Nat → Word} (pc : Word) (hF : ∀ l ∈ destLanes t d, F l = f l) :
    Wrote t ((t.wrLanes d t.actives F).moved pc) d f := by
  have hL : ∀ l ∈ t.actives, l < 1024 := fun _ => t.lt_of_mem_actives
  refine ⟨fun hd l hl => ?_, fun r l hl h hs => ?_, fun hd => ?_⟩
  · rw [rd_moved, rd_wrLanes t d _ hL F d l (lt_of_mem_destLanes hl), if_pos ⟨rfl, hd, (mem_destLanes.1 hl).1⟩,
      written_of_mem F hl, hF l hl]
  · rw [rd_moved, rd_wrLanes t d _ hL F r l hl, if_neg]
    rintro ⟨rfl, hd, hv⟩
    cases hr : isVec r with
    | false => exact hs ⟨rfl, hr⟩
    | true => exact h ⟨rfl, hd, mem_destLanes.2 ⟨hv, by simp [hr]⟩⟩
  · subst hd; rfl

/-! ### Pairs (R68) -/

theorem regAt_v {j : Fin 192} (h : j.val + 1 < 192) : regAt (.v j) 1 = .v ⟨j.val + 1, h⟩ := by
  simp [regAt, Reg.ofCode, Reg.code, h]

theorem regAt_s {j : Fin 64} (h : j.val + 1 < 64) : regAt (.s j) 1 = .s ⟨j.val + 1, h⟩ := by
  have hc : ¬ 192 + j.val + 1 < 192 := by omega
  rw [regAt, Reg.ofCode, Reg.code, dif_neg hc]
  refine congrArg Reg.s (Fin.ext ?_)
  have hj : (192 + j.val + 1 - 192) % 64 = j.val + 1 := by omega
  exact hj

/-- The second register of a pair that starts at an even one: another one, of the same kind (R68). -/
theorem regAt_one_of_even {d : Reg} (h : d.code % 2 = 0) : regAt d 1 ≠ d ∧ isVec (regAt d 1) = isVec d := by
  cases d with
  | v j =>
    simp only [Reg.code] at h
    rw [regAt_v (by omega)]
    simp [isVec, Fin.ext_iff]
  | s j =>
    simp only [Reg.code] at h
    rw [regAt_s (by omega)]
    simp [isVec, Fin.ext_iff]

theorem ne_s63_of_even {d : Reg} (h : d.code % 2 = 0) : d ≠ .s 63 := by
  rintro rfl; simp [Reg.code] at h

/-- A register read after `wrLanes64` of an even pair: a half of what was written, or what stood there (R68, R69). -/
theorem rd_wrLanes64 {d : Reg} (he : d.code % 2 = 0) (t : Team) (L : List Nat) (hL : ∀ l ∈ L, l < 1024) (F : Nat → BitVec 64)
    (r : Reg) (l : Nat) (hl : l < 1024) :
    (t.wrLanes64 d L F).rd r l =
      if r = regAt d 1 ∧ regAt d 1 ≠ .s 63 ∧ (isVec d = true → l ∈ L) then (if isVec d then F l else F 0).extractLsb' 32 32
      else if r = d ∧ (isVec d = true → l ∈ L) then (if isVec d then F l else F 0).setWidth 32
      else t.rd r l := by
  rw [Team.wrLanes64, rd_wrLanes _ _ _ hL _ _ _ hl, rd_wrLanes _ _ _ hL _ _ _ hl, (regAt_one_of_even he).2]
  simp only [ne_s63_of_even he, ne_eq, not_false_eq_true, true_and]
  cases isVec d <;> rfl

/-- `wrLanes64` writes both registers of an even pair and leaves the rest (R68, R69). -/
theorem wrote64_wrLanes64 {t : Team} {d : Reg} {F f : Nat → BitVec 64} (pc : Word) (he : d.code % 2 = 0)
    (hF : ∀ l ∈ destLanes t d, F l = f l) : Wrote64 t ((t.wrLanes64 d t.actives F).moved pc) d f := by
  have hrd := rd_wrLanes64 he t t.actives (fun _ => t.lt_of_mem_actives) F
  have hne := (regAt_one_of_even he).1
  refine ⟨fun l hl => ?_, fun r l hl h1 h2 => ?_, fun hv r l hl hn => ?_⟩
  · have hv := (mem_destLanes.1 hl).1
    rw [rd_moved, rd_moved, hrd _ _ (lt_of_mem_destLanes hl), hrd _ _ (lt_of_mem_destLanes hl), written_of_mem F hl, hF l hl]
    refine ⟨by rw [if_neg fun h => hne h.1.symm, if_pos ⟨rfl, hv⟩], ?_⟩
    by_cases h63 : regAt d 1 = .s 63
    · rw [if_pos h63, if_neg fun h => h.2.1 h63, if_neg fun h => hne h.1, h63, rd_s63]
    · rw [if_neg h63, if_pos ⟨rfl, h63, hv⟩]
  · rw [rd_moved, hrd r l hl, if_neg fun h => h2 h.1, if_neg fun h => h1 h.1]
  · rw [rd_moved, hrd r l hl, if_neg fun h => hn (h.2.2 hv), if_neg fun h => hn (h.2 hv)]

/-! ### The frame -/

/-- `u` is `t` but for registers and predicates. -/
def SameButRegs (t u : Team) : Prop := u = { t with vregs := u.vregs, sregs := u.sregs, preds := u.preds }

theorem SameButRegs.trans {t u v : Team} (h : SameButRegs t u) (k : SameButRegs u v) : SameButRegs t v := by
  unfold SameButRegs at *; rw [k, h]

theorem sameButRegs_wrLanes (t : Team) (d : Reg) (L : List Nat) (F : Nat → Word) : SameButRegs t (t.wrLanes d L F) := by
  unfold SameButRegs; rw [Team.wrLanes_eq]

theorem sameButRegs_wrLanes64 (t : Team) (d : Reg) (L : List Nat) (F : Nat → BitVec 64) :
    SameButRegs t (t.wrLanes64 d L F) := (sameButRegs_wrLanes _ _ _ _).trans (sameButRegs_wrLanes _ _ _ _)

theorem sameButRegs_writePred (t : Team) (p : Nat) (m v : LaneMask) : SameButRegs t (t.writePred p m v) := by
  unfold SameButRegs Team.writePred; split <;> rfl

@[simp] theorem wrLanes_preds (t : Team) (d : Reg) (L : List Nat) (F : Nat → Word) : (t.wrLanes d L F).preds = t.preds := by
  rw [Team.wrLanes_eq]

/-- The running team after the charge of `i`. -/
abbrev charged (i : Instr) (s : State) : Team := s.me.chargeI (issueCharge i s.me)

/-- The frame of a word whose body leaves the team `w`, which differs from the charged team in registers only. -/
theorem regsOnly_of_body {s : State} {i : Instr} {post : Team → Prop} {body : State → State} (w : Team) (hi : Issues i s)
    (he : exec i s = s.issue i body)
    (hb : body (s.setMe (charged i s)) = s.setMe (w.moved (s.me.pc + 4)))
    (hw : SameButRegs (charged i s) w)
    (hp : post (w.moved (s.me.pc + 4))) : RegsOnly s i post := by
  obtain ⟨hd, hs, -⟩ := hi
  refine ⟨w.moved (s.me.pc + 4), ?_, ?_, hp⟩
  · rw [he, State.issue_ok s i _ hd, State.charge_eq s _ hs, hb]
  · have hk : w.keeps = s.me.standing := by rw [hw]; simp [Team.keeps, Team.charged, Team.chargeI, hs]
    rw [Team.moved, hk, hw]
    rfl

/-- A word whose body is a register result gives that result. -/
theorem gives_result {s : State} {i : Instr} {d : Reg} {F : Team → Nat → Word} {f : Nat → Word}
    (he : exec i s = s.issue i fun s => s.result d F)
    (hF : Issues i s → ∀ l ∈ destLanes s.me d, F (charged i s) l = f l) : Gives s i d f := by
  intro hi
  refine regsOnly_of_body ((charged i s).wrLanes d (charged i s).actives (F (charged i s))) hi he ?_
    (sameButRegs_wrLanes _ _ _ _) ⟨wrLanes_preds _ _ _ _, wrote_chargeI.1 (wrote_wrLanes (s.me.pc + 4) ?_)⟩
  · rw [State.result_eq _ _ _ (by simpa using hi.2.2)]
    simp
  · simpa using hF hi

/-- A word whose body is a pair result gives that pair, when it starts at an even register (R68). -/
theorem gives64_result {s : State} {i : Instr} {d : Reg} {F : Team → Nat → BitVec 64} {f : Nat → BitVec 64}
    (he : exec i s = s.issue i fun s => s.result64 d F) (hd : decodeCheck i s.me = none → d.code % 2 = 0)
    (hF : ∀ l, F (charged i s) l = f l) : Gives64 s i d f := by
  intro hi
  refine regsOnly_of_body ((charged i s).wrLanes64 d (charged i s).actives (F (charged i s))) hi he ?_
    (sameButRegs_wrLanes64 _ _ _ _) ⟨?_, wrote64_chargeI.1 (wrote64_wrLanes64 (s.me.pc + 4) (hd hi.1) fun l _ => hF l)⟩
  · rw [State.result64_eq _ _ _ (by simpa using hi.2.2)]
    simp
  · exact (wrLanes_preds _ _ _ _).trans (wrLanes_preds _ _ _ _)

/-- A word whose body is a predicate result gives that predicate (R71, R294). -/
theorem givesPred_result {s : State} {i : Instr} {p : Fin 8} {F : Team → Nat → Bool} {f : Nat → Bool}
    (he : exec i s = s.issue i fun s => s.resultPred p F)
    (hF : ∀ l, F (charged i s) l = f l) : GivesPred s i p f := by
  intro hi
  obtain rfl : F (charged i s) = f := funext hF
  refine regsOnly_of_body ((charged i s).writePred p (charged i s).live ((charged i s).maskOf (F (charged i s))))
    hi he ?_ (sameButRegs_writePred _ _ _ _)
    ⟨Team.writePred_vregs _ _ _ _, Team.writePred_sregs _ _ _ _, fun q hq => ?_, fun hp l => ?_⟩
  · rw [State.resultPred_eq _ _ _ (by simpa using hi.2.2)]
    simp
  · rcases hq with hq | hq
    · exact Team.predMask_writePred_other _ p q _ _ hq
    · rw [hq, Team.writePred_7]; rfl
  · exact Team.pred_writePred (charged i s) p l (F (charged i s)) hp

end Sys2Proof.Compute
end

section
/-! O8 (R68, R311, R318): the moves and the 64-bit words on pairs, and the words that the decode check refuses (R275, R450). -/
namespace Sys2Proof.Compute

open Sys2Proof Sys2Proof.Machine Sys2Proof.Claims

/-! ### The decode check -/

theorem exists_leastSub {l : List Nat} {n : Nat} (h : n ∈ l) : ∃ m, leastSub l = some m := by
  cases l with
  | nil => cases h
  | cons x r =>
    rw [leastSub]
    split
    · exact ⟨_, rfl⟩
    · exact ⟨_, rfl⟩

/-- A word that breaks a rule of R450 is refused with cause 0x01. -/
theorem decodeCheck_of_breach {i : Instr} {t : Team} {n : Nat} (h : n ∈ breaches i t) :
    ∃ r, decodeCheck i t = some r ∧ r.cause = 0x01 := by
  obtain ⟨m, hm⟩ := exists_leastSub h
  exact ⟨preciseTrap 1 m (wordOf i) 0, by rw [decodeCheck, hm, Option.map_some], rfl⟩

/-- A register that its operand may not start at breaks SUB 0x05 (R68). -/
theorem mem_breaches_of_align {i : Instr} {r : Role} (t : Team) (h : r ∈ roles i) (ha : r.reg.code % r.align ≠ 0) :
    5 ∈ breaches i t := by
  have hany : (roles i).any (fun r => decide (r.reg.code % r.align ≠ 0)) = true :=
    List.any_eq_true.2 ⟨r, h, by simpa using ha⟩
  simp only [breaches, List.mem_append]
  rw [if_pos hany]
  simp

/-- A scalar register where the operand takes a vector one breaks SUB 0x03. -/
theorem mem_breaches_of_vector {i : Instr} {r : Role} (t : Team) (h : r ∈ roles i) (hk : r.kind = .vector)
    (hv : isVec r.reg = false) : 3 ∈ breaches i t := by
  have hany : (roles i).any (fun r => (r.kind = .scalar ∧ isVec r.reg) ∨ (r.kind = .vector ∧ !isVec r.reg)) = true :=
    List.any_eq_true.2 ⟨r, h, by simp [hk, hv]⟩
  simp only [breaches, List.mem_append]
  rw [if_pos hany]
  simp

/-- A word that issues breaks no rule. -/
theorem not_mem_breaches {i : Instr} {t : Team} (h : decodeCheck i t = none) (n : Nat) : n ∉ breaches i t := by
  intro hn
  obtain ⟨r, hr, -⟩ := decodeCheck_of_breach hn
  rw [h] at hr
  cases hr

/-- A word that breaks a rule takes the undefined-instruction trap (R275, R449). -/
theorem traps_of_breach {s : State} {i : Instr} {body : State → State} {n : Nat} (he : exec i s = s.issue i body)
    (h : n ∈ breaches i s.me) : ∃ r, decodeCheck i s.me = some r ∧ r.cause = 0x01 ∧ exec i s = .next (s.trap r) := by
  obtain ⟨r, hr, hc⟩ := decodeCheck_of_breach h
  exact ⟨r, hr, hc, he.trans (State.issue_trap s i body r hr)⟩

/-! ### O8 -/

theorem movesGiveTheirSource : Claims.MovesGiveTheirSource := fun s _ _ _ =>
  ⟨gives_result (exec_mov s) fun _ l _ => by simp [rdl],
   gives_result (exec_movi s) fun _ l _ => rfl,
   gives_result (exec_movhi s) fun _ l _ => by simp [rdl, loHalf]⟩

/-- A pair that the decode check lets pass starts at an even register (R68). -/
theorem even_of_role {i : Instr} {t : Team} {r : Role} (hr : r ∈ roles i) (ha : r.align = 2) (h : decodeCheck i t = none) :
    r.reg.code % 2 = 0 := by
  by_contra hne
  exact not_mem_breaches h 5 (mem_breaches_of_align t hr (by rwa [ha]))

/-- A word with a pair at an odd register takes the undefined-instruction trap (R68, R275). -/
theorem traps_of_odd_pair {s : State} {i : Instr} {body : State → State} (he : exec i s = s.issue i body)
    (h : ∃ r ∈ roles i, r.align = 2 ∧ r.reg.code % 2 = 1) :
    ∃ r, decodeCheck i s.me = some r ∧ r.cause = 0x01 ∧ exec i s = .next (s.trap r) := by
  obtain ⟨r, hr, ha, hodd⟩ := h
  exact traps_of_breach he (mem_breaches_of_align s.me hr (by rw [ha, hodd]; decide))

theorem roles_add64 (d a b : Reg) : roles (.add64 d a b) =
    [⟨d, .write, .any, 2, 2⟩, ⟨a, .read, .any, 2, 2⟩, ⟨b, .read, .any, 2, 2⟩] := rfl

theorem roles_sub64 (d a b : Reg) : roles (.sub64 d a b) =
    [⟨d, .write, .any, 2, 2⟩, ⟨a, .read, .any, 2, 2⟩, ⟨b, .read, .any, 2, 2⟩] := rfl

theorem roles_mad64 (d a b : Reg) : roles (.mad64 d a b) =
    [⟨d, .both, .any, 2, 2⟩, ⟨a, .read, .any, 2, 2⟩, ⟨b, .read, .any, 2, 2⟩] := rfl

theorem roles_lea (d a b : Reg) : roles (.lea d a b) =
    [⟨d, .write, .any, 2, 2⟩, ⟨a, .read, .any, 2, 2⟩, ⟨b, .read, .any, 1, 1⟩] := rfl

theorem pairArithmetic : Claims.PairArithmetic := by
  intro s d a b
  refine ⟨gives64_result (exec_add64 s) (even_of_role (r := ⟨d, .write, .any, 2, 2⟩) (by simp [roles_add64]) rfl) fun l => by simp,
    gives64_result (exec_sub64 s) (even_of_role (r := ⟨d, .write, .any, 2, 2⟩) (by simp [roles_sub64]) rfl) fun l => by simp,
    gives64_result (exec_mad64 s) (even_of_role (r := ⟨d, .both, .any, 2, 2⟩) (by simp [roles_mad64]) rfl) fun l => by simp,
    gives64_result (exec_lea s) (even_of_role (r := ⟨d, .write, .any, 2, 2⟩) (by simp [roles_lea]) rfl) fun l => by simp [rdl],
    fun h => ?_, fun h => ?_⟩
  · simp only [List.forall_mem_cons, List.not_mem_nil, false_implies, implies_true, and_true]
    refine ⟨traps_of_odd_pair (exec_add64 s) ?_, traps_of_odd_pair (exec_sub64 s) ?_,
      traps_of_odd_pair (exec_mad64 s) ?_, traps_of_odd_pair (exec_lea s) ?_⟩ <;>
    rcases h with h | h <;> simp [roles_add64, roles_sub64, roles_mad64, roles_lea, h]
  · simp only [List.forall_mem_cons, List.not_mem_nil, false_implies, implies_true, and_true]
    refine ⟨traps_of_odd_pair (exec_add64 s) ?_, traps_of_odd_pair (exec_sub64 s) ?_,
      traps_of_odd_pair (exec_mad64 s) ?_⟩ <;>
    simp [roles_add64, roles_sub64, roles_mad64, h]

/-- Settles O8: MOV, MOVI and MOVHI are register results, the 64-bit words are pair results of an even pair, and a pair at an
odd register breaks SUB 0x05 of the decode check. -/
theorem movesAndPairs : Obligations.MovesAndPairs := ⟨movesGiveTheirSource, pairArithmetic⟩

end Sys2Proof.Compute
end

section
/-! O9 (R293, R312 to R314): the integer arithmetic of one 32-bit element and of two 16-bit elements. -/
namespace Sys2Proof.Compute

open Sys2Proof Sys2Proof.Machine Sys2Proof.Claims

/-! ### Elements -/

/-- An element function on elements of `w` bits. -/
def elem (f : Nat → Nat → Nat → Nat → Nat) (w : Nat) (x y z : BitVec w) : BitVec w :=
  BitVec.ofNat w (f w x.toNat y.toNat z.toNat)

theorem halfOf_zero (x : Word) : halfOf x 0 = (loHalf x).toNat := by
  simp [halfOf, bitsOf, loHalf]

theorem halfOf_one (x : Word) : halfOf x 1 = (hiHalf x).toNat := by
  simp [halfOf, bitsOf, hiHalf, Nat.shiftRight_eq_div_pow]

/-- One 32-bit element (R293). -/
theorem perElem_word (f : Nat → Nat → Nat → Nat → Nat) (a b d : Word) : perElem false f a b d = elem f 32 a b d := rfl

/-- Two 16-bit elements, each on its own (R293). -/
theorem perElem_halves (f : Nat → Nat → Nat → Nat → Nat) (a b d : Word) :
    perElem true f a b d =
      elem f 16 (hiHalf a) (hiHalf b) (hiHalf d) ++ elem f 16 (loHalf a) (loHalf b) (loHalf d) := by
  simp only [perElem, if_true, halfOf_zero, halfOf_one, elem]
  refine BitVec.eq_of_toNat_eq ?_
  rw [BitVec.toNat_append, ← Nat.shiftLeft_add_eq_or_of_lt (BitVec.isLt _)]
  simp only [BitVec.toNat_ofNat, Nat.shiftLeft_eq]
  omega

@[simp] theorem hiHalf_append (x y : BitVec 16) : hiHalf (x ++ y) = x := BitVec.extractLsb'_append_eq_left

@[simp] theorem loHalf_append (x y : BitVec 16) : loHalf (x ++ y) = y := BitVec.extractLsb'_append_eq_right

theorem intHalves_word {et : Nat} (h : et ≠ 4) : intHalves et = false := by simp [intHalves, h]

theorem sext_toNat {w : Nat} (hw : 0 < w) (x : BitVec w) : sext w x.toNat = x.toInt := by
  obtain ⟨w, rfl⟩ : ∃ v, w = v + 1 := ⟨w - 1, by omega⟩
  have hlt := x.isLt
  rw [sext, Nat.mod_eq_of_lt hlt, BitVec.toInt_eq_toNat_cond]
  have hp : 2 ^ (w + 1) = 2 * 2 ^ w := Nat.pow_succ'
  have : x.toNat < 2 ^ (w + 1 - 1) ↔ 2 * x.toNat < 2 ^ (w + 1) := by rw [Nat.add_sub_cancel]; omega
  simp only [this]
  split <;> simp

theorem ofNat_wrapNat (w : Nat) (x : Int) : BitVec.ofNat w (wrapNat w x) = BitVec.ofInt w x := by
  rw [wrapNat, ← BitVec.toNat_ofInt, BitVec.ofNat_toNat, BitVec.setWidth_eq]

/-- An exact result narrowed once: wrapped without SAT, clamped to the signed range with it (R95, R312). -/
def narrowed (sat : Bool) (w : Nat) (x : Int) : BitVec w := if sat then clampTo w x else BitVec.ofInt w x

theorem ofNat_narrow (w : Nat) (sat : Bool) (x : Int) : BitVec.ofNat w (narrow w sat x) = narrowed sat w x := by
  cases sat with
  | false => exact ofNat_wrapNat w x
  | true =>
    have hp : 0 < 2 ^ (w - 1) := Nat.two_pow_pos _
    rw [narrow, if_pos rfl, ofNat_wrapNat, narrowed, if_pos rfl, clampTo]
    congr 1
    generalize 2 ^ (w - 1) = m at *
    split
    · omega
    · split <;> omega

/-! ### ADD, ADDI, SUB, MUL and MAD (R312) -/

section
variable (sat : Bool) (g : Int → Int → Int → Int)

theorem elem_exact {w : Nat} (hw : 0 < w) (x y z : BitVec w) :
    elem (fun w x y z => narrow w sat (g (sext w x) (sext w y) (sext w z))) w x y z =
      narrowed sat w (g x.toInt y.toInt z.toInt) := by
  simp only [elem, ofNat_narrow, sext_toNat hw]

theorem exactOp_word {et : Nat} (h : et ≠ 4) (a b d : Word) :
    exactOp et sat g a b d = narrowed sat 32 (g a.toInt b.toInt d.toInt) := by
  rw [exactOp, intHalves_word h, perElem_word, elem_exact sat g (Nat.zero_lt_succ 31)]

theorem exactOp_halves (a b d : Word) : exactOp 4 sat g a b d =
    narrowed sat 16 (g (hiHalf a).toInt (hiHalf b).toInt (hiHalf d).toInt) ++
      narrowed sat 16 (g (loHalf a).toInt (loHalf b).toInt (loHalf d).toInt) := by
  rw [exactOp, show intHalves 4 = true from rfl, perElem_halves, elem_exact sat g (Nat.zero_lt_succ 15),
    elem_exact sat g (Nat.zero_lt_succ 15)]

end

/-! A wrapped sum, difference or product of the signed values is that of the words. -/

theorem ofInt_toInt_add {w : Nat} (x y : BitVec w) : BitVec.ofInt w (x.toInt + y.toInt) = x + y := by
  simp [BitVec.ofInt_add]

theorem ofInt_toInt_sub {w : Nat} (x y : BitVec w) : BitVec.ofInt w (x.toInt - y.toInt) = x - y := by
  rw [Int.sub_eq_add_neg, BitVec.ofInt_add, BitVec.ofInt_neg, BitVec.ofInt_toInt, BitVec.ofInt_toInt, BitVec.sub_eq_add_neg]

theorem ofInt_toInt_mul {w : Nat} (x y : BitVec w) : BitVec.ofInt w (x.toInt * y.toInt) = x * y := by
  simp [BitVec.ofInt_mul]

theorem ofInt_toInt_mad {w : Nat} (x y z : BitVec w) : BitVec.ofInt w (x.toInt * y.toInt + z.toInt) = x * y + z := by
  simp [BitVec.ofInt_add, BitVec.ofInt_mul]

theorem immElems_word {et : Nat} (h : et ≠ 4) (imm : BitVec 16) : immElems et imm = imm.signExtend 32 := by
  simp [immElems, intHalves_word h]

theorem immElems_halves (imm : BitVec 16) : immElems 4 imm = imm ++ imm := rfl

theorem wordArithmeticWraps : Claims.WordArithmeticWraps := by
  intro s d a b imm he hs
  refine ⟨gives_result (exec_add s) fun _ l _ => ?_, gives_result (exec_addi s) fun _ l _ => ?_,
    gives_result (exec_sub s) fun _ l _ => ?_, gives_result (exec_mul s) fun _ l _ => ?_,
    gives_result (exec_mad s) fun _ l _ => ?_⟩
  · simp [rdl, hs, addOp, exactOp_word _ _ he, narrowed, ofInt_toInt_add]
  · simp [rdl, hs, addOp, exactOp_word _ _ he, narrowed, ofInt_toInt_add, immElems_word he]
  · simp [rdl, hs, subOp, exactOp_word _ _ he, narrowed, ofInt_toInt_sub]
  · simp [rdl, hs, mulOp, exactOp_word _ _ he, narrowed, ofInt_toInt_mul]
  · simp [rdl, hs, madOp, exactOp_word _ _ he, narrowed, ofInt_toInt_mad]

theorem wordArithmeticSaturates : Claims.WordArithmeticSaturates := by
  intro s d a b imm he hs
  have himm : (imm.signExtend 32).toInt = imm.toInt := BitVec.toInt_signExtend_of_le (by decide)
  refine ⟨gives_result (exec_add s) fun _ l _ => ?_, gives_result (exec_addi s) fun _ l _ => ?_,
    gives_result (exec_sub s) fun _ l _ => ?_, gives_result (exec_mul s) fun _ l _ => ?_,
    gives_result (exec_mad s) fun _ l _ => ?_⟩
  · simp [rdl, hs, addOp, exactOp_word _ _ he, narrowed]
  · simp [rdl, hs, addOp, exactOp_word _ _ he, narrowed, immElems_word he, himm]
  · simp [rdl, hs, subOp, exactOp_word _ _ he, narrowed]
  · simp [rdl, hs, mulOp, exactOp_word _ _ he, narrowed]
  · simp [rdl, hs, madOp, exactOp_word _ _ he, narrowed]

/-! ### MIN, MAX, MINU, MAXU, ABS and NEG (R314) -/

section
variable {w : Nat} (hw : 0 < w) (x y z : BitVec w)
include hw

theorem elem_min : elem (fun w x y _ => if sext w y < sext w x then y else x) w x y z = if y.slt x then y else x := by
  simp only [elem, sext_toNat hw, BitVec.slt_iff_toInt_lt]
  split <;> simp

theorem elem_max : elem (fun w x y _ => if sext w x < sext w y then y else x) w x y z = if x.slt y then y else x := by
  simp only [elem, sext_toNat hw, BitVec.slt_iff_toInt_lt]
  split <;> simp

theorem elem_neg : elem (fun w x _ _ => wrapNat w (-(sext w x))) w x y z = -x := by
  simp only [elem, sext_toNat hw, ofNat_wrapNat, BitVec.ofInt_neg, BitVec.ofInt_toInt]

theorem elem_abs : elem (fun w x _ _ => wrapNat w ((sext w x).natAbs : Int)) w x y z = if x.msb then -x else x := by
  simp only [elem, sext_toNat hw, ofNat_wrapNat, BitVec.msb_eq_toInt, decide_eq_true_eq]
  split
  · rw [Int.ofNat_natAbs_of_nonpos (by omega), BitVec.ofInt_neg, BitVec.ofInt_toInt]
  · rw [Int.natAbs_of_nonneg (by omega), BitVec.ofInt_toInt]

end

theorem elem_minu {w : Nat} (x y z : BitVec w) : elem (fun _ x y _ => min x y) w x y z = if y.ult x then y else x := by
  simp only [elem, BitVec.ult_iff_lt, BitVec.lt_def, Nat.min_def]
  by_cases h : y.toNat < x.toNat
  · rw [if_pos h, if_neg (by omega)]; simp
  · rw [if_neg h, if_pos (by omega)]; simp

theorem elem_maxu {w : Nat} (x y z : BitVec w) : elem (fun _ x y _ => max x y) w x y z = if x.ult y then y else x := by
  simp only [elem, BitVec.ult_iff_lt, BitVec.lt_def, Nat.max_def]
  by_cases h : x.toNat < y.toNat
  · rw [if_pos h, if_pos (by omega)]; simp
  · rw [if_neg h]
    split
    · rw [show y.toNat = x.toNat by omega]; simp
    · simp

section
variable {et : Nat} (h : et ≠ 4) (a b : Word)
include h

theorem minOp_word : minOp et a b = if b.slt a then b else a := by
  rw [minOp, intHalves_word h, perElem_word, elem_min (Nat.zero_lt_succ 31)]

theorem maxOp_word : maxOp et a b = if a.slt b then b else a := by
  rw [maxOp, intHalves_word h, perElem_word, elem_max (Nat.zero_lt_succ 31)]

theorem minuOp_word : minuOp et a b = if b.ult a then b else a := by
  rw [minuOp, intHalves_word h, perElem_word, elem_minu]

theorem maxuOp_word : maxuOp et a b = if a.ult b then b else a := by
  rw [maxuOp, intHalves_word h, perElem_word, elem_maxu]

theorem absOp_word : absOp et a = if a.msb then -a else a := by
  rw [absOp, intHalves_word h, perElem_word, elem_abs (Nat.zero_lt_succ 31)]

theorem negOp_word : negOp et a = -a := by
  rw [negOp, intHalves_word h, perElem_word, elem_neg (Nat.zero_lt_succ 31)]

end

theorem absOp_halves (a : Word) : absOp 4 a = (if (hiHalf a).msb then -hiHalf a else hiHalf a) ++
    (if (loHalf a).msb then -loHalf a else loHalf a) := by
  rw [absOp, show intHalves 4 = true from rfl, perElem_halves, elem_abs (Nat.zero_lt_succ 15), elem_abs (Nat.zero_lt_succ 15)]

theorem packedArithmeticPerElement : Claims.PackedArithmeticPerElement := by
  intro s d a b imm he each clamped
  refine ⟨fun hs => ⟨gives_result (exec_add s) fun _ l _ => ?_, gives_result (exec_addi s) fun _ l _ => ?_,
      gives_result (exec_sub s) fun _ l _ => ?_, gives_result (exec_mul s) fun _ l _ => ?_,
      gives_result (exec_mad s) fun _ l _ => ?_⟩,
    fun hs => ⟨gives_result (exec_add s) fun _ l _ => ?_, gives_result (exec_addi s) fun _ l _ => ?_,
      gives_result (exec_sub s) fun _ l _ => ?_, gives_result (exec_mul s) fun _ l _ => ?_,
      gives_result (exec_mad s) fun _ l _ => ?_⟩,
    gives_result (exec_min s) fun _ l _ => ?_, gives_result (exec_max s) fun _ l _ => ?_,
    gives_result (exec_minu s) fun _ l _ => ?_, gives_result (exec_maxu s) fun _ l _ => ?_,
    gives_result (exec_abs s) fun _ l _ => ?_, gives_result (exec_neg s) fun _ l _ => ?_⟩
  · simp [each, rdl, he, hs, addOp, exactOp_halves, narrowed, ofInt_toInt_add]
  · simp [each, rdl, he, hs, addOp, exactOp_halves, narrowed, ofInt_toInt_add, immElems_halves]
  · simp [each, rdl, he, hs, subOp, exactOp_halves, narrowed, ofInt_toInt_sub]
  · simp [each, rdl, he, hs, mulOp, exactOp_halves, narrowed, ofInt_toInt_mul]
  · simp [each, rdl, he, hs, madOp, exactOp_halves, narrowed, ofInt_toInt_mad]
  · simp [clamped, rdl, he, hs, addOp, exactOp_halves, narrowed]
  · simp [clamped, rdl, he, hs, addOp, exactOp_halves, narrowed, immElems_halves]
  · simp [clamped, rdl, he, hs, subOp, exactOp_halves, narrowed]
  · simp [clamped, rdl, he, hs, mulOp, exactOp_halves, narrowed]
  · simp [clamped, rdl, he, hs, madOp, exactOp_halves, narrowed]
  · simp [each, rdl, he, minOp, intHalves, perElem_halves, elem_min]
  · simp [each, rdl, he, maxOp, intHalves, perElem_halves, elem_max]
  · simp [each, rdl, he, minuOp, intHalves, perElem_halves, elem_minu]
  · simp [each, rdl, he, maxuOp, intHalves, perElem_halves, elem_maxu]
  · simp [each, rdl, he, absOp_halves]
  · simp [each, rdl, he, negOp, intHalves, perElem_halves, elem_neg]

/-! ### MULHI and MULHU (R313) -/

theorem mulhiOp_eq (a b : Word) : mulhiOp a b = (a.signExtend 64 * b.signExtend 64).extractLsb' 32 32 := by
  rw [← ofInt_toInt_mul (a.signExtend 64), BitVec.toInt_signExtend_of_le (by decide), BitVec.toInt_signExtend_of_le (by decide)]
  refine BitVec.eq_of_toNat_eq ?_
  rw [mulhiOp, BitVec.toNat_ofInt, BitVec.extractLsb'_toNat, BitVec.toNat_ofInt, Nat.shiftRight_eq_div_pow]
  generalize a.toInt * b.toInt = x at *
  omega

theorem mulhuOp_eq (a b : Word) : mulhuOp a b = (a.zeroExtend 64 * b.zeroExtend 64).extractLsb' 32 32 := by
  have hlt : a.toNat * b.toNat < 2 ^ 32 * 2 ^ 32 := Nat.mul_lt_mul'' a.isLt b.isLt
  refine BitVec.eq_of_toNat_eq ?_
  rw [mulhuOp, BitVec.toNat_ofNat, BitVec.extractLsb'_toNat, BitVec.toNat_mul,
    BitVec.toNat_setWidth_of_le (by decide), BitVec.toNat_setWidth_of_le (by decide), Nat.mod_eq_of_lt (b := 2 ^ 64) hlt,
    Nat.shiftRight_eq_div_pow]

theorem extremesAndHighProducts : Claims.ExtremesAndHighProducts := by
  intro s d a b
  refine ⟨⟨gives_result (exec_mulhi s) fun _ l _ => ?_, gives_result (exec_mulhu s) fun _ l _ => ?_⟩,
    fun he => ⟨gives_result (exec_min s) fun _ l _ => ?_, gives_result (exec_max s) fun _ l _ => ?_,
      gives_result (exec_minu s) fun _ l _ => ?_, gives_result (exec_maxu s) fun _ l _ => ?_,
      gives_result (exec_abs s) fun _ l _ => ?_, gives_result (exec_neg s) fun _ l _ => ?_⟩⟩
  · simp [rdl, mulhiOp_eq]
  · simp [rdl, mulhuOp_eq]
  · simp only [Team.etype_chargeI, Team.rd_chargeI]; exact minOp_word he _ _
  · simp only [Team.etype_chargeI, Team.rd_chargeI]; exact maxOp_word he _ _
  · simp only [Team.etype_chargeI, Team.rd_chargeI]; exact minuOp_word he _ _
  · simp only [Team.etype_chargeI, Team.rd_chargeI]; exact maxuOp_word he _ _
  · simp only [Team.etype_chargeI, Team.rd_chargeI]; exact absOp_word he _
  · simp [rdl, negOp_word he]

/-- Settles O9: each word is a register result, and its element function is the one of its table in each width. -/
theorem integerArithmetic : Obligations.IntegerArithmetic :=
  ⟨wordArithmeticWraps, wordArithmeticSaturates, packedArithmeticPerElement, extremesAndHighProducts⟩

end Sys2Proof.Compute
end

section
/-! O10 (R315 to R317): logic, bit counting, shifts by any amount, and bit fields. -/
namespace Sys2Proof.Compute

open Sys2Proof Sys2Proof.Machine Sys2Proof.Claims

/-! ### Bit counting (R315) -/

theorem countBits_eq_countP (x : Nat) : ∀ n, countBits x n = (List.range n).countP fun i => x.testBit i := by
  intro n
  induction n with
  | zero => rfl
  | succ n ih => simp [countBits, ih, List.range_succ, List.countP_append, List.countP_singleton]

theorem popcOp_eq (a : Word) : popcOp a = BitVec.ofNat 32 ((List.range 32).countP fun i => a.getLsbD i) := by
  rw [popcOp, countBits_eq_countP]; rfl

/-- `takeWhile` over a range stops where its test first fails. -/
theorem length_takeWhile_range {p : Nat → Bool} {n k : Nat} (hk : k ≤ n) (hp : ∀ i < k, p i = true)
    (hn : k < n → p k = false) : ((List.range n).takeWhile p).length = k := by
  obtain ⟨m, rfl⟩ := Nat.exists_eq_add_of_le hk
  rw [List.range_add, List.takeWhile_append_of_pos (by simpa using hp)]
  cases m with
  | zero => simp
  | succ m => simp [List.range_succ_eq_map, hn (by omega)]

/-- The leading zeros of a word that is not zero are those above its highest set bit. -/
theorem clzOp_eq (a : Word) :
    clzOp a = BitVec.ofNat 32 (((List.range 32).takeWhile fun i => !a.getMsbD i).length) := by
  rw [clzOp]
  split
  · subst_vars; decide
  · rename_i ha
    have hne : a.toNat ≠ 0 := fun h => ha (BitVec.eq_of_toNat_eq h)
    have hlog : a.toNat.log2 < 32 := (Nat.log2_lt hne).2 a.isLt
    rw [length_takeWhile_range (k := 31 - a.toNat.log2) (by omega)]
    · intro i hi
      have : a.toNat < 2 ^ (31 - i) := (Nat.log2_lt hne).1 (by omega)
      simp [BitVec.getMsbD, BitVec.getLsbD, Nat.testBit_lt_two_pow this]
    · intro h
      have hb := Nat.testBit_log2 hne
      simp only [BitVec.getMsbD, BitVec.getLsbD, h, decide_true, Bool.true_and, Bool.not_eq_false']
      rwa [show 32 - 1 - (31 - a.toNat.log2) = a.toNat.log2 by omega]

theorem brevOp_eq (a : Word) : brevOp a = a.reverse := by
  have hf : (fun acc i => acc + (if a.toNat.testBit (31 - i) then 2 ^ i else 0)) =
      fun acc i => if a.toNat.testBit (31 - i) then acc + 2 ^ i else acc := by
    funext acc i; split <;> rfl
  refine BitVec.eq_of_getLsbD_eq fun i hi => ?_
  rw [brevOp, hf, BitVec.getLsbD_ofNat, (foldl_bits _ 32).2 i, BitVec.getLsbD_reverse, BitVec.getMsbD]
  simp [hi, BitVec.getLsbD]

theorem logicAndBitCounts : Claims.LogicAndBitCounts := by
  intro s d a b
  refine ⟨gives_result (exec_and s) fun _ l _ => ?_, gives_result (exec_or s) fun _ l _ => ?_,
    gives_result (exec_xor s) fun _ l _ => ?_, gives_result (exec_andn s) fun _ l _ => ?_,
    gives_result (exec_not s) fun _ l _ => ?_, gives_result (exec_popc s) fun _ l _ => ?_,
    gives_result (exec_clz s) fun _ l _ => ?_, gives_result (exec_brev s) fun _ l _ => ?_⟩
  · simp [rdl]
  · simp [rdl]
  · simp [rdl]
  · simp [rdl]
  · simp [rdl]
  · simp [rdl, popcOp_eq]
  · simp [rdl, clzOp_eq]
  · simp [rdl, brevOp_eq]

/-! ### Shifts (R316) -/

theorem sarOp_eq (a b : Word) : sarOp a b =
    if b.toNat < 32 then a.sshiftRight b.toNat else if a.msb then 0xFFFFFFFF else 0 := by
  rw [sarOp]
  by_cases h : b.toNat < 32
  · rw [if_pos h, Nat.min_eq_left (by omega)]
  · rw [if_neg h, Nat.min_eq_right (by omega)]
    refine BitVec.eq_of_getLsbD_eq fun i hi => ?_
    have hbit : (a.sshiftRight 31).getLsbD i = a.msb := by
      rw [BitVec.getLsbD_sshiftRight, BitVec.msb_eq_getLsbD_last]
      by_cases hz : i = 0
      · subst hz; simp
      · simp [show ¬ 31 + i < 32 by omega, hi]
    rw [hbit]
    cases a.msb with
    | false => simp
    | true => rw [if_pos rfl, show (0xFFFFFFFF : Word) = BitVec.allOnes 32 from rfl, BitVec.getLsbD_allOnes]; simp [hi]

theorem shiftsByAnyAmount : Claims.ShiftsByAnyAmount := by
  intro s d a b
  refine ⟨gives_result (exec_shl s) fun _ l _ => ?_, gives_result (exec_shr s) fun _ l _ => ?_,
    gives_result (exec_sar s) fun _ l _ => ?_, gives_result (exec_rol s) fun _ l _ => ?_⟩ <;>
  simp only [Team.rd_chargeI]
  · rfl
  · rfl
  · exact sarOp_eq _ _
  · rfl

/-! ### Bit fields (R317) -/

theorem fieldPos_eq (b : Word) : fieldPos b = b.toNat % 32 := by simp [fieldPos, bitsOf]

theorem fieldWidth_eq (b : Word) : fieldWidth b = min (b.toNat / 256 % 64) 32 := rfl

theorem getLsbD_bfxOp (a b : Word) {i : Nat} (hi : i < 32) :
    (bfxOp a b).getLsbD i = (decide (i < fieldWidth b) && a.getLsbD (fieldPos b + i)) := by
  rw [bfxOp, BitVec.getLsbD_ofNat, Nat.testBit_mod_two_pow, Nat.testBit_div_two_pow, decide_eq_true hi, Bool.true_and,
    Nat.add_comm]
  rfl

theorem getLsbD_bfiOp (a b d : Word) {i : Nat} (hi : i < 32) :
    (bfiOp a b d).getLsbD i =
      if fieldPos b ≤ i ∧ i < fieldPos b + fieldWidth b then a.getLsbD (i - fieldPos b) else d.getLsbD i := by
  simp only [bfiOp, BitVec.getLsbD_or, BitVec.getLsbD_and, BitVec.getLsbD_not, BitVec.getLsbD_ofNat, hi, decide_true,
    Bool.true_and, Nat.testBit_mul_two_pow, Nat.testBit_two_pow_sub_one, Nat.testBit_mod_two_pow]
  generalize fieldPos b = p
  generalize fieldWidth b = w
  by_cases hp : p ≤ i
  · by_cases hw : i - p < w
    · simp [hp, hw, show i < p + w by omega, BitVec.getLsbD]
    · simp [hp, hw, show ¬ i < p + w by omega]
  · simp [hp]

theorem bitFieldsBitByBit : Claims.BitFieldsBitByBit := by
  intro s d a b
  refine ⟨⟨_, gives_result (exec_bfx s) fun _ l _ => rfl, fun l i hi => ?_⟩,
    ⟨_, gives_result (exec_bfi s) fun _ l _ => rfl, fun l i hi => ?_⟩⟩
  · simp only [Team.rd_chargeI, getLsbD_bfxOp _ _ hi, fieldPos_eq, fieldWidth_eq]; rfl
  · simp only [Team.rd_chargeI, getLsbD_bfiOp _ _ _ hi, fieldPos_eq, fieldWidth_eq]; rfl

/-- Settles O10: each word is a register result whose function is the table's, bit by bit. -/
theorem logicShiftsAndBitFields : Obligations.LogicShiftsAndBitFields :=
  ⟨logicAndBitCounts, shiftsByAnyAmount, bitFieldsBitByBit⟩

end Sys2Proof.Compute
end

section
/-! O11 (R280, R319 to R321): the compares, selection and the predicate words. -/
namespace Sys2Proof.Compute

open Sys2Proof Sys2Proof.Machine Sys2Proof.Claims

/-! ### CMP and CMPU (R280, R319) -/

/-- The six conditions of R280 in terms of the order alone. -/
def condTest (cond : Fin 8) {w : Nat} (lt : BitVec w → BitVec w → Bool) (x y : BitVec w) : Bool :=
  if cond = 0 then x == y else if cond = 1 then x != y else if cond = 2 then lt x y
  else if cond = 3 then !lt y x else if cond = 4 then lt y x else !lt x y

/-- In a total order the conditions need no equality test. -/
theorem condHolds_eq_condTest (cond : Fin 8) {w : Nat} {lt : BitVec w → BitVec w → Bool} {x y : BitVec w}
    (total : lt y x = (!lt x y && !(x == y))) : condHolds cond.val (lt x y) (x == y) = condTest cond lt x y := by
  fin_cases cond <;> simp [condHolds, condTest, total, bne]

/-- A comparison of injective keys is total. -/
theorem lt_total_of_key {α β : Type} [DecidableEq α] [LinearOrder β] {key : α → β} (hk : Function.Injective key)
    (x y : α) :
    decide (key y < key x) = (!decide (key x < key y) && !(x == y)) := by
  rcases lt_trichotomy (key x) (key y) with h | h | h
  · simp [h, h.le]
  · simp [hk h]
  · have hne : x ≠ y := fun e => h.ne (by rw [e])
    simp [h, h.le, hne]

theorem slt_total {w : Nat} (x y : BitVec w) : y.slt x = (!x.slt y && !(x == y)) := by
  simpa only [BitVec.slt_eq_decide] using lt_total_of_key (key := BitVec.toInt) (fun _ _ => BitVec.eq_of_toInt_eq) x y

theorem ult_total {w : Nat} (x y : BitVec w) : y.ult x = (!x.ult y && !(x == y)) :=
  lt_total_of_key (key := BitVec.toNat) (fun _ _ => BitVec.eq_of_toNat_eq) x y

/-- The order of CMP or of CMPU. -/
def cmpLt (signed : Bool) {w : Nat} (x y : BitVec w) : Bool := if signed then x.slt y else x.ult y

theorem cmpLt_total (signed : Bool) {w : Nat} (x y : BitVec w) : cmpLt signed y x = (!cmpLt signed x y && !(x == y)) := by
  cases signed with
  | false => exact ult_total x y
  | true => exact slt_total x y

theorem cmpElem_eq (signed : Bool) (cond : Fin 8) {w : Nat} (hw : 0 < w) (x y : BitVec w) :
    condHolds cond.val (if signed then decide (sext w x.toNat < sext w y.toNat) else decide (x.toNat < y.toNat))
      (decide (x.toNat = y.toNat)) = condTest cond (cmpLt signed) x y := by
  rw [← condHolds_eq_condTest cond (cmpLt_total signed x y)]
  congr 1
  · rw [sext_toNat hw, sext_toNat hw, cmpLt, BitVec.slt_eq_decide]; rfl
  · simp only [BitVec.toNat_inj]; rfl

theorem cmpOp_word {et : Nat} (h : et ≠ 4) (signed : Bool) (cond : Fin 8) (a b : Word) :
    cmpOp et signed cond.val a b = condTest cond (cmpLt signed) a b := by
  rw [cmpOp, intHalves_word h]
  exact cmpElem_eq signed cond (Nat.zero_lt_succ 31) a b

theorem cmpOp_halves (signed : Bool) (cond : Fin 8) (a b : Word) :
    cmpOp 4 signed cond.val a b =
      (condTest cond (cmpLt signed) (hiHalf a) (hiHalf b) && condTest cond (cmpLt signed) (loHalf a) (loHalf b)) := by
  simp only [cmpOp, show intHalves 4 = true from rfl, if_true, halfOf_zero, halfOf_one,
    cmpElem_eq signed cond (Nat.zero_lt_succ 15)]
  exact Bool.and_comm ..

/-- How a condition enters its predicate (R280). -/
theorem combine_eq (comb : Fin 4) (old c : Bool) :
    combine comb.val old c = if comb = 0 then c else if comb = 1 then old && c else old || c := by
  fin_cases comb <;> rfl

theorem comparesIntoPredicates : Claims.ComparesIntoPredicates := by
  intro s cond comb pd a b
  refine ⟨fun he => ⟨givesPred_result (exec_cmp s) fun l => ?_, givesPred_result (exec_cmpu s) fun l => ?_⟩,
    fun he => ⟨givesPred_result (exec_cmp s) fun l => ?_, givesPred_result (exec_cmpu s) fun l => ?_⟩⟩ <;>
  simp only [Team.rd_chargeI, Team.pred_chargeI, Team.etype_chargeI, combine_eq]
  · rw [cmpOp_word he]; rfl
  · rw [cmpOp_word he]; rfl
  · rw [he, cmpOp_halves]; rfl
  · rw [he, cmpOp_halves]; rfl

/-! ### SEL and the predicate words (R320, R321) -/

/-- The body of SEL for words that name a vector register, and for those of the scalar datapath (R320). -/
theorem exec_sel_vector {d a b : Reg} (s : State) (h : namesVector (.sel d a b) = true) :
    exec (.sel d a b) s = s.issue (.sel d a b) fun s => s.result d fun t l => if t.guard l then t.rd a l else t.rd b l := by
  rw [exec_sel, execSel]; simp only [h, if_true]

theorem exec_sel_scalar {d a b : Reg} (s : State) (h : namesVector (.sel d a b) = false) :
    exec (.sel d a b) s = s.issue (.sel d a b) fun s => s.result d fun t _ => if t.guardAny then t.rd a 0 else t.rd b 0 := by
  rw [exec_sel, execSel]; simp only [h, Bool.false_eq_true, if_false]

theorem roles_ptov (d : Reg) (p : Fin 8) : roles (.ptov d p) = [⟨d, .write, .vector, 1, 1⟩] := rfl

theorem selectionAndPredicates : Claims.SelectionAndPredicates := by
  intro s d a b p q r
  refine ⟨fun h => gives_result (exec_sel_vector s h) fun _ l _ => ?_,
    fun h => gives_result (exec_sel_scalar s h) fun _ l _ => ?_,
    givesPred_result (exec_pand s) fun l => ?_, givesPred_result (exec_por s) fun l => ?_,
    givesPred_result (exec_pxor s) fun l => ?_, givesPred_result (exec_pnot s) fun l => ?_,
    gives_result (exec_ptov s) fun _ l _ => ?_, givesPred_result (exec_vtop s) fun l => ?_, fun h => ?_⟩
  · simp only [Team.guard_chargeI, Team.rd_chargeI]; rfl
  · simp only [Team.guardAny_chargeI, Team.rd_chargeI]; rfl
  · simp
  · simp
  · simp
  · simp
  · simp only [Team.pred_chargeI]; rfl
  · simp [rdl, bne, Bool.beq_eq_decide_eq]
  · exact traps_of_breach (exec_ptov s)
      (mem_breaches_of_vector (r := ⟨d, .write, .vector, 1, 1⟩) s.me (by simp [roles_ptov]) rfl h)

/-- Settles O11: the compares and predicate words are predicate results, SEL and PTOV are register results, and PTOV with a scalar D
breaks SUB 0x03 of the decode check. -/
theorem comparesAndSelection : Obligations.ComparesAndSelection := ⟨comparesIntoPredicates, selectionAndPredicates⟩

end Sys2Proof.Compute
end

section
/-! The clauses of O16 on the shuffles, the moves of single lanes and VOTE (R333 to R336): all of them hold, that of WRLANE for
teams of at most 1,024 lanes. -/
namespace Sys2Proof.Compute

open Sys2Proof Sys2Proof.Machine Sys2Proof.Claims

/-! ### Shuffles (R333) -/

theorem shuffled_chargeI (t : Team) (n : Nat) (a : Reg) (l : Nat) (j : Int) :
    shuffled (t.chargeI n) a l j = shuffled t a l j := by simp [shuffled]

theorem shuffled_natCast (t : Team) (a : Reg) (l j : Nat) :
    shuffled t a l (j : Int) = if j < t.lanes then t.rd a j else t.rd a l := by
  simp [shuffled]

theorem shuffled_neg (t : Team) (a : Reg) (l : Nat) {j : Int} (h : j < 0) : shuffled t a l j = t.rd a l := by
  rw [shuffled, if_neg (by omega)]

theorem shufflesReadTheirSourceLane : Claims.ShufflesReadTheirSourceLane := by
  intro s d a b
  refine ⟨gives_result (exec_shfl s) fun _ l _ => ?_, gives_result (exec_shflup s) fun _ l _ => ?_,
    gives_result (exec_shfldn s) fun _ l _ => ?_, gives_result (exec_shflx s) fun _ l _ => ?_,
    gives_result (exec_bcast s) fun _ l _ => ?_⟩ <;>
  simp only [shuffled_chargeI, Team.rd_chargeI]
  · exact shuffled_natCast s.me a l _
  · rw [rdl]
    split
    · rename_i h
      rw [← Nat.cast_sub h]
      exact shuffled_natCast s.me a l _
    · exact shuffled_neg s.me a l (by omega)
  · rw [← Nat.cast_add]
    exact shuffled_natCast s.me a l _
  · exact shuffled_natCast s.me a l _
  · exact shuffled_natCast s.me a l _

/-! ### RDFL, RDLANE and WRLANE (R334, R335) -/

theorem gives_rdfl (s : State) (d a : Reg) :
    Gives s (.rdfl d a) d (fun _ => if isVec a then (match s.me.actives.head? with
      | none => 0
      | some f => rdl s a f) else rdl s a 0) := by
  refine gives_result (exec_rdfl s) fun _ l _ => ?_
  simp only [Team.actives_chargeI, Team.rd_chargeI]
  cases s.me.actives <;> rfl

theorem gives_rdlane (s : State) (d a b : Reg) :
    Gives s (.rdlane d a b) d (fun _ => if (rdl s b 0).toNat < s.me.lanes then rdl s a (rdl s b 0).toNat else 0) := by
  refine gives_result (exec_rdlane s) fun _ l _ => ?_
  simp only [Team.rd_chargeI]
  rfl

theorem roles_wrlane (d a b : Reg) : roles (.wrlane d a b) =
    [⟨d, .write, .vector, 1, 1⟩, ⟨a, .read, .scalar, 1, 1⟩, ⟨b, .read, .scalar, 1, 1⟩] := rfl

/-- What WRLANE makes of the team: one lane written, or nothing (R335, R440). -/
def wrlaneTeam (t : Team) (d a b : Reg) : Team :=
  if (t.rd b 0).toNat < t.lanes ∧ (t.trap.inHandler ∨ t.live.getLsbD (t.rd b 0).toNat) then
    t.wrLanes d [(t.rd b 0).toNat] (fun _ => t.rd a 0)
  else t

theorem sameButRegs_wrlaneTeam (t : Team) (d a b : Reg) : SameButRegs t (wrlaneTeam t d a b) := by
  unfold wrlaneTeam
  split
  · exact sameButRegs_wrLanes _ _ _ _
  · rfl

theorem wrlaneTeam_preds (t : Team) (d a b : Reg) : (wrlaneTeam t d a b).preds = t.preds := by
  unfold wrlaneTeam; split
  · exact wrLanes_preds _ _ _ _
  · rfl

theorem wrlaneTeam_sregs (t : Team) (j : Fin 192) (a b : Reg) : (wrlaneTeam t (.v j) a b).sregs = t.sregs := by
  unfold wrlaneTeam; split
  · exact Team.wrLanes_v_sregs _ _ _ _
  · rfl

/-- The one lane that WRLANE writes, in a team whose lanes the machine has (R40). -/
theorem rd_wrlaneTeam {t : Team} (hlanes : t.lanes ≤ 1024) (j : Fin 192) (a b r : Reg) {l : Nat} (hl : l < 1024) :
    (wrlaneTeam t (.v j) a b).rd r l =
      if r = .v j ∧ l = (t.rd b 0).toNat ∧ l < t.lanes ∧ (t.trap.inHandler = true ∨ t.live.getLsbD l = true)
      then t.rd a 0 else t.rd r l := by
  unfold wrlaneTeam
  by_cases h : (t.rd b 0).toNat < t.lanes ∧ (t.trap.inHandler = true ∨ t.live.getLsbD (t.rd b 0).toNat = true)
  · obtain ⟨hlt, hlive⟩ := h
    rw [if_pos ⟨hlt, hlive⟩, rd_wrLanes _ _ _ (by simp; omega) _ _ _ hl]
    by_cases hr : r = .v j ∧ l = (t.rd b 0).toNat
    · obtain ⟨rfl, rfl⟩ := hr
      simp [isVec, hlt, hlive]
    · rw [if_neg (by simpa [isVec] using hr), if_neg fun h => hr ⟨h.1, h.2.1⟩]
  · rw [if_neg h, if_neg]
    rintro ⟨-, rfl, hc⟩
    exact h hc

/-- WRLANE does what `Claims.SingleLaneMoves` says in every team whose lanes the machine has (R40, R335). -/
theorem wrlane_of_lanes_le (s : State) (d a b : Reg) (hlanes : s.me.lanes ≤ 1024) (hi : Issues (.wrlane d a b) s) :
    RegsOnly s (.wrlane d a b) fun u =>
      u.sregs = s.me.sregs ∧ u.preds = s.me.preds ∧ ∀ r l, l < 1024 → u.rd r l =
        if r = d ∧ l = (rdl s b 0).toNat ∧ l < s.me.lanes ∧ (s.me.trap.inHandler = true ∨ s.me.live.getLsbD l = true)
        then rdl s a 0 else s.me.rd r l := by
  have hd : isVec d = true := by
    by_contra h
    exact not_mem_breaches hi.1 3
      (mem_breaches_of_vector (r := ⟨d, .write, .vector, 1, 1⟩) s.me (by simp [roles_wrlane]) rfl (by simpa using h))
  obtain ⟨j, rfl⟩ : ∃ j, d = .v j := by
    cases d with
    | v j => exact ⟨j, rfl⟩
    | s j => simp [isVec] at hd
  have hw := sameButRegs_wrlaneTeam (charged (.wrlane (.v j) a b) s) (.v j) a b
  refine regsOnly_of_body (wrlaneTeam (charged (.wrlane (.v j) a b) s) (.v j) a b) hi (exec_wrlane s) ?_ hw
    ⟨wrlaneTeam_sregs _ _ _ _, wrlaneTeam_preds _ _ _ _, fun r l hl => ?_⟩
  · have hr : (wrlaneTeam (charged (.wrlane (.v j) a b) s) (.v j) a b).reissue = none := by rw [hw]; exact hi.2.2
    have hp : (wrlaneTeam (charged (.wrlane (.v j) a b) s) (.v j) a b).pc = s.me.pc := by rw [hw]; rfl
    simp only [State.mapMe_setMe]
    rw [← wrlaneTeam, State.advance_eq _ (by rwa [State.me_setMe]), State.me_setMe, State.setMe_setMe, hp]
  · rw [rd_moved, rd_wrlaneTeam (t := charged (.wrlane (.v j) a b) s) hlanes j a b r hl]
    simp only [Team.rd_chargeI]
    rfl

/-! ### VOTE (R336) -/

theorem mem_actives {t : Team} {l : Nat} : l ∈ t.actives ↔ l < t.lanes ∧ t.live.getLsbD l = true := by
  simp [Team.actives, Team.lanesOf]

/-- The lanes that vote for `p`. -/
def voteMask (t : Team) (p : Nat) : LaneMask := t.maskOf fun x => t.live.getLsbD x && t.pred p x

theorem getLsbD_voteMask {t : Team} {p l : Nat} : (voteMask t p).getLsbD l = true ↔ l ∈ t.actives ∧ t.pred p l = true := by
  rw [voteMask, Team.getLsbD_maskOf, mem_actives]
  by_cases h : l < 1024
  · simp [h, and_assoc]
  · simp [h, BitVec.getLsbD_of_ge t.live l (by omega)]

theorem getLsbD_maskOf_live {t : Team} {l : Nat} : (t.maskOf fun x => t.live.getLsbD x).getLsbD l = true ↔ l ∈ t.actives := by
  rw [Team.getLsbD_maskOf, mem_actives]
  by_cases h : l < 1024
  · simp [h]
  · simp [h, BitVec.getLsbD_of_ge t.live l (by omega)]

theorem voteMask_ne_zero {t : Team} {p : Nat} : voteMask t p ≠ 0 ↔ ∃ l ∈ t.actives, t.pred p l = true := by
  constructor
  · intro h
    by_contra hn
    refine h (BitVec.eq_of_getLsbD_eq fun l _ => ?_)
    rw [Bool.eq_iff_iff, getLsbD_voteMask]
    simpa using fun hl => by simpa using fun hp => hn ⟨l, hl, hp⟩
  · rintro ⟨l, hl, hp⟩ h
    have := getLsbD_voteMask.2 ⟨hl, hp⟩
    simp [h] at this

theorem voteMask_eq_live {t : Team} {p : Nat} :
    voteMask t p = (t.maskOf fun x => t.live.getLsbD x) ↔ ∀ l ∈ t.actives, t.pred p l = true := by
  constructor
  · intro h l hl
    have := getLsbD_maskOf_live.2 hl
    rw [← h] at this
    exact (getLsbD_voteMask.1 this).2
  · intro h
    refine BitVec.eq_of_getLsbD_eq fun l _ => ?_
    rw [Bool.eq_iff_iff, getLsbD_voteMask, getLsbD_maskOf_live]
    exact ⟨And.left, fun hl => ⟨hl, h l hl⟩⟩

/-- A mask word of the vote is the ballot of its 32 lanes (R40, R336). -/
theorem getLsbD_maskWord_voteMask (t : Team) (p k : Nat) {i : Nat} (hi : i < 32) :
    (maskWord (voteMask t p) k).getLsbD i = decide (32 * k + i ∈ t.actives ∧ t.pred p (32 * k + i) = true) := by
  rw [maskWord, BitVec.getLsbD_extractLsb', Bool.eq_iff_iff]
  simp [hi, getLsbD_voteMask]

theorem voteCountsActiveLanes : Claims.VoteCountsActiveLanes := by
  intro s d p pass
  refine ⟨gives_result (exec_vote s) fun _ l _ => ?_, gives_result (exec_vote s) fun _ l _ => ?_,
    fun l => if isVec d then maskWord (voteMask s.me p) (l / 32) else maskWord (voteMask s.me p) pass,
    gives_result (exec_vote s) fun _ l _ => rfl, fun l _ i hi => ?_⟩
  · exact if_congr voteMask_ne_zero rfl rfl
  · exact if_congr voteMask_eq_live rfl rfl
  · dsimp only
    split <;> exact getLsbD_maskWord_voteMask _ _ _ hi

end Sys2Proof.Compute
end

section
/-! The clause of O16 on RED and SCAN (R117, R118, R337, R338; log entry 106): it holds. -/
namespace Sys2Proof.Compute

open Sys2Proof Sys2Proof.Machine Sys2Proof.Claims

/-! ### Values that may be absent, joined in lane order -/

section
variable {f : Word → Word → Word}

@[simp] theorem joinOpt_none_left (y : Option Word) : joinOpt f none y = y := by cases y <;> rfl

@[simp] theorem joinOpt_none_right (x : Option Word) : joinOpt f x none = x := by cases x <;> rfl

theorem joinOpt_assoc (hf : ∀ x y z, f (f x y) z = f x (f y z)) (x y z : Option Word) :
    joinOpt f (joinOpt f x y) z = joinOpt f x (joinOpt f y z) := by
  cases x <;> cases y <;> cases z <;> simp [joinOpt, hf]

/-- The leaves of the lanes of a list, joined from the left. -/
def joinLanes (f : Word → Word → Word) (leaf : Nat → Option Word) (L : List Nat) : Option Word :=
  L.foldl (fun acc l => joinOpt f acc (leaf l)) none

variable {leaf : Nat → Option Word} (hf : ∀ x y z, f (f x y) z = f x (f y z))
include hf

theorem foldl_joinOpt (L : List Nat) : ∀ acc,
    L.foldl (fun acc l => joinOpt f acc (leaf l)) acc = joinOpt f acc (joinLanes f leaf L) := by
  induction L with
  | nil => intro acc; exact (joinOpt_none_right acc).symm
  | cons l r ih =>
    intro acc
    rw [joinLanes, List.foldl_cons, List.foldl_cons, ih, ih (joinOpt f none (leaf l)), joinOpt_none_left, joinOpt_assoc hf]

theorem joinLanes_append (L M : List Nat) :
    joinLanes f leaf (L ++ M) = joinOpt f (joinLanes f leaf L) (joinLanes f leaf M) := by
  rw [joinLanes, List.foldl_append, foldl_joinOpt hf]; rfl

/-- A node of the tree joins its lanes in order (R117). -/
theorem treeNode_eq_joinLanes : ∀ j lo, treeNode f leaf j lo = joinLanes f leaf (List.range' lo (2 ^ j)) := by
  intro j
  induction j with
  | zero => intro lo; simp [treeNode, joinLanes]
  | succ j ih =>
    intro lo
    rw [treeNode, ih, ih, ← joinLanes_append hf, pow_succ, mul_two]
    simp

/-- The running value over `n` passes joins their lanes in order (R117). -/
theorem passesValue_eq_joinLanes : ∀ n, passesValue f leaf n = joinLanes f leaf (List.range (32 * n)) := by
  intro n
  induction n with
  | zero => rfl
  | succ n ih =>
    rw [passesValue, ih, treeNode_eq_joinLanes hf, ← joinLanes_append hf, List.range_eq_range', List.range_eq_range']
    congr 1
    have := List.range'_append (s := 0) (m := 32 * n) (n := 2 ^ 5) (step := 1)
    simpa [Nat.mul_succ] using this

/-- The aligned blocks of a run of lanes are its lanes in order (R118). -/
theorem prefixBlocks_eq_joinLanes : ∀ j acc lo cnt, cnt < 2 ^ (j + 1) →
    prefixBlocks f leaf j acc lo cnt = joinOpt f acc (joinLanes f leaf (List.range' lo cnt)) := by
  intro j
  induction j with
  | zero =>
    intro acc lo cnt h
    obtain rfl | rfl : cnt = 0 ∨ cnt = 1 := by omega
    · simp [prefixBlocks, joinLanes]
    · simp [prefixBlocks, joinLanes]
  | succ j ih =>
    intro acc lo cnt h
    rw [prefixBlocks]
    split
    · rename_i hc
      rw [ih _ _ _ (by rw [pow_succ] at h; omega), treeNode_eq_joinLanes hf, joinOpt_assoc hf, ← joinLanes_append hf]
      have := List.range'_append (s := lo) (m := 2 ^ (j + 1)) (n := cnt - 2 ^ (j + 1)) (step := 1)
      rw [one_mul, Nat.add_sub_cancel' hc] at this
      rw [this]
    · exact ih _ _ _ (by omega)

/-- The inclusive value of a lane joins the lanes up to it (R118). -/
theorem scanValue_eq_joinLanes (l : Nat) : scanValue f leaf l = joinLanes f leaf (List.range (l + 1)) := by
  rw [scanValue, passesValue_eq_joinLanes hf, prefixBlocks_eq_joinLanes hf _ _ _ _ (by omega), joinOpt_none_left,
    ← joinLanes_append hf, List.range_eq_range', List.range_eq_range']
  congr 1
  have := List.range'_append (s := 0) (m := 32 * (l / 32)) (n := l % 32 + 1) (step := 1)
  rw [zero_add, one_mul, ← Nat.add_assoc, Nat.div_add_mod] at this
  rwa [Nat.mul_comm (l / 32)]

end

/-- With an identity on the left, joining is folding over the values that are there. -/
theorem getD_joinLanes {f : Word → Word → Word} {leaf : Nat → Option Word} {e : Word} (he : ∀ x, f e x = x) (L : List Nat) :
    (joinLanes f leaf L).getD e = (L.filterMap leaf).foldl f e := by
  have h : ∀ acc : Option Word, (L.foldl (fun acc l => joinOpt f acc (leaf l)) acc).getD e =
      (L.filterMap leaf).foldl f (acc.getD e) := by
    induction L with
    | nil => intro acc; rfl
    | cons l r ih =>
      intro acc
      rw [List.foldl_cons, ih]
      cases hl : leaf l with
      | none => rw [List.filterMap_cons_none hl, joinOpt_none_right]
      | some y =>
        rw [List.filterMap_cons_some hl, List.foldl_cons]
        cases acc with
        | none => simp [he]
        | some x => rfl
  exact h none

/-! ### The lanes of a reduction -/

theorem filter_lt_range (m n : Nat) : (List.range n).filter (· < m) = List.range (min n m) := by
  induction n with
  | zero => simp
  | succ n ih =>
    rw [List.range_succ, List.filter_append, ih]
    by_cases h : n < m
    · rw [Nat.min_eq_left h.le, Nat.min_eq_left h, List.range_succ]; simp [h]
    · rw [Nat.min_eq_right (by omega), Nat.min_eq_right (by omega)]; simp [h]

/-- The values of a reduction below lane `n` are those of the active lanes below it. -/
theorem filterMap_redLeaf (t : Team) (a : Reg) (n : Nat) :
    (List.range n).filterMap (redLeaf t a) = (t.actives.filter (· < n)).map (t.rd a) := by
  have hlanes : t.actives.filter (· < n) = (List.range n).filter fun l => t.live.getLsbD l && decide (l < t.lanes) := by
    rw [Team.actives, Team.lanesOf, List.filter_comm, filter_lt_range, Nat.min_comm, ← filter_lt_range, List.filter_filter]
  rw [hlanes, ← List.filterMap_eq_map, List.filterMap_filter]
  refine congrArg (List.filterMap · _) (funext fun l => ?_)
  simp [redLeaf, and_comm]

theorem le_of_getLast? {L : List Nat} {m l : Nat} (hs : L.Pairwise (· < ·)) (hm : L.getLast? = some m) (hl : l ∈ L) :
    l ≤ m := by
  obtain ⟨ys, rfl⟩ := List.getLast?_eq_some_iff.1 hm
  rcases List.mem_append.1 hl with h | h
  · exact ((List.pairwise_append.1 hs).2.2 l h m (by simp)).le
  · simp only [List.mem_singleton] at h; omega

theorem pairwise_actives (t : Team) : t.actives.Pairwise (· < ·) := List.pairwise_lt_range.filter _

theorem lt_passes {t : Team} {l : Nat} (h : l ∈ t.actives) : l < 32 * t.passes := by
  have := (mem_actives.1 h).1
  rw [Team.passes, ceilDiv]
  omega

/-- A lane that no active lane reaches has no value. -/
theorem redLeaf_eq_none {t : Team} {a : Reg} {l : Nat} (h : l ∉ t.actives) : redLeaf t a l = none := by
  rw [redLeaf, if_neg fun h' => h (mem_actives.2 h')]

/-! ### The highest active lane ends the tree (R118) -/

theorem treeNode_eq_none {f : Word → Word → Word} {leaf : Nat → Option Word} : ∀ j lo, (∀ l, lo ≤ l → leaf l = none) →
    treeNode f leaf j lo = none := by
  intro j
  induction j with
  | zero => intro lo h; exact h lo le_rfl
  | succ j ih => intro lo h; rw [treeNode, ih lo h, ih _ fun l hl => h l (le_trans (Nat.le_add_right _ _) hl)]; rfl

/-- Passes without a value change nothing. -/
theorem passesValue_of_le {f : Word → Word → Word} {leaf : Nat → Option Word} {m n : Nat} (hmn : m ≤ n)
    (h : ∀ l, 32 * m ≤ l → leaf l = none) : passesValue f leaf n = passesValue f leaf m := by
  induction n, hmn using Nat.le_induction with
  | base => rfl
  | succ n hn ih =>
    rw [passesValue, treeNode_eq_none 5 (32 * n) fun l hl => h l (by omega), joinOpt_none_right, ih]

theorem passesValue_of_last {t : Team} {f : Word → Word → Word} {a : Reg} {l : Nat} (h : t.actives.getLast? = some l) :
    passesValue f (redLeaf t a) (l / 32 + 1) = passesValue f (redLeaf t a) t.passes := by
  have hl : l ∈ t.actives := List.mem_of_getLast? h
  refine (passesValue_of_le (by have := lt_passes hl; omega) fun k hk => redLeaf_eq_none fun hka => ?_).symm
  have := le_of_getLast? (pairwise_actives t) h hka
  omega

/-- The inclusive value of a lane: at the highest active lane the root of the tree, elsewhere the blocks up to it (R118). -/
theorem scanLane_eq (t : Team) (a : Reg) (op l : Nat) :
    t.scanLane a op l = if t.actives.getLast? = some l then
        (passesValue (redOp t op) (redLeaf t a) t.passes).getD (redIdentity t op)
      else (scanValue (redOp t op) (redLeaf t a) l).getD (redIdentity t op) := by
  rw [Team.scanLane]
  split
  · rename_i h
    rw [passesValue_of_last h]
  · rfl

/-! ### The operations on 32-bit integers (R337) -/

theorem ite_slt_comm (x y : Word) : (if y.slt x then y else x) = if x.slt y then x else y := by
  rw [slt_total x y]
  cases h : x.slt y <;> by_cases e : x = y <;> simp [e]

theorem ite_ult_comm (x y : Word) : (if y.ult x then y else x) = if x.ult y then x else y := by
  rw [ult_total x y]
  cases h : x.ult y <;> by_cases e : x = y <;> simp [e]

theorem redOp_eq_redFn {t : Team} {op : Nat} (he : t.etype ≠ 4) (hop : op < 8) (hs : op = 0 → t.sat = false) :
    redOp t op = redFn op := by
  funext x y
  interval_cases op
  · rw [redOp, hs rfl, addOp, exactOp_word _ _ he]; exact ofInt_toInt_add x y
  · exact (minOp_word he x y).trans (ite_slt_comm x y)
  · exact maxOp_word he x y
  · exact (minuOp_word he x y).trans (ite_ult_comm x y)
  · exact maxuOp_word he x y
  · rfl
  · rfl
  · rfl

theorem redIdentity_eq_redId {t : Team} {op : Nat} (he : t.etype ≠ 4) (hop : op < 8) : redIdentity t op = redId op := by
  have hw := intHalves_word he
  interval_cases op <;> simp [redIdentity, redId, hw]

/-- The smaller and the larger of two values under an integer key. -/
def lesser {α : Type} (key : α → Int) (x y : α) : α := if key x < key y then x else y
def greater {α : Type} (key : α → Int) (x y : α) : α := if key x < key y then y else x

section
variable {α : Type} {key : α → Int}

theorem lesser_assoc (x y z : α) : lesser key (lesser key x y) z = lesser key x (lesser key y z) := by grind [lesser]

theorem greater_assoc (x y z : α) : greater key (greater key x y) z = greater key x (greater key y z) := by grind [greater]

theorem lesser_of_le {e x : α} (h : key x ≤ key e) : lesser key e x = x := if_neg (not_lt.2 h)

theorem greater_of_le (hk : Function.Injective key) {e x : α} (h : key e ≤ key x) : greater key e x = x := by
  rcases h.lt_or_eq with h | h
  · exact if_pos h
  · rw [hk h]; exact ite_self x

end

theorem redFn_one : redFn 1 = lesser BitVec.toInt := by
  funext x y; simp [redFn, lesser, BitVec.slt_iff_toInt_lt]

theorem redFn_two : redFn 2 = greater BitVec.toInt := by
  funext x y; simp [redFn, greater, BitVec.slt_iff_toInt_lt]

theorem redFn_three : redFn 3 = lesser fun x => (x.toNat : Int) := by
  funext x y; simp [redFn, lesser, BitVec.ult_iff_lt, BitVec.lt_def]

theorem redFn_four : redFn 4 = greater fun x => (x.toNat : Int) := by
  funext x y; simp [redFn, greater, BitVec.ult_iff_lt, BitVec.lt_def]

theorem redFn_assoc {op : Nat} (hop : op < 8) (x y z : Word) : redFn op (redFn op x y) z = redFn op x (redFn op y z) := by
  interval_cases op
  · exact BitVec.add_assoc x y z
  · rw [redFn_one]; exact lesser_assoc x y z
  · rw [redFn_two]; exact greater_assoc x y z
  · rw [redFn_three]; exact lesser_assoc x y z
  · rw [redFn_four]; exact greater_assoc x y z
  · exact BitVec.and_assoc x y z
  · exact BitVec.or_assoc x y z
  · exact BitVec.xor_assoc x y z

theorem redFn_redId {op : Nat} (hop : op < 8) (x : Word) : redFn op (redId op) x = x := by
  interval_cases op
  · exact BitVec.zero_add x
  · rw [redFn_one]; exact lesser_of_le (Int.le_of_lt_add_one BitVec.toInt_lt)
  · rw [redFn_two]; exact greater_of_le (fun _ _ => BitVec.eq_of_toInt_eq) (BitVec.le_toInt x)
  · rw [redFn_three]; exact lesser_of_le (Int.ofNat_le.2 (Nat.le_of_lt_succ x.isLt))
  · rw [redFn_four]; exact greater_of_le (fun _ _ h => BitVec.eq_of_toNat_eq (Int.ofNat.inj h)) (Int.natCast_nonneg _)
  · exact BitVec.allOnes_and
  · exact BitVec.zero_or
  · exact BitVec.zero_xor

/-! ### RED and SCAN are folds over the active lanes -/

section
variable {t : Team} {a : Reg} {op : Nat} (he : t.etype ≠ 4) (hop : op < 8) (hs : op = 0 → t.sat = false)

/-- The fold of R337 over the lanes of a list. -/
def redFold (t : Team) (a : Reg) (op : Nat) (L : List Nat) : Word :=
  L.foldl (fun acc l => redFn op acc (t.rd a l)) (redId op)

include he hop hs

/-- What is joined below lane `n` is the fold over the active lanes below it. -/
theorem getD_joinLanes_redLeaf (n : Nat) :
    (joinLanes (redOp t op) (redLeaf t a) (List.range n)).getD (redIdentity t op) =
      redFold t a op (t.actives.filter (· < n)) := by
  rw [redOp_eq_redFn he hop hs, redIdentity_eq_redId he hop, getD_joinLanes (redFn_redId hop), filterMap_redLeaf,
    List.foldl_map]
  rfl

theorem redOp_assoc (x y z : Word) : redOp t op (redOp t op x y) z = redOp t op x (redOp t op y z) := by
  rw [redOp_eq_redFn he hop hs]; exact redFn_assoc hop x y z

/-- RED is the fold over the active lanes. -/
theorem getD_passesValue :
    (passesValue (redOp t op) (redLeaf t a) t.passes).getD (redIdentity t op) = redFold t a op t.actives := by
  rw [passesValue_eq_joinLanes (redOp_assoc he hop hs), getD_joinLanes_redLeaf he hop hs, List.filter_eq_self.2]
  exact fun l hl => decide_eq_true (lt_passes hl)

/-- The inclusive value of a lane is the fold over the active lanes up to it, at the highest one too. -/
theorem scanLane_eq_redFold (l : Nat) : t.scanLane a op l = redFold t a op (t.actives.filter (· ≤ l)) := by
  rw [scanLane_eq]
  split
  · rename_i h
    rw [getD_passesValue he hop hs, List.filter_eq_self.2]
    exact fun k hk => decide_eq_true (le_of_getLast? (pairwise_actives t) h hk)
  · rw [scanValue_eq_joinLanes (redOp_assoc he hop hs), getD_joinLanes_redLeaf he hop hs]
    simp only [Nat.lt_succ_iff]

/-- The exclusive value of a lane: the inclusive one of the next lower active lane, or the identity (R338). -/
theorem exclusive_eq_redFold (l : Nat) :
    (match (t.actives.filter (· < l)).getLast? with
      | none => redIdentity t op
      | some k => t.scanLane a op k) = redFold t a op (t.actives.filter (· < l)) := by
  cases h : (t.actives.filter (· < l)).getLast? with
  | none => rw [List.getLast?_eq_none_iff.1 h, redIdentity_eq_redId he hop]; rfl
  | some k =>
    have hk := List.mem_filter.1 (List.mem_of_getLast? h)
    have hlanes : t.actives.filter (· ≤ k) = t.actives.filter (· < l) := by
      refine List.filter_congr fun x hx => ?_
      rw [decide_eq_decide]
      refine ⟨fun hxk => lt_of_le_of_lt hxk (by simpa using hk.2), fun hxl => ?_⟩
      exact le_of_getLast? ((pairwise_actives t).filter _) h (List.mem_filter.2 ⟨hx, by simpa using hxl⟩)
    exact (scanLane_eq_redFold he hop hs k).trans (by rw [hlanes])

end

theorem reductionsAndPrefixes : Claims.ReductionsAndPrefixes := by
  intro s d a op
  refine ⟨fun he hop hs _ => ⟨gives_result (exec_red s) fun _ l _ => ?_, gives_result (exec_scan s) fun _ l _ => ?_,
    gives_result (exec_scan s) fun _ l _ => ?_⟩, gives_result (exec_red s) fun _ l _ => ?_,
    gives_result (exec_scan s) fun _ l _ => ?_⟩
  · exact getD_passesValue (t := charged _ s) he hop hs
  · exact scanLane_eq_redFold (t := charged _ s) he hop hs l
  · exact exclusive_eq_redFold (t := charged _ s) he hop hs l
  · rfl
  · exact scanLane_eq (charged _ s) a op.val l

end Sys2Proof.Compute
end

section
/-! O16 (R40, R335): WRLANE in a team of more lanes than the machine has. -/
namespace Sys2Proof.Compute

open Sys2Proof Sys2Proof.Machine Sys2Proof.Claims

/-- The state that an instruction leaves. -/
def stateAfter (i : Instr) (s : State) : State := match exec i s with
  | .next t => t
  | _ => s

theorem stateAfter_of_next {i : Instr} {s t : State} (h : exec i s = .next t) : stateAfter i s = t := by
  rw [stateAfter, h]

/-- A device whose running team has 1,025 lanes and stands in its handler, with 1 in s1 and 1,024 in s2. -/
def wideDev : State :=
  { cur := 0, teams := [(0, { lanes := 1025, trap := { inHandler := true }, sregs := [(1, 1), (2, 1024)] })] }

/-- There WRLANE v0, s1, s2 issues, and its write to lane 1,024 of v0 lands in lane 0 of v1. -/
theorem wideDev_wrlane : Issues (.wrlane (.v 0) (.s 1) (.s 2)) wideDev ∧
    (stateAfter (.wrlane (.v 0) (.s 1) (.s 2)) wideDev).me.rd (.v 1) 0 = 1 ∧ wideDev.me.rd (.v 1) 0 = 0 := by
  unfold Issues; decide +kernel

/-- Refutes O16: in `wideDev`, WRLANE of lane 1,024 of v0 changes lane 0 of v1, which `Claims.SingleLaneMoves` says keeps its
value. R40 admits no team of 1,025 lanes, but the statement ranges over every state; for a team of at most 1,024 lanes WRLANE is as
claimed (`wrlane_of_lanes_le`), and every other clause of O16 holds. -/
theorem not_laneMovesVotesAndReductions : ¬ Obligations.LaneMovesVotesAndReductions := by
  rintro ⟨-, hmoves, -, -⟩
  obtain ⟨hissues, hafter, hbefore⟩ := wideDev_wrlane
  obtain ⟨-, -, hwrlane⟩ := hmoves wideDev (.v 0) (.s 1) (.s 2)
  obtain ⟨u, hexec, -, -, -, hrd⟩ := hwrlane hissues
  have hkept : u.rd (.v 1) 0 = wideDev.me.rd (.v 1) 0 := by
    rw [hrd (.v 1) 0 (by decide), if_neg (by decide)]
  rw [stateAfter_of_next hexec, State.me_setMe, hkept, hbefore] at hafter
  exact absurd hafter (by decide)

end Sys2Proof.Compute
end
